-- ==== Sys2Proof/Word.lean ====
section
/-! DEFINITION. The word types of Praux: registers and queue words are 64 bits wide (R11, R24),
counters 48 bits (R19, R76), bytes 8 bits. Only the types and their plainest arithmetic stand here. -/

namespace Sys2Proof

/-- One byte. -/
abbrev Byte := BitVec 8

/-- A register, a queue word, a stream word, a descriptor word. -/
abbrev W64 := BitVec 64

/-- A counter in the layout of R76, and a cycle count of R19: 48 bits, wrapping. -/
abbrev Ctr := BitVec 48

/-- The bits of an IEEE 754 binary32 element (R153). -/
abbrev F32 := BitVec 32

/-- A word as it lies in a cell pool: 64 bits and the poison tag it is delivered with (R33). -/
structure PWord where
  w : W64
  poison : Bool := false
deriving DecidableEq, Repr

/-- Port slice number n of PSn (R13). -/
abbrev SliceNo := Fin 32
/-- Link group number n of LGn (R13). -/
abbrev GroupNo := Fin 16
/-- Crossbar quadrant number n of XQn (R13). -/
abbrev QuadNo := Fin 4
/-- Island number 0-59 (R13). -/
abbrev IslandNo := Fin 60

/-- Element formats by the codes of R153 (the same codes as R65). -/
inductive Fmt where
  | p4 | p8 | h16 | f32
deriving DecidableEq, Repr, Inhabited

/-- Codes of an object record (R156). -/
inductive Code where
  | raw | frc | zfc | byte
deriving DecidableEq, Repr, Inhabited

end Sys2Proof
end

