-- ==== Sys2Proof/Syntax.lean ====
section
/-! DEFINITION. The commands of Praux: one constructor per row of spec/opcode_table.json. The table gives no
operands; each constructor carries what the rule of its row needs to know. -/

namespace Sys2Proof

/-- Who asked, as the header of a fabric packet says it (R424, R425): block, unit code and tag. -/
structure Requester where
  block : BitVec 12
  unit : BitVec 6
  tid : BitVec 16
deriving DecidableEq, Repr, Inhabited

/-- An object record as the two words of R156. -/
structure RecWords where
  w0 : W64
  w1 : W64
deriving DecidableEq, Repr, Inhabited

/-- What the parity checkers see when a packet is read out of a pool (R33, R35): which bytes of the length word fail (bit b for byte
b), the bits by which the length word reads other than it was written, whether a cell link fails, the positions of failing packet
words, and which of the packet's cells it is, from 0, in which the failures lie. -/
structure ParityObs where
  lenBytes : BitVec 8 := 0
  lenXor : W64 := 0
  link : Bool := false
  words : List Nat := []
  inCell : Nat := 0
deriving DecidableEq, Repr, Inhabited

/-- A home word (R427). -/
structure HomeWord where
  valid : Bool
  slice : BitVec 5
  block : BitVec 12
deriving DecidableEq, Repr, Inhabited

/-- A stored plate as it travels (R18, R154): its words in stored form and the bytes of its scale line. -/
structure PlateWords where
  body : List Byte
  scale : List Byte := []
  poison : Bool := false
deriving DecidableEq, Repr, Inhabited

/-- An event at a detector (R448, R449): the detector code and instance, the object and plate it concerns,
the ARG of its record (R482), and whether it was injected. -/
structure DetEvent where
  code : BitVec 16
  inst : BitVec 16
  oid : BitVec 40 := 0
  plate : BitVec 24 := 0
  arg : W64 := 0
  injected : Bool := false
deriving DecidableEq, Repr, Inhabited

/-- How a register request and its answer crossed the queues between CFG and an island (R33, R81): clean, or one of them
poisoned. -/
inductive Crossing where
  | clean | request | answer
deriving DecidableEq, Repr, Inhabited

/-- A request on the register channel (R77): a write or a read, the address bits 23:3 and the write data. -/
structure RegAsk where
  wr : Bool
  addr : BitVec 21
  data : W64
deriving DecidableEq, Repr, Inhabited

/-- A doorbell (R83): its data, and whether CMD acts on its doorbell buffer at once or later (R84). -/
structure Bell where
  word : W64
  act : Bool
deriving DecidableEq, Repr, Inhabited

/-- The commands, in the order of spec/opcode_table.json. -/
inductive Instr where
  -- resets and clocks
  | porAssert
  | porRelease
  | islandResetAssert (k : IslandNo)
  | islandResetRelease (k : IslandNo)
  | checkWindowClose
  -- crossing queues
  | packetOpen (x : QuadNo) (q : BitVec 16) (maxWords : BitVec 16) (written : List PWord)
  | packetClose (x : QuadNo) (q : BitVec 16) (more : List PWord) (tag : BitVec 24) (poisonIn : Bool)
  | packetVisible (x : QuadNo) (q : BitVec 16)
  | packetConsume (x : QuadNo) (q : BitVec 16) (parity : ParityObs)
  | queueWriteFull (x : QuadNo) (q : BitVec 16) (w : W64)
  | quadrantForward (x : QuadNo) (q : BitVec 16) (dest : IslandNo) (parity : ParityObs)
  -- memory ports
  | mpUpRise (p : SliceNo)
  | mpUpStable (p : SliceNo)
  | mpUpFall (p : SliceNo)
  | mpNotReady (p : SliceNo)
  | mpDownForced (p : SliceNo)
  | mpRequestIssue (p : SliceNo) (rd wr : Option (BitVec 8))
  | mpWriteDataBeat (p : SliceNo)
  | mpReadResponse (p : SliceNo) (tag : BitVec 8) (data : List Byte) (poison : Bool) (err : BitVec 4)
  | mpWriteResponse (p : SliceNo) (tag : BitVec 8) (err : BitVec 4)
  | mpTagTimeout (p : SliceNo) (tag : BitVec 8)
  | mpHeldRequestTimeout (p : SliceNo) (index : Nat)
  -- export and import ports
  | exportBeat (p : SliceNo)
  | exportAbandon (p : SliceNo)
  | importStreamOpen (p : SliceNo)
  | importBeat (p : SliceNo) (stream : BitVec 8) (beat : BitVec 8) (fmt : Fmt) (data scale : List Byte)
      (last poison : Bool)
  | importPlateTimeout (p : SliceNo) (stream : BitVec 8)
  | importStreamIdleTimeout (p : SliceNo) (stream : BitVec 8)
  -- register and doorbell channels
  | registerWrite (tag : BitVec 4) (ask : RegAsk) (hold : Bool) (via : List (IslandNo × Crossing))
  | broadcastWrite (tag : BitVec 4) (addr : BitVec 21) (data : W64) (via : List (IslandNo × Crossing))
  | registerResponseTimeout (tag : BitVec 4) (wr : Bool) (addr : BitVec 21) (data : W64)
  | doorbell (bell : Bell)
  -- network window
  | nwPathUpRise
  | nwPathUpStable
  | nwPathDown
  | nwRequestIssue (tag : BitVec 8)
  | nwWriteDataBeat
  | nwReadBeat (tag : BitVec 8) (data : List Byte) (last : Bool) (err : BitVec 2)
  | nwWriteAck (tag : BitVec 8) (err : BitVec 2)
  | nwTagTimeout (tag : BitVec 8)
  | pmaRxLockFall (g : GroupNo) (lane : Fin 12)
  | attnCauseClear (mask : BitVec 16)
  | actUpExpire (p : SliceNo)
  | bistNetworkStart (k : IslandNo)
  -- structure stream
  | streamWord (w : W64)
  | streamTruncated
  | streamResyncEnd
  | quiesceRequest (k : IslandNo)
  | islandQuiesced (k : IslandNo)
  | quiesceRelease (k : IslandNo)
  | keyCommit (data : W64)
  -- data at rest, codes and the store path
  | guardLineFill (p : SliceNo) (line : BitVec 32)
  | guardWritebackTimer (p : SliceNo) (line : BitVec 32)
  | frcEncode (p : SliceNo)
  | plateWrite (p : SliceNo)
  | storePlate (p : SliceNo)
  | frameClaim (p : SliceNo) (oid : BitVec 40) (span : BitVec 18)
  | indexWrite (p : SliceNo) (oid : BitVec 40) (span : BitVec 18)
  | spanSwing (p : SliceNo) (oid : BitVec 40) (span : BitVec 18)
  | frameFree (p : SliceNo) (oid : BitVec 40) (span : BitVec 18)
  | deferredSwings (run : Nat)
  -- Spectrograph and table slots
  | histogramSend (p : SliceNo)
  | tableBuild
  | slotLive (slot : Fin 64)
  | slotDrainedReport (p : SliceNo) (slot : Fin 64)
  | slotDrainComplete (slot : Fin 64)
  | slotHoldTimeout (slot : Fin 64)
  -- Eyepiece
  | plateAdmissible (p : SliceNo) (id : Nat)
  | contextSwitch (p : SliceNo) (ctx : Fin 16)
  | laneAssign (p : SliceNo)
  | substreamEnd (p : SliceNo) (lane : Fin 128)
  | substreamDecodeTimeout (p : SliceNo) (lane : Fin 128)
  | tableCacheFill (p : SliceNo) (slot : Fin 64)
  -- Dense Plate Engine and Binocular mode
  | rowBlockLoad (p : SliceNo)
  | passStart (p : SliceNo)
  | activationRowIssue (p : SliceNo) (failing : List (Fin 64))
  | outputFinal (p : SliceNo)
  | accumulatorDrain (p : SliceNo)
  | pairJoin (pair : Fin 16)
  | pairSeparate (pair : Fin 16)
  | portEndReadyNotice (p : SliceNo)
  | twinTakeUp (p : SliceNo)
  -- engine choice and Sparse Merge Engine
  | engineChoice (p : SliceNo)
  | chunkQueue (p : SliceNo)
  | taskRun (p : SliceNo) (lane : Fin 32)
  | workSteal (p : SliceNo) (lane : Fin 32)
  | spillRecordWrite (p : SliceNo)
  | groupEnd (p : SliceNo)
  | drainRound (p : SliceNo)
  -- command queues
  | entryFetch (q : Fin 64)
  | staleRefetch (q : Fin 64)
  | nop (q : Fin 64)
  | plateMatmul (q : Fin 64)
  | exportCmd (q : Fin 64)
  | importCmd (q : Fin 64)
  | compress (q : Fin 64)
  | recode (q : Fin 64)
  | move (q : Fin 64)
  | copy (q : Fin 64)
  | prefetch (q : Fin 64)
  | evict (q : Fin 64)
  | pin (q : Fin 64)
  | unpin (q : Fin 64)
  | reduce (q : Fin 64)
  | hostRead (q : Fin 64)
  | hostWrite (q : Fin 64)
  | signal (q : Fin 64)
  | wait (q : Fin 64)
  | waitRelease (q : Fin 64)
  | fence (q : Fin 64)
  | tableLoad (q : Fin 64)
  | tableRetire (q : Fin 64)
  | scrub (q : Fin 64)
  | commandComplete (run : Nat)
  | cqRecordHeldWrite (cq : Fin 16)
  | hostCompletionWrite (run : Nat)
  | queueConfigWrite (tag : BitVec 4) (addr : BitVec 21) (data : W64) (via : Crossing)
  | queueReset (q : Fin 64) (newHead : BitVec 17) (halt resume : Bool)
  | queueHalt (q : Fin 64) (resume : Bool)
  | queueResume (q : Fin 64)
  | cqRead (tag : BitVec 4) (cq : Fin 16) (parity : ParityObs)
  -- Meridian Link
  | markerReceive (g : GroupNo) (lane : Fin 12) (w : BitVec 128)
  | frameReceive (g : GroupNo) (words : List (List (BitVec 128)))
  | flitSend (g : GroupNo) (parity : List ParityObs)
  | replayTimeout (g : GroupNo)
  | trainingTimeout (g : GroupNo)
  | linkRetrain (g : GroupNo)
  | linkRestart (g : GroupNo)
  -- fabric transactions
  | fabricPacketArrive (x : QuadNo) (j : Fin 4) (v : Fin 8) (parity : ParityObs)
  | peerQueueDispatch (x : QuadNo) (v : Fin 8) (parity : ParityObs)
  | requestTimeout (unit : BitVec 6) (tid : BitVec 16)
  | rdReq (p : SliceNo) (from_ : Requester) (oid : BitVec 40) (plate : BitVec 24)
  | rdRsp (p : SliceNo) (tid : BitVec 16) (status : BitVec 4) (newHome : HomeWord) (plate : PlateWords)
  | wrReq (p : SliceNo) (from_ : Requester) (oid : BitVec 40) (plate : BitVec 24) (data : PlateWords)
  | lookup (from_ : Requester) (oid : BitVec 40) (span : BitVec 18)
  | lookupRsp (tid : BitVec 16) (status : BitVec 4) (object override : List W64)
  | register (from_ : Requester) (record : RecWords)
  | objReq (from_ : Requester) (oid : BitVec 40)
  | objRsp (tid : BitVec 16) (status : BitVec 4) (record : RecWords)
  | cmdx (from_ : Requester) (opcode : BitVec 8) (words : List W64)
  | spanMoveStart (index : Nat)
  | mvStart (from_ : Requester) (oid : BitVec 40) (span : BitVec 18) (newHome : HomeWord) (moveNo : BitVec 32)
  | mvData (p : SliceNo) (from_ : Requester) (oid : BitVec 40) (plate : BitVec 24) (segment : BitVec 4)
      (line : BitVec 16) (data : PlateWords)
  | copyDone (from_ : Requester) (oid : BitVec 40) (span : BitVec 18) (status : BitVec 4) (newHome : HomeWord)
  | commit (from_ : Requester) (oid : BitVec 40) (span : BitVec 18) (newHome : HomeWord) (abort : Bool) (why : BitVec 4)
  | mirror (from_ : Requester) (entries : List (List W64))
  | commitAck (oid : BitVec 40) (span : BitVec 18) (newHome : HomeWord)
  | cmdxResult (tid : BitVec 16) (status : BitVec 4) (plates : BitVec 24)
  | fabricAck (unit : BitVec 6) (tid : BitVec 16) (status : BitVec 4) (newHome : HomeWord) (plates : BitVec 24)
  | free (from_ : Requester) (oid : BitVec 40) (span : BitVec 18)
  | pinSet (from_ : Requester) (oid : BitVec 40) (span : BitVec 18) (pinned : Bool)
  | evictReq (from_ : Requester) (oid : BitVec 40) (span : BitVec 18) (tier : BitVec 2)
  | join (from_ : Requester) (role : BitVec 4) (icount : BitVec 8) (islice : List Byte) (freeExtents : BitVec 64)
  | occ (from_ : Requester) (freeExtents : List (BitVec 64)) (freeEntries : BitVec 64)
  | occSend
  | sig (from_ : Requester) (set : Bool) (counter : BitVec 8) (value : BitVec 32)
  | redData (p : SliceNo) (from_ : Requester) (oid : BitVec 40) (plate : BitVec 24) (rcc : BitVec 2)
      (data : List Byte) (poison : Bool)
  -- faults, Survey and managers
  | detectorEvent (k : IslandNo) (e : DetEvent)
  | detectorWindowStart (k : IslandNo) (code inst : BitVec 16)
  | healStart
  | healEnd (oid : BitVec 40) (plate : BitVec 24)
  | haltSet (mask : BitVec 16)
  | patrolBurst
  | auditCompare (differs : Bool)
  | mirrorBeat
  -- Logbook, injection, counters
  | reportSend (k : IslandNo) (poisoned : Bool)
  | logReportTake
  | stagedAppend
  | logRead (tag : BitVec 4) (parity : ParityObs)
  | logCodeSeenClear
  | injArm (tag : BitVec 4) (count : BitVec 16) (spacing : BitVec 32) (via : Crossing)
  | injCancel
  | islandSnap (k : IslandNo) (freeze : Bool)
  | prauxSnap (freeze : Bool)
  -- start-up
  | islandBist (k : IslandNo) (pass : Bool)
  | linkBringupBound (g : GroupNo)
  | mgrStepBound
  | joinResend
  | cmdEnable
  | readySet
  | readyClear
  | pmaTxRdyChange (g : GroupNo) (lane : Fin 12) (up : Bool)
  | markerMissing (g : GroupNo) (lane : Fin 12)
  | islandClockStart (k : IslandNo)
  | islandClockStop (k : IslandNo)
  | cfgSelfTestEnd (pass : Bool)
  | ephReloadEnd
  | freeRunOverflowMerge
deriving DecidableEq, Repr

end Sys2Proof
end

