-- ==== Sys2Proof/Machine/Bits.lean ====
section
/-! DEFINITION. Bit fields, byte order, cyclic redundancy checks and the canonical maps that the rest of the
model is written with. -/

namespace Sys2Proof.Machine

/-- The field of bits `hi:lo` of a word, as a number. -/
def fld (w : W64) (hi lo : Nat) : Nat := (w.toNat >>> lo) % 2 ^ (hi - lo + 1)

/-- The field of bits `hi:lo` of a word, as a bit vector of width `n`. -/
def bits (n : Nat) (w : W64) (lo : Nat) : BitVec n := BitVec.ofNat n (w.toNat >>> lo)

/-- Bit `i` of a word. -/
def bitAt (w : W64) (i : Nat) : Bool := w.getLsbD i

/-- A value placed at bit `lo` of a word. -/
def put (v lo : Nat) : W64 := BitVec.ofNat 64 (v * 2 ^ lo)

/-- A flag placed at bit `i` of a word. -/
def flag (b : Bool) (i : Nat) : W64 := if b then BitVec.ofNat 64 (2 ^ i) else 0

/-- The or of several placed fields: a register's read value. -/
def packW (l : List W64) : W64 := l.foldl (· ||| ·) 0

/-- A number saturated at `2 ^ n - 1`. -/
def sat (n v : Nat) : Nat := min v (2 ^ n - 1)

/-- The `n` bytes of a number, least significant first. -/
def leBytes : Nat → Nat → List Byte
  | 0, _ => []
  | n + 1, v => BitVec.ofNat 8 v :: leBytes n (v / 256)

/-- The number that bytes spell, least significant first. -/
def leNat : List Byte → Nat
  | [] => 0
  | b :: r => b.toNat + 256 * leNat r

/-- The 64-bit word that eight bytes spell, byte 0 in bits 7:0. -/
def leWord (l : List Byte) : W64 := BitVec.ofNat 64 (leNat (l.take 8))

/-- The bytes of a list of words, word 0 first, byte 0 of each first. -/
def wordsBytes (l : List W64) : List Byte := l.flatMap fun w => leBytes 8 w.toNat

/-- Cuts a list into pieces of `n`, the last one shorter where they do not fill. -/
def chunks {α : Type} (n : Nat) : Nat → List α → List (List α)
  | 0, _ => []
  | _ + 1, [] => []
  | k + 1, l => l.take n :: chunks n k (l.drop n)

/-- The 64-bit words of a list of bytes, the last one filled with zeros. -/
def bytesWords (l : List Byte) : List W64 := (chunks 8 (l.length / 8 + 1) l).map leWord

/-- A list brought to length `n`: cut, or filled with zero bytes. -/
def fit (n : Nat) (l : List Byte) : List Byte := (l ++ List.replicate (n - l.length) 0).take n

/-- A list with the piece from position `i` overwritten by `new`. -/
def splice {α : Type} (l : List α) (i : Nat) (new : List α) : List α :=
  l.take i ++ new ++ l.drop (i + new.length)

/-- The bits of a list of bytes, most significant bit of each byte first (R183, R388). -/
def msbBits (l : List Byte) : List Bool :=
  l.flatMap fun b => [b.getLsbD 7, b.getLsbD 6, b.getLsbD 5, b.getLsbD 4,
    b.getLsbD 3, b.getLsbD 2, b.getLsbD 1, b.getLsbD 0]

/-- The bits of a list of bytes, least significant bit of each byte first (R384). -/
def lsbBits (l : List Byte) : List Bool :=
  l.flatMap fun b => [b.getLsbD 0, b.getLsbD 1, b.getLsbD 2, b.getLsbD 3,
    b.getLsbD 4, b.getLsbD 5, b.getLsbD 6, b.getLsbD 7]

/-- The number that bits spell, first bit most significant. -/
def msbNat (l : List Bool) : Nat := l.foldl (fun a b => 2 * a + b.toNat) 0

/-- The number that bits spell, first bit least significant. -/
def lsbNat : List Bool → Nat
  | [] => 0
  | b :: r => b.toNat + 2 * lsbNat r

/-- The `n` bits of a number, most significant first. -/
def natMsb : Nat → Nat → List Bool
  | 0, _ => []
  | n + 1, v => (v / 2 ^ n % 2 == 1) :: natMsb n v

/-- The `n` bits of a number, least significant first. -/
def natLsb : Nat → Nat → List Bool
  | 0, _ => []
  | n + 1, v => (v % 2 == 1) :: natLsb n (v / 2)

/-- Bytes from bits, most significant bit of each byte first. -/
def bytesOfMsb (l : List Bool) : List Byte :=
  (chunks 8 (l.length / 8 + 1) l).map fun c =>
    BitVec.ofNat 8 (msbNat (c ++ List.replicate (8 - c.length) false))

/-- Bytes from bits, least significant bit of each byte first. -/
def bytesOfLsb (l : List Bool) : List Byte :=
  (chunks 8 (l.length / 8 + 1) l).map fun c => BitVec.ofNat 8 (lsbNat c)

/-- The exclusive-or of all bytes (R330). -/
def xorBytes (l : List Byte) : Byte := l.foldl (· ^^^ ·) 0

/-- Even parity bit of a byte (R33). -/
def evenParity (b : Byte) : Bool := ((List.range 8).filter fun i => b.getLsbD i).length % 2 == 1

/-- One step of the reflected CRC-32C (R115). -/
def crc32cBit (c : Nat) : Nat := if c % 2 == 1 then (c / 2) ^^^ 0x82F63B78 else c / 2

/-- One byte into the reflected CRC-32C (R115). -/
def crc32cByte (c : Nat) (b : Byte) : Nat :=
  (List.range 8).foldl (fun a _ => crc32cBit a) (c ^^^ b.toNat)

/-- CRC-32C: Castagnoli polynomial 0x1EDC_6F41 reflected, initial value and final XOR all ones (R115). -/
def crc32c (l : List Byte) : BitVec 32 :=
  BitVec.ofNat 32 ((l.foldl crc32cByte 0xFFFFFFFF) ^^^ 0xFFFFFFFF)

/-- A CRC of width `n` that is not reflected and has no final XOR, each byte most significant bit first. -/
def crcMsb (n poly init : Nat) (l : List Byte) : Nat :=
  (msbBits l).foldl (fun c b =>
    let top := c / 2 ^ (n - 1) % 2 == 1
    let c' := (2 * c) % 2 ^ n
    if top != b then c' ^^^ poly else c') init

/-- CRC-16 with polynomial 0x1021 and initial value 0xFFFF (R192). -/
def crc16 (l : List Byte) : BitVec 16 := BitVec.ofNat 16 (crcMsb 16 0x1021 0xFFFF l)

/-- CRC-24 with polynomial 0x86_4CFB and initial value 0xB7_04CE (R388). -/
def crc24 (l : List Byte) : BitVec 24 := BitVec.ofNat 24 (crcMsb 24 0x864CFB 0xB704CE l)

/-! Finite maps as plain data: lists of key and value with keys rising. -/

/-- The value at key `k`, if the map lists it. -/
def KMap.get? {β : Type} (m : List (Nat × β)) (k : Nat) : Option β :=
  (m.find? fun e => e.1 == k).map (·.2)

/-- The value at key `k`, or `d`. -/
def KMap.getD {β : Type} (m : List (Nat × β)) (k : Nat) (d : β) : β := (KMap.get? m k).getD d

/-- The map without key `k`. -/
def KMap.del {β : Type} (m : List (Nat × β)) (k : Nat) : List (Nat × β) := m.filter fun e => e.1 != k

/-- The map with key `k` set to `v`, keys rising. -/
def KMap.put {β : Type} : List (Nat × β) → Nat → β → List (Nat × β)
  | [], k, v => [(k, v)]
  | e :: r, k, v =>
    if e.1 < k then e :: KMap.put r k v
    else if e.1 = k then (k, v) :: r
    else (k, v) :: e :: r

/-- The elapsed cycles from a stamp to now, on a counter of 48 bits (R19). -/
def elapsed (now stamp : Ctr) : Nat := (now - stamp).toNat

/-- Replaces every element that `p` picks by its image under `f`. -/
def mapIf {α : Type} (p : α → Bool) (f : α → α) (l : List α) : List α :=
  l.map fun a => if p a then f a else a

/-- Ceiling of a quotient. -/
def cdiv (a b : Nat) : Nat := (a + b - 1) / b

/-- An element format by its code (R153). -/
def fmtOf (n : Nat) : Fmt := match n % 4 with | 0 => .p4 | 1 => .p8 | 2 => .h16 | _ => .f32

/-- The code of an element format (R153). -/
def fmtCode : Fmt → Nat | .p4 => 0 | .p8 => 1 | .h16 => 2 | .f32 => 3

/-- Bytes per row of 128 elements (R65). -/
def bytesPerRow : Fmt → Nat | .p4 => 64 | .p8 => 128 | .h16 => 256 | .f32 => 512

/-- The dense size of a plate in bytes (R153). -/
def denseSize (f : Fmt) : Nat := 128 * bytesPerRow f

/-- The dense size of a plate in lines of 512 bytes (R153). -/
def denseLines (f : Fmt) : Nat := denseSize f / 512

/-- Whether plates of the format have a scale line (R153, R154). -/
def hasScale : Fmt → Bool | .p4 | .p8 => true | _ => false

end Sys2Proof.Machine
end

