-- ==== Sys2Proof/Machine/Aes.lean ====
section
/-! DEFINITION. The ciphers of the data paths: AES-256 (FIPS 197), XTS for data at rest (IEEE 1619, R171) and
GCM for the link (NIST SP 800-38D, R400). The manual names the standards; their arithmetic is taken from them
(log entry 10). -/

namespace Sys2Proof.Machine

/-- Multiplication by x in GF(2^8) with the polynomial of AES. -/
def xtime (a : Nat) : Nat := if a ≥ 128 then (2 * a % 256) ^^^ 0x1B else 2 * a

/-- Multiplication in GF(2^8). -/
def gmul (a b : Nat) : Nat :=
  ((List.range 8).foldl (fun (s : Nat × Nat) i =>
    (if b / 2 ^ i % 2 = 1 then s.1 ^^^ s.2 else s.1, xtime s.2)) (0, a)).1

/-- The multiplicative inverse in GF(2^8), as the 254th power; zero for zero. -/
def ginv (a : Nat) : Nat :=
  let sq := fun x => gmul x x
  let a2 := sq a; let a4 := sq a2; let a8 := sq a4; let a16 := sq a8
  let a32 := sq a16; let a64 := sq a32; let a128 := sq a64
  gmul a2 (gmul a4 (gmul a8 (gmul a16 (gmul a32 (gmul a64 a128)))))

/-- An 8-bit rotation to the left. -/
def rotl8 (a k : Nat) : Nat := (a * 2 ^ k ||| a / 2 ^ (8 - k)) % 256

/-- One entry of the AES substitution box. -/
def sboxOf (a : Nat) : Nat :=
  let b := ginv a
  b ^^^ rotl8 b 1 ^^^ rotl8 b 2 ^^^ rotl8 b 3 ^^^ rotl8 b 4 ^^^ 0x63

/-- The AES substitution box. -/
def sbox : Array Nat := Array.ofFn (n := 256) fun i => sboxOf i.val

/-- The inverse substitution box. -/
def sboxInv : Array Nat :=
  (List.range 256).foldl (fun t i => t.setIfInBounds (sbox.getD i 0) i) (Array.replicate 256 0)

/-- The AES-256 key schedule: 60 words of four bytes. -/
def aesExpand (key : List Byte) : Array (List Nat) :=
  let k := (fit 32 key).map (·.toNat)
  let start := (chunks 4 9 k).toArray
  ((List.range 52).foldl (fun (s : Array (List Nat) × Nat) j =>
    let i := j + 8
    let prev := s.1.getD (i - 1) []
    let t :=
      if i % 8 = 0 then
        let r := (prev.drop 1 ++ prev.take 1).map fun b => sbox.getD b 0
        (r.take 1).map (· ^^^ s.2) ++ r.drop 1
      else if i % 8 = 4 then prev.map fun b => sbox.getD b 0
      else prev
    (s.1.push (List.zipWith (· ^^^ ·) (s.1.getD (i - 8) []) t), if i % 8 = 0 then xtime s.2 else s.2))
    (start, 1)).1

/-- The round key `r` as 16 bytes. -/
def roundKey (w : Array (List Nat)) (r : Nat) : List Nat :=
  w.getD (4 * r) [] ++ w.getD (4 * r + 1) [] ++ w.getD (4 * r + 2) [] ++ w.getD (4 * r + 3) []

/-- Byte permutation by index. -/
def permute (ix : List Nat) (s : List Nat) : List Nat := ix.map fun i => s.getD i 0

/-- The rows shifted to the left (column-major state). -/
def shiftRows : List Nat → List Nat := permute [0, 5, 10, 15, 4, 9, 14, 3, 8, 13, 2, 7, 12, 1, 6, 11]
/-- The rows shifted back. -/
def unshiftRows : List Nat → List Nat := permute [0, 13, 10, 7, 4, 1, 14, 11, 8, 5, 2, 15, 12, 9, 6, 3]

/-- One column times a circulant of coefficients. -/
def mixCol (a b c d : Nat) (col : List Nat) : List Nat :=
  let g := fun i => col.getD i 0
  [gmul a (g 0) ^^^ gmul b (g 1) ^^^ gmul c (g 2) ^^^ gmul d (g 3),
   gmul d (g 0) ^^^ gmul a (g 1) ^^^ gmul b (g 2) ^^^ gmul c (g 3),
   gmul c (g 0) ^^^ gmul d (g 1) ^^^ gmul a (g 2) ^^^ gmul b (g 3),
   gmul b (g 0) ^^^ gmul c (g 1) ^^^ gmul d (g 2) ^^^ gmul a (g 3)]

/-- All four columns mixed. -/
def mixCols (a b c d : Nat) (s : List Nat) : List Nat := ((chunks 4 5 s).map (mixCol a b c d)).flatten

/-- AES-256 encryption of one block under an expanded key. -/
def aesEnc (w : Array (List Nat)) (blk : List Nat) : List Nat :=
  let s0 := List.zipWith (· ^^^ ·) blk (roundKey w 0)
  let s := (List.range 13).foldl (fun s i =>
    List.zipWith (· ^^^ ·) (mixCols 2 3 1 1 (shiftRows (s.map fun b => sbox.getD b 0)))
      (roundKey w (i + 1))) s0
  List.zipWith (· ^^^ ·) (shiftRows (s.map fun b => sbox.getD b 0)) (roundKey w 14)

/-- AES-256 decryption of one block under an expanded key. -/
def aesDec (w : Array (List Nat)) (blk : List Nat) : List Nat :=
  let s0 := List.zipWith (· ^^^ ·) blk (roundKey w 14)
  let s := (List.range 13).foldl (fun s i =>
    mixCols 14 11 13 9 (List.zipWith (· ^^^ ·) ((unshiftRows s).map fun b => sboxInv.getD b 0)
      (roundKey w (13 - i)))) s0
  List.zipWith (· ^^^ ·) ((unshiftRows s).map fun b => sboxInv.getD b 0) (roundKey w 0)

/-- The tweak multiplied by x in GF(2^128), least significant byte first (IEEE 1619). -/
def xtsDouble (t : List Nat) : List Nat :=
  let n := leNat (t.map (BitVec.ofNat 8))
  let d := if n ≥ 2 ^ 127 then (2 * n % 2 ^ 128) ^^^ 0x87 else 2 * n
  (leBytes 16 d).map (·.toNat)

/-- XTS over one data unit of whole blocks. -/
def xts (enc : Bool) (key : List Byte) (tweak : Nat) (data : List Byte) : List Byte :=
  let w1 := aesExpand (key.take 32)
  let w2 := aesExpand (key.drop 32)
  let t0 := aesEnc w2 ((leBytes 16 tweak).map (·.toNat))
  let r := (chunks 16 (data.length / 16 + 1) data).foldl
    (fun (s : List (List Byte) × List Nat) blk =>
      let x := List.zipWith (· ^^^ ·) (blk.map (·.toNat)) s.2
      let y := if enc then aesEnc w1 x else aesDec w1 x
      ((List.zipWith (· ^^^ ·) y s.2).map (BitVec.ofNat 8) :: s.1, xtsDouble s.2)) ([], t0)
  r.1.reverse.flatten

/-- The 128-bit tweak of R171. -/
def xtsTweak (oid : BitVec 40) (plate : BitVec 24) (segment : Nat) (line : Nat) : Nat :=
  oid.toNat * 2 ^ 48 + plate.toNat * 2 ^ 24 + segment % 16 * 2 ^ 16 + line % 65536

/-- Big-endian number of bytes. -/
def beNat (l : List Byte) : Nat := l.foldl (fun a b => 256 * a + b.toNat) 0

/-- Multiplication in GF(2^128) as GCM orders its bits: bit 127 of the number is the first bit. -/
def ghashMul (x y : Nat) : Nat :=
  ((List.range 128).foldl (fun (s : Nat × Nat) i =>
    (if x / 2 ^ (127 - i) % 2 = 1 then s.1 ^^^ s.2 else s.1,
     if s.2 % 2 = 1 then (s.2 / 2) ^^^ (0xE1 * 2 ^ 120) else s.2 / 2)) (0, y)).1

/-- The bytes filled with zeros to whole blocks of 16. -/
def pad16 (l : List Byte) : List Byte := fit (16 * cdiv l.length 16) l

/-- GHASH of additional data and ciphertext under hash key `h`. -/
def ghash (h : Nat) (aad c : List Byte) : Nat :=
  let blocks := chunks 16 (aad.length / 16 + 2) (pad16 aad) ++ chunks 16 (c.length / 16 + 2) (pad16 c)
  let y := blocks.foldl (fun y b => ghashMul (y ^^^ beNat b) h) 0
  ghashMul (y ^^^ (8 * aad.length * 2 ^ 64 + 8 * c.length)) h

/-- A number of 128 bits as 16 bytes, most significant first. -/
def be16 (n : Nat) : List Byte := (leBytes 16 n).reverse

/-- Counter-mode key stream over data, the counter starting at `inc32 (iv ++ 1)`. -/
def gcmCtr (w : Array (List Nat)) (iv : List Byte) (data : List Byte) : List Byte :=
  ((chunks 16 (data.length / 16 + 1) data).foldl (fun (s : List (List Byte) × Nat) blk =>
    let ks := aesEnc w ((iv ++ (leBytes 4 s.2).reverse).map (·.toNat))
    (List.zipWith (fun (a : Byte) k => a ^^^ BitVec.ofNat 8 k) blk ks :: s.1, s.2 + 1)) ([], 2)).1.reverse.flatten

/-- The GCM tag over additional data and ciphertext. -/
def gcmTag (w : Array (List Nat)) (iv aad c : List Byte) : List Byte :=
  let h := beNat ((aesEnc w (List.replicate 16 0)).map (BitVec.ofNat 8))
  let e := beNat ((aesEnc w ((iv ++ [(0 : Byte), 0, 0, 1]).map BitVec.toNat)).map (BitVec.ofNat 8))
  be16 (ghash h aad c ^^^ e)

/-- AES-256-GCM encryption: ciphertext and tag (R400). -/
def gcmEncrypt (key iv aad p : List Byte) : List Byte × List Byte :=
  let w := aesExpand key
  let c := gcmCtr w iv p
  (c, gcmTag w iv aad c)

/-- AES-256-GCM decryption: plaintext, and whether the tag verifies (R400). -/
def gcmDecrypt (key iv aad c tag : List Byte) : List Byte × Bool :=
  let w := aesExpand key
  (gcmCtr w iv c, gcmTag w iv aad c == tag)

/-- The key check value of R404: the first four bytes of AES-256 of zeros. -/
def keyCheck (key : List Byte) : List Byte :=
  ((aesEnc (aesExpand key) (List.replicate 16 0)).map (BitVec.ofNat 8)).take 4

end Sys2Proof.Machine
end

