-- ==== Sys2Proof/Config.lean ====
section
/-! DEFINITION. The free values of the model: what the manual leaves open, as constants WITHOUT a body,
so that no proof can lean on a value. Each is named in notes/assumptions/. -/

namespace Sys2Proof.Config

/-- How many cycles of island `k` pass in idle step number `t`: the manual gives no relation between
island clocks (R6, R13). Log entry 2. -/
opaque cyclesPassed : Nat → Nat → Nat

/-- A free bit, drawn with the state's counter: for example whether a write answered NO_RESPONSE took
effect (R82), or the result of a BIST run over the test network on an island in reset (R109). Log entry 1. -/
opaque freeBit : Nat → Bool

/-- A free number: a choice among several that the manual leaves open, such as the order in which an adder
tree adds (R279), or where a frame is placed among the free runs (R417). Log entry 1. -/
opaque freeNat : Nat → Nat

/-- Whether, in idle step `t`, slice `p` forms the intention to raise its activity: the manual says when ps_act_up falls, and not when
the slice means to raise it (R105, R106). Log entry 1. -/
opaque actMoves : Nat → Nat → Bool

/-- How many of the cycles that pass in slice `p` in idle step `t` its duty limit holds a pass: the model carries no cycle in which
a unit of work issues (R125). Log entry 25. -/
opaque dutyHeld : Nat → Nat → Nat

/-- The estimate of the power of slice `p` in idle step `t` over the last 256 slice cycles, scaled by TARGET_MHZ, for which R105 and
R124 give no formula. Log entry 1. -/
opaque activityEighths : (t p mhz : Nat) → BitVec 3

/-- What a pinned guard line written back holds for line `i` of guard line `g`, whose guard is not known (R175, R176).
Log entry 116. -/
opaque freeGuard : Nat → Nat → BitVec 32

/-- FREE_EXTENTS of EPH_NEAR_STAT where the sum passes its 32 bits, as devices of the size R126 allows make it: the manual says no
value (R447). Log entry 124. -/
opaque freeExtentsOver : Nat → BitVec 32

/-- The Almanac entry of plate k of an object whose span's home is another block, as the engine choice finds it (R268; log entry 58):
by the object's id, the plate and a count of free values drawn. -/
opaque almanacAway : (oid k n : Nat) → BitVec 256

end Sys2Proof.Config
end

