-- ==== Sys2Proof/Machine/Regs.lean ====
section
/-! DEFINITION. Counter registers by the offset at which they lie in their island's region (register index, chapter 17). -/

namespace Sys2Proof.Machine

def psMpRdLines : Nat := 0x210
def psMpWrLines : Nat := 0x218
def psMpCorr : Nat := 0x220
def psMpUncorr : Nat := 0x228
def psMpGuard : Nat := 0x230
def psMpTimeout : Nat := 0x238
def psMpLate : Nat := 0x240
def psMpRetry : Nat := 0x248
def psXpTxBeats : Nat := 0x288
def psXpRxBeats : Nat := 0x290
def psXpRxDiscard : Nat := 0x298
def psXpTxAbandon : Nat := 0x2a0
def psGuardWb : Nat := 0x310
def psFrcEncPlates : Nat := 0x400
def psFrcFloorSubs : Nat := 0x408
def psFrcMoves : Nat := 0x410
def psFrcNonfinite : Nat := 0x418
def psFrcDecPlates : Nat := 0x420
def psFrcHdrErr : Nat := 0x428
def psFrcSubErr : Nat := 0x430
def psFrcCrcErr : Nat := 0x438
def psEyePlates : Nat := 0x520
def psEyeXpose : Nat := 0x528
def psEyeStale : Nat := 0x530
def psEyePoisonRef : Nat := 0x538
def psEyeTmiss : Nat := 0x540
def psEyeSwitch : Nat := 0x548
def psEyeParked : Nat := 0x550
def psEyeLaneCyc : Nat := 0x558
def psHistElems : Nat := 0x560
def psZfcPlates : Nat := 0x710
def psZfcRaw : Nat := 0x718
def psZfcAbsent : Nat := 0x720
def psZfcFields : Nat := 0x728
def psZfcBoundRow : Nat := 0x730
def psZfcBoundCol : Nat := 0x738
def psZfcHdrErr : Nat := 0x740
def psZfcCrcErr : Nat := 0x748
def psZfcIdxErr : Nat := 0x750
def psStInplace : Nat := 0x758
def psStNewframe : Nat := 0x760
def psStHeld : Nat := 0x768
def psStAbandon : Nat := 0x770
def psAlmRead : Nat := 0x778
def psAlmNohist : Nat := 0x780
def psAlmPoison : Nat := 0x788
def psDpeIssue : Nat := 0x820
def psDpeRows : Nat := 0x828
def psDpeGated : Nat := 0x830
def psDpeJobs : Nat := 0x838
def psDpeDiscard : Nat := 0x840
def psDpePoison : Nat := 0x848
def psDpeStallW : Nat := 0x850
def psDpeStallA : Nat := 0x858
def psDpeStallAcc : Nat := 0x860
def psDpeStallDuty : Nat := 0x868
def psPairJoins : Nat := 0x870
def psPairDeclined : Nat := 0x878
def psPairBridgeLines : Nat := 0x880
def psSmePairs : Nat := 0x920
def psSmeTasks : Nat := 0x928
def psSmeSteals : Nat := 0x930
def psSmeBusy : Nat := 0x938
def psSmeBadidx : Nat := 0x940
def psSmeTrimmed : Nat := 0x948
def psSmeJobs : Nat := 0x950
def psChoiceSme : Nat := 0x958
def psChoiceDpe : Nat := 0x960
def psChoiceAlm : Nat := 0x968
def psSmeRedispatch : Nat := 0x970
def psHaccSpills : Nat := 0x978
def psHaccRounds : Nat := 0x980
def psHaccSpillWait : Nat := 0x988
def psRedSent : Nat := 0xa00
def psRedAdded : Nat := 0xa08
def psRedNonfinite : Nat := 0xa10
def psRepairSteps : Nat := 0xa20
def lgTxData : Nat := 0x100
def lgRxData : Nat := 0x108
def lgFecCorr : Nat := 0x110
def lgFecFail : Nat := 0x118
def lgCrcErr : Nat := 0x120
def lgReplays : Nat := 0x128
def lgReplayFlits : Nat := 0x130
def lgTimeouts : Nat := 0x138
def lgAuthFail : Nat := 0x140
def lgStreamErr : Nat := 0x148
def lgLostFlits : Nat := 0x150
def lgCut : Nat := 0x158
def lgRetrains : Nat := 0x160
def lgHelloBad : Nat := 0x168
def lgPadBytes : Nat := 0x170
def xqFabTxPkts : Nat := 0x280
def xqFabRxPkts : Nat := 0x288
def xqRelayPkts : Nat := 0x290
def xqNoroute : Nat := 0x298
def xqHopDrop : Nat := 0x2a0
def xqBadPkt : Nat := 0x2a8
def xqAltUsed : Nat := 0x2b0
def cmdDbAccepted : Nat := 0x40
def cmdDbDropped : Nat := 0x48
def cmdAccepted : Nat := 0x100
def cmdCompleted : Nat := 0x108
def cmdRefetch : Nat := 0x110
def cmdStale : Nat := 0x118
def cmdHostLost : Nat := 0x120
def cmdAborted : Nat := 0x128
def cmdHcqWritten : Nat := 0x130
def cmdHcqLost : Nat := 0x138
def cmdDbBad : Nat := 0x140
def cmdDbOld : Nat := 0x148
def cmdDbEpoch : Nat := 0x150
def cmdQSkipped : Nat := 0x158
def cmdCqHold : Nat := 0x160
def cmdRetries : Nat := 0x168
def cmdHalted : Nat := 0x170
def ephLookups : Nat := 0x200
def ephCacheHits : Nat := 0x208
def ephNotHome : Nat := 0x210
def ephMovesCommit : Nat := 0x218
def ephMovesAbort : Nat := 0x220
def ephEvictions : Nat := 0x228
def ephPlacedAway : Nat := 0x230
def ephTimeouts : Nat := 0x238
def ephLate : Nat := 0x240
def logTaken : Nat := 0x400
def logAppended : Nat := 0x408
def logFolded : Nat := 0x410
def logLost : Nat := 0x418
def logLostReports : Nat := 0x420
def spgBuilds : Nat := 0x200
def spgLoads : Nat := 0x208
def spgRetires : Nat := 0x210
def spgHoldFail : Nat := 0x218
def spgInvalid : Nat := 0x220
def svyHealed : Nat := 0x100
def svyHealFail : Nat := 0x108
def svyReleased : Nat := 0x110
def svyIdxRebuilt : Nat := 0x118
def svyScrubLines : Nat := 0x120
def svyRefreshed : Nat := 0x128
def svyAudited : Nat := 0x130
def injApplied : Nat := 0x100

/-- The counters of a PS region. -/
def psCounters : List Nat :=
  [psMpRdLines, psMpWrLines, psMpCorr, psMpUncorr, psMpGuard, psMpTimeout, psMpLate, psMpRetry,
    psXpTxBeats, psXpRxBeats, psXpRxDiscard, psXpTxAbandon, psGuardWb, psFrcEncPlates,
    psFrcFloorSubs, psFrcMoves, psFrcNonfinite, psFrcDecPlates, psFrcHdrErr, psFrcSubErr,
    psFrcCrcErr, psEyePlates, psEyeXpose, psEyeStale, psEyePoisonRef, psEyeTmiss, psEyeSwitch,
    psEyeParked, psEyeLaneCyc, psHistElems, psZfcPlates, psZfcRaw, psZfcAbsent, psZfcFields,
    psZfcBoundRow, psZfcBoundCol, psZfcHdrErr, psZfcCrcErr, psZfcIdxErr, psStInplace, psStNewframe,
    psStHeld, psStAbandon, psAlmRead, psAlmNohist, psAlmPoison, psDpeIssue, psDpeRows, psDpeGated,
    psDpeJobs, psDpeDiscard, psDpePoison, psDpeStallW, psDpeStallA, psDpeStallAcc, psDpeStallDuty,
    psPairJoins, psPairDeclined, psPairBridgeLines, psSmePairs, psSmeTasks, psSmeSteals, psSmeBusy,
    psSmeBadidx, psSmeTrimmed, psSmeJobs, psChoiceSme, psChoiceDpe, psChoiceAlm, psSmeRedispatch,
    psHaccSpills, psHaccRounds, psHaccSpillWait, psRedSent, psRedAdded, psRedNonfinite,
    psRepairSteps]

/-- The counters of a LG region. -/
def lgCounters : List Nat :=
  [lgTxData, lgRxData, lgFecCorr, lgFecFail, lgCrcErr, lgReplays, lgReplayFlits, lgTimeouts,
    lgAuthFail, lgStreamErr, lgLostFlits, lgCut, lgRetrains, lgHelloBad, lgPadBytes]

/-- The counters of a XQ region. -/
def xqCounters : List Nat :=
  [xqFabTxPkts, xqFabRxPkts, xqRelayPkts, xqNoroute, xqHopDrop, xqBadPkt, xqAltUsed]

/-- The counters of a CMD region. -/
def cmdCounters : List Nat :=
  [cmdDbAccepted, cmdDbDropped, cmdAccepted, cmdCompleted, cmdRefetch, cmdStale, cmdHostLost,
    cmdAborted, cmdHcqWritten, cmdHcqLost, cmdDbBad, cmdDbOld, cmdDbEpoch, cmdQSkipped, cmdCqHold,
    cmdRetries, cmdHalted]

/-- The counters of a EPH region. -/
def ephCounters : List Nat :=
  [ephLookups, ephCacheHits, ephNotHome, ephMovesCommit, ephMovesAbort, ephEvictions,
    ephPlacedAway, ephTimeouts, ephLate]

/-- The counters of a LOG region. -/
def logCounters : List Nat :=
  [logTaken, logAppended, logFolded, logLost, logLostReports]

/-- The counters of a SPG region. -/
def spgCounters : List Nat :=
  [spgBuilds, spgLoads, spgRetires, spgHoldFail, spgInvalid]

/-- The counters of a SVY region. -/
def svyCounters : List Nat :=
  [svyHealed, svyHealFail, svyReleased, svyIdxRebuilt, svyScrubLines, svyRefreshed, svyAudited]

/-- The counters of a INJ region. -/
def injCounters : List Nat :=
  [injApplied]

end Sys2Proof.Machine
end

