-- ==== Sys2Proof/Machine/Float.lean ====
section
/-! DEFINITION. Exact values of elements and their rounding to the element formats: binary32, bfloat16,
FP8 E4M3 and FP4 E2M1 (R153, R198, R199, R531). A finite value is an integer times a power of two; sums and
products are formed exactly and rounded once, to nearest-even. -/

namespace Sys2Proof.Machine

/-- The value of an element: not a number, an infinity, or a finite value `m * 2 ^ e`; a zero keeps its sign. -/
inductive FVal where
  | nan
  | inf (neg : Bool)
  | zero (neg : Bool)
  | fin (m : Int) (e : Int)
deriving DecidableEq, Repr, Inhabited

/-- A finite value `m * 2 ^ e` in the form that keeps zero apart. -/
def FVal.mk (m e : Int) : FVal := if m = 0 then .zero false else .fin m e

/-- An integer shifted left by a number of bits. -/
def ishl (m : Int) (k : Nat) : Int := m * (2 ^ k : Nat)

/-- The exact sum of two finite pairs `m * 2 ^ e`. -/
def dyAdd (a b : Int × Int) : Int × Int :=
  if a.2 ≤ b.2 then (a.1 + ishl b.1 (b.2 - a.2).toNat, a.2)
  else (ishl a.1 (a.2 - b.2).toNat + b.1, b.2)

/-- Exact comparison: the sign of `a - b` for two finite pairs. -/
def dyCmp (a b : Int × Int) : Int := (dyAdd a (-b.1, b.2)).1

/-- The pair of a value that is finite; (0, 0) for the others. -/
def FVal.pair : FVal → Int × Int
  | .fin m e => (m, e)
  | _ => (0, 0)

/-- Whether the value is a number other than an infinity. -/
def FVal.finite : FVal → Bool
  | .nan | .inf _ => false
  | _ => true

/-- Whether the value is negative, by its sign. -/
def FVal.neg : FVal → Bool
  | .nan => false
  | .inf s | .zero s => s
  | .fin m _ => m < 0

/-- Exact sum (IEEE 754 rules for NaN, infinities and the sign of zero). -/
def FVal.add : FVal → FVal → FVal
  | .nan, _ | _, .nan => .nan
  | .inf a, .inf b => if a = b then .inf a else .nan
  | .inf a, _ | _, .inf a => .inf a
  | .zero a, .zero b => .zero (a && b)
  | .zero _, x => x
  | x, .zero _ => x
  | .fin m e, .fin n f => let r := dyAdd (m, e) (n, f); FVal.mk r.1 r.2

/-- Exact product. -/
def FVal.mul : FVal → FVal → FVal
  | .nan, _ | _, .nan => .nan
  | .inf a, .zero _ | .zero _, .inf a => if a then .nan else .nan
  | .inf a, x => .inf (a != x.neg)
  | x, .inf a => .inf (x.neg != a)
  | .zero a, x => .zero (a != x.neg)
  | x, .zero a => .zero (x.neg != a)
  | .fin m e, .fin n f => .fin (m * n) (e + f)

/-- The value with its sign turned. -/
def FVal.negate : FVal → FVal
  | .nan => .nan
  | .inf a => .inf (!a)
  | .zero a => .zero (!a)
  | .fin m e => .fin (-m) e

/-- The value times `2 ^ k`, exactly. -/
def FVal.scale (k : Int) : FVal → FVal
  | .fin m e => .fin m (e + k)
  | x => x

/-- Floor of the base-2 logarithm of the magnitude of a finite non-zero pair. -/
def floorLog2 (a : Int × Int) : Int := (Nat.log2 a.1.natAbs : Int) + a.2

/-- `m * 2 ^ e` in units of `2 ^ q`, to nearest-even (m a magnitude). -/
def roundUnits (m : Nat) (e q : Int) : Nat :=
  if q ≤ e then m * 2 ^ (e - q).toNat
  else
    let k := (q - e).toNat
    let f := m / 2 ^ k
    let r := m % 2 ^ k
    let h := 2 ^ k / 2
    if r > h || (r == h && f % 2 == 1) then f + 1 else f

/-- The bits without sign of a magnitude `m * 2 ^ e` in a format with `p` significant bits whose least unit
is `2 ^ qmin`, before any overflow is handled. A carry out of the significand moves into the exponent. -/
def packMag (p : Nat) (qmin : Int) (m : Nat) (e : Int) : Nat :=
  let q := max ((Nat.log2 m : Int) + e - ((p : Int) - 1)) qmin
  (q - qmin).toNat * 2 ^ (p - 1) + roundUnits m e q

/-- The magnitude that bits without sign stand for, in a format with `p` significant bits and least unit `2 ^ qmin`. -/
def unpackMag (p : Nat) (qmin : Int) (b : Nat) : Int × Int :=
  let x := b / 2 ^ (p - 1)
  let m := b % 2 ^ (p - 1)
  if x = 0 then ((m : Int), qmin) else ((2 ^ (p - 1) + m : Nat), qmin + (x : Int) - 1)

/-- The F32 NaN that Praux produces (R276, R531). -/
def nan32 : F32 := 0x7FC00000

/-- The value of an F32 element. -/
def valF32 (b : F32) : FVal :=
  let s := b.getLsbD 31
  let mag := b.toNat % 2 ^ 31
  if mag > 0x7F800000 then .nan
  else if mag = 0x7F800000 then .inf s
  else if mag = 0 then .zero s
  else let a := unpackMag 24 (-149) mag; .fin (if s then -a.1 else a.1) a.2

/-- A value rounded to F32, to nearest-even; beyond the range an infinity of the sign. -/
def toF32 : FVal → F32
  | .nan => nan32
  | .inf s => if s then 0xFF800000 else 0x7F800000
  | .zero s => if s then 0x80000000 else 0
  | .fin m e =>
    let b := min (packMag 24 (-149) m.natAbs e) 0x7F800000
    BitVec.ofNat 32 (if m < 0 then 0x80000000 + b else b)

/-- F32 addition, to nearest-even. -/
def f32Add (a b : F32) : F32 := toF32 ((valF32 a).add (valF32 b))
/-- F32 subtraction, to nearest-even. -/
def f32Sub (a b : F32) : F32 := toF32 ((valF32 a).add (valF32 b).negate)
/-- F32 multiplication, to nearest-even. -/
def f32Mul (a b : F32) : F32 := toF32 ((valF32 a).mul (valF32 b))

/-- The value of a bfloat16 element (R153). -/
def valH16 (b : Nat) : FVal := valF32 (BitVec.ofNat 32 (b % 65536 * 65536))

/-- A value rounded to bfloat16, to nearest-even (R199). -/
def toH16 : FVal → Nat
  | .nan => 0x7FC0
  | .inf s => if s then 0xFF80 else 0x7F80
  | .zero s => if s then 0x8000 else 0
  | .fin m e =>
    let b := min (packMag 8 (-133) m.natAbs e) 0x7F80
    if m < 0 then 0x8000 + b else b

/-- The value of an FP8 E4M3 element code, without its scale; 0x7F and 0xFF are NaN. -/
def valP8 (b : Nat) : FVal :=
  let s := b / 128 % 2 == 1
  let mag := b % 128
  if mag = 127 then .nan
  else if mag = 0 then .zero s
  else let a := unpackMag 4 (-9) mag; .fin (if s then -a.1 else a.1) a.2

/-- The value of an FP4 E2M1 element code, without its scale. -/
def valP4 (b : Nat) : FVal :=
  let s := b / 8 % 2 == 1
  let mag := b % 8
  if mag = 0 then .zero s
  else let a := unpackMag 2 (-1) mag; .fin (if s then -a.1 else a.1) a.2

/-- A finite value or infinity in FP8 E4M3, saturated to 448 (R199); the NaN code is never written. -/
def toP8 : FVal → Nat
  | .nan => 0
  | .inf s => if s then 0xFE else 0x7E
  | .zero s => if s then 0x80 else 0
  | .fin m e =>
    let b := min (packMag 4 (-9) m.natAbs e) 0x7E
    if m < 0 then 0x80 + b else b

/-- A finite value or infinity in FP4 E2M1, saturated to 6 (R199). -/
def toP4 : FVal → Nat
  | .nan => 0
  | .inf s => if s then 0xF else 0x7
  | .zero s => if s then 0x8 else 0
  | .fin m e =>
    let b := min (packMag 2 (-1) m.natAbs e) 0x7
    if m < 0 then 0x8 + b else b

/-- The value of an element code of a format, without its scale. -/
def valElem : Fmt → Nat → FVal
  | .p4, b => valP4 b
  | .p8, b => valP8 b
  | .h16, b => valH16 b
  | .f32, b => valF32 (BitVec.ofNat 32 b)

/-- The F32 value of a P4 or P8 element with scale code `x` (R531), and of an H16 or F32 element. -/
def elemF32 (f : Fmt) (code : Nat) (x : Byte) : F32 :=
  if hasScale f then
    if x = 0xFF then nan32 else toF32 ((valElem f code).scale ((x.toNat : Int) - 127))
  else if f = .f32 then BitVec.ofNat 32 code
  else BitVec.ofNat 32 (code % 65536 * 65536)

/-- Whether an F32 element is an infinity or a NaN. -/
def nonFinite (b : F32) : Bool := b.toNat % 2 ^ 31 ≥ 0x7F800000

/-- The replacement of R204: NaN by +0, an infinity by the largest finite magnitude of its sign. -/
def replaceNonFinite (b : F32) : F32 :=
  match valF32 b with
  | .nan => 0
  | .inf s => if s then 0xFF7FFFFF else 0x7F7FFFFF
  | _ => b

/-- The largest magnitude of finite F32 values, as a pair. -/
def maxMag (l : List F32) : Int × Int :=
  l.foldl (fun a b =>
    let p := (valF32 b).pair
    let p := ((p.1.natAbs : Int), p.2)
    if dyCmp p a > 0 then p else a) (0, 0)

/-- `scale_of` of R188: the E8M0 scale code of a group of finite values. -/
def scaleOf (x : List F32) : Byte :=
  let a := maxMag x
  if a.1 = 0 then 0
  else BitVec.ofNat 8 (max 1 (min 254 (floorLog2 a + 127))).toNat

/-- One 32-element segment converted to P4 or P8: scale code and element codes (R199). -/
def segConvert (f : Fmt) (x : List F32) : Byte × List Nat :=
  let emax : Int := if f = .p4 then 2 else 8
  let enc := if f = .p4 then toP4 else toP8
  let vs := x.map valF32
  if vs.any (· == .nan) then (0xFF, x.map fun _ => 0)
  else
    let hasInf := vs.any fun v => match v with | .inf _ => true | _ => false
    let a := maxMag x
    let sx : Int := if hasInf then 254 else if a.1 = 0 then 0
      else max 0 (min 254 (floorLog2 a + 127 - emax))
    (BitVec.ofNat 8 sx.toNat, vs.map fun v => enc (v.scale (127 - sx)))

end Sys2Proof.Machine
end

