-- ==== Sys2Proof/Machine/Plate.lean ====
section
/-! DEFINITION. Object records, dense plates, spans and the place of a plate in its span frame (R153-R172). -/

namespace Sys2Proof.Machine

/-- An object record (R156), decoded. -/
structure ObjRec where
  oid : BitVec 40
  code : Nat
  fmt : Nat
  rate : Nat
  key : Nat
  prows : Nat
  pcols : Nat
  edgeR : Nat
  edgeC : Nat
deriving DecidableEq, Repr, Inhabited

/-- The fields of a record's two words (R156). -/
def ObjRec.ofWords (r : RecWords) : ObjRec :=
  { oid := bits 40 r.w0 24, code := fld r.w0 23 20, fmt := fld r.w0 19 16, rate := fld r.w0 15 12,
    key := fld r.w0 11 8, prows := fld r.w1 63 48, pcols := fld r.w1 47 32,
    edgeR := fld r.w1 31 25, edgeC := fld r.w1 24 18 }

/-- The two words of a record (R156). -/
def ObjRec.words (o : ObjRec) : RecWords :=
  { w0 := packW [put o.oid.toNat 24, put o.code 20, put o.fmt 16, put o.rate 12, put o.key 8]
    w1 := packW [put o.prows 48, put o.pcols 32, put o.edgeR 25, put o.edgeC 18] }

/-- The number of plates of an object (R157). -/
def ObjRec.plates (o : ObjRec) : Nat := o.prows * o.pcols

/-- The element format of the stored plates. -/
def ObjRec.format (o : ObjRec) : Fmt := fmtOf o.fmt

/-- Whether a record's words are valid under R156, R157 and R182. -/
def recValid (r : RecWords) : Bool :=
  let o := ObjRec.ofWords r
  fld r.w0 7 0 == 0 && fld r.w1 17 0 == 0 && o.code < 4 && o.oid != 0 &&
  1 ≤ o.prows && 1 ≤ o.pcols && o.plates ≤ 2 ^ 24 &&
  (if o.code = 1 then 1 ≤ o.rate && o.rate ≤ 6 && o.fmt ≤ 2
   else o.rate == 0 && o.fmt ≤ 3) &&
  (o.code != 3 || (o.fmt == 0 && o.edgeR == 0 && o.edgeC == 0))

/-- Twice the rate in bits per element, by the codes of R182. -/
def rate2 : Nat → Nat
  | 1 => 5 | 2 => 6 | 3 => 8 | 4 => 10 | 5 => 12 | 6 => 16 | _ => 0

/-- Body bytes of an FRC plate: 2,048 times the rate (R182). -/
def frcBodyBytes (rate : Nat) : Nat := 1024 * rate2 rate

/-- The cap of a sub-stream in bits: 1,024 times the rate (R183). -/
def frcCap (rate : Nat) : Nat := 512 * rate2 rate

/-- Valid element rows of plate `k` (R156, R157). -/
def validRows (o : ObjRec) (k : Nat) : Nat :=
  if o.edgeR = 0 || k / o.pcols + 1 < o.prows then 128 else o.edgeR

/-- Valid element columns of plate `k`. -/
def validCols (o : ObjRec) (k : Nat) : Nat :=
  if o.edgeC = 0 || k % o.pcols + 1 < o.pcols then 128 else o.edgeC

/-- Whether element (r, c) of plate `k` is padding (R157). -/
def isPadding (o : ObjRec) (k r c : Nat) : Bool := validRows o k ≤ r || validCols o k ≤ c

/-- A dense plate: element codes row by row, one scale code per 32-element row segment for P4 and P8, its
field map (bit f for field f, R243) and its poison. -/
structure Plate where
  fmt : Fmt
  codes : List Nat
  scales : List Byte
  map : BitVec 256
  poison : Bool
deriving DecidableEq, Repr, Inhabited

/-- A plate of zeros with an empty field map (R159). -/
def Plate.zeros (f : Fmt) : Plate :=
  { fmt := f, codes := List.replicate 16384 0, scales := if hasScale f then List.replicate 512 0 else [],
    map := 0, poison := false }

/-- The element codes of packed row bytes (R66). -/
def unpackElems : Fmt → List Byte → List Nat
  | .p4, l => l.flatMap fun b => [b.toNat % 16, b.toNat / 16]
  | .p8, l => l.map (·.toNat)
  | .h16, l => (chunks 2 (l.length / 2 + 1) l).map leNat
  | .f32, l => (chunks 4 (l.length / 4 + 1) l).map leNat

/-- Element codes packed into bytes (R66). -/
def packElems : Fmt → List Nat → List Byte
  | .p4, l => (chunks 2 (l.length / 2 + 1) l).map fun p => BitVec.ofNat 8 (p.headD 0 % 16 + 16 * (p.getD 1 0 % 16))
  | .p8, l => l.map (BitVec.ofNat 8)
  | .h16, l => l.flatMap (leBytes 2)
  | .f32, l => l.flatMap (leBytes 4)

/-- The scale code of element (r, c): scale k of row r at byte 4r + k (R154). -/
def scaleAt (scales : List Byte) (r c : Nat) : Byte := scales.getD (4 * r + c / 32) 0

/-- The F32 values of a plate (R234), padding as +0 for object record `o` and plate index `k`. -/
def plateF32 (o : ObjRec) (k : Nat) (f : Fmt) (codes : List Nat) (scales : List Byte) : List F32 :=
  codes.zipIdx.map fun e =>
    let r := e.2 / 128
    let c := e.2 % 128
    if isPadding o k r c then 0 else elemF32 f e.1 (scaleAt scales r c)

/-- F32 values of 128 x 128 elements converted to a format: element codes and scales (R199). -/
def convertTo (f : Fmt) (x : List F32) : List Nat × List Byte :=
  match f with
  | .f32 => (x.map (·.toNat), [])
  | .h16 => (x.map fun v => toH16 (valF32 v), [])
  | _ =>
    let segs := (chunks 32 512 x).map (segConvert f)
    ((segs.map (·.2)).flatten, segs.map (·.1))

/-- The transpose of 128 x 128 elements (R236). -/
def transpose {α : Type} (d : α) (x : List α) : List α :=
  let a := x.toArray
  (List.range 16384).map fun i => a.getD (128 * (i % 128) + i / 128) d

/-- The transpose of a field map: the bit of field (a, b) becomes that of (b, a) (R236). -/
def transposeMap (m : BitVec 256) : BitVec 256 :=
  BitVec.ofNat 256 (lsbNat ((List.range 256).map fun f => m.getLsbD (16 * (f % 16) + f / 16)))

/-- Whether an element code is the value zero: +0 or -0 (R241). -/
def codeZero : Fmt → Nat → Bool
  | .p4, b => b % 8 == 0
  | .p8, b => b % 128 == 0
  | .h16, b => b % 32768 == 0
  | .f32, b => b % 2 ^ 31 == 0

/-- The element codes of field f, element (r, c) of the field at 8r + c (R243). -/
def fieldCodes (a : Array Nat) (f : Nat) : List Nat :=
  (List.range 64).map fun e => a.getD (128 * (8 * (f / 16) + e / 8) + 8 * (f % 16) + e % 8) 0

/-- Whether field f is zero (R241): every code zero, and for P4 and P8 no covering scale 0xFF. -/
def fieldZero (fm : Fmt) (a : Array Nat) (scales : List Byte) (f : Nat) : Bool :=
  (fieldCodes a f).all (codeZero fm) &&
  (!hasScale fm || (List.range 8).all fun r => scaleAt scales (8 * (f / 16) + r) (8 * (f % 16)) != 0xFF)

/-- The field map of element codes: bit f set exactly when field f is not zero (R243). -/
def fieldMap (fm : Fmt) (codes : List Nat) (scales : List Byte) : BitVec 256 :=
  let a := codes.toArray
  BitVec.ofNat 256 (lsbNat ((List.range 256).map fun f => !fieldZero fm a scales f))

/-- The number of bits set. -/
def popcount {n : Nat} (m : BitVec n) : Nat := ((List.range n).filter fun i => m.getLsbD i).length

/-! Spans and frames. -/

/-- The span of plate k and its position in it (R160). -/
def spanOf (k : Nat) : Nat := k / 64
/-- The position of plate k within its span (R160). -/
def posOf (k : Nat) : Nat := k % 64

/-- The number of plates of span s (R160). -/
def spanPlates (o : ObjRec) (s : Nat) : Nat := min 64 (o.plates - 64 * s)

/-- The number of spans of an object. -/
def spanCount (o : ObjRec) : Nat := cdiv o.plates 64

/-- Segments of a span frame, by the codes of R171. -/
inductive Segment where
  | body | header | almanac | scale | index | packed
deriving DecidableEq, Repr, Inhabited

/-- The tweak code of a segment (R171). -/
def Segment.code : Segment → Nat
  | .body => 0 | .header => 1 | .almanac => 2 | .scale => 3 | .index => 4 | .packed => 5

/-- A segment by its code (R171, R427). -/
def segmentOf (n : Nat) : Segment :=
  match n with | 1 => .header | 2 => .almanac | 3 => .scale | 4 => .index | 5 => .packed | _ => .body

/-- Body lines B of one plate (R166). -/
def bodyLines (o : ObjRec) : Nat :=
  match o.code with
  | 0 => denseLines o.format
  | 1 => frcBodyBytes o.rate / 512
  | 3 => 64
  | _ => 0

/-- Lines of the header segment (R166). -/
def headerLines (o : ObjRec) (n : Nat) : Nat := if o.code = 1 then cdiv n 8 else 0
/-- Lines of the almanac segment (R166). -/
def almanacLines (o : ObjRec) (n : Nat) : Nat := if o.code = 0 || o.code = 2 then cdiv n 16 else 0
/-- Lines of the scale segment (R166). -/
def scaleLines (o : ObjRec) (n : Nat) : Nat :=
  if (o.code = 0 || o.code = 2) && hasScale o.format then n else 0

/-- The start of a segment, counted from the frame's base line (R166, R248). -/
def segStart (o : ObjRec) (n : Nat) : Segment → Nat
  | .header => 0
  | .almanac => headerLines o n
  | .scale => headerLines o n + almanacLines o n
  | .body | .index => headerLines o n + almanacLines o n + scaleLines o n
  | .packed => headerLines o n + almanacLines o n + scaleLines o n + 2

/-- The largest number of lines a ZFC plate takes: raw-flagged (R243, R244). -/
def zfcMaxLines (f : Fmt) : Nat := cdiv (32 + denseSize f) 512

/-- The extents a frame of a span holds; `packed` counts the packed lines of a ZFC frame (R166, R248). -/
def frameExtents (o : ObjRec) (n packed : Nat) : Nat :=
  cdiv (if o.code = 2 then segStart o n .packed + packed else segStart o n .body + n * bodyLines o) 16

/-- The worst-case claim of a span (R260). -/
def worstExtents (o : ObjRec) (n : Nat) : Nat := frameExtents o n (n * zfcMaxLines o.format)

/-- The line, from the frame's base, that holds plate position j's entry of a segment (R166, R167). -/
def segLine (o : ObjRec) (n : Nat) (sg : Segment) (j : Nat) : Nat :=
  segStart o n sg +
    match sg with
    | .header => j / 8 | .almanac => j / 16 | .scale => j
    | .body => j * bodyLines o | .index | .packed => 0

/-- The first plate whose entry lies in the segment line of plate position j: the plate of its tweak (R171). -/
def segTweakPos (sg : Segment) (j : Nat) : Nat :=
  match sg with | .header => j / 8 * 8 | .almanac => j / 16 * 16 | .index => 0 | _ => j

/-- D and G of R165: the lines of the data region and of the guard region for a device of `lines` lines. -/
def dataLines (lines : Nat) : Nat :=
  -- the largest multiple of 16 with D + ceil(D / 128) at most `lines`
  let d := lines * 128 / 129 / 16 * 16
  if d + 16 + cdiv (d + 16) 128 ≤ lines then d + 16 else d

/-- The lines of the guard region (R165). -/
def guardLines (lines : Nat) : Nat := cdiv (dataLines lines) 128

/-- The line guard of data line `l` (R172): CRC-32C over its address and its ciphertext. -/
def lineGuard (l : BitVec 32) (cipher : List Byte) : BitVec 32 := crc32c (leBytes 4 l.toNat ++ cipher)

/-- The default home slice of span s (R162, R416). -/
def defaultSlice (islice : List Nat) (icount : Nat) (oid : BitVec 40) (s : Nat) : Nat :=
  islice.getD ((oid.toNat + s) % max 1 icount) 0

/-- The placement domain of an object (R413). -/
def domainOf (oid : BitVec 40) : Nat := oid.toNat / 2 ^ 36 % 16

end Sys2Proof.Machine
end

