-- ==== Sys2Proof/Machine/StConf.lean ====
section
/-! DEFINITION. The decoded configuration: the records of a structure stream (R117-R136) and what each says, and the
detector table (R450). -/

namespace Sys2Proof.Machine

/-- A record of a structure stream: type, instance, payload words, and its byte offset in the stream (R117). -/
structure Rec where
  type : Nat
  inst : Nat
  words : List W64
  off : Nat := 0
deriving DecidableEq, Repr, Inhabited

/-- A decoded configuration: the full stream's identifier and its records (R140). -/
structure Conf where
  streamId : BitVec 32
  recs : List Rec
deriving DecidableEq, Repr, Inhabited

/-- The record of a type and instance, if the stream holds it. -/
def Conf.find (c : Conf) (type inst : Nat) : Option Rec := c.recs.find? fun r => r.type == type && r.inst == inst

/-- Payload word i of a record; zero where the record or the word is absent. -/
def Conf.word (c : Conf) (type inst i : Nat) : W64 :=
  match c.find type inst with | some r => r.words.getD i 0 | none => 0

/-- The running configuration with the records of a live stream in place of its own (R146). -/
def Conf.withLive (c : Conf) (recs : List Rec) : Conf :=
  { c with recs := (c.recs.filter fun r => !recs.any fun n => n.type == r.type && n.inst == r.inst) ++
      recs.filter fun r => r.type < 0x8000 }

/-- IDENTITY (R121, R122). -/
def Conf.blockId (c : Conf) : BitVec 12 := bits 12 (c.word 1 0 0) 52
def Conf.archive (c : Conf) : Bool := fld (c.word 1 0 0) 47 44 == 1
def Conf.sliceEn (c : Conf) (p : Nat) : Bool := bitAt (c.word 1 0 0) (p % 32)

/-- TWINS (R123); no pair of an archive node is capable (R122). -/
def Conf.capable (c : Conf) (pair : Nat) : Bool := !c.archive && bitAt (c.word 2 0 0) (pair % 16)
def Conf.joined (c : Conf) (pair : Nat) : Bool := !c.archive && bitAt (c.word 2 0 0) (16 + pair % 16)

/-- The nominal clock of an island's class, in MHz (R13). -/
def nominalMhz (k : Nat) : Nat := if k < 32 then 1050 else if k < 48 then 1000 else if k < 52 then 1250 else 800

/-- The word of CLOCKS for an island (R124, R125): the nominal target and DUTY 255 where the record is absent (R120). -/
def Conf.clock (c : Conf) (k : Nat) : W64 :=
  match c.find 3 0 with | some _ => c.word 3 0 k | none => packW [put (nominalMhz k) 32, put 255 0]
def Conf.target (c : Conf) (k : Nat) : Nat := fld (c.clock k) 47 32
def Conf.duty (c : Conf) (k : Nat) : Nat := fld (c.clock k) 7 0

/-- MEMORY (R126). -/
def Conf.present (c : Conf) (p : Nat) : Bool := bitAt (c.word 4 0 p) 63
def Conf.lines (c : Conf) (p : Nat) : Nat := fld (c.word 4 0 p) 31 0
def Conf.icount (c : Conf) : Nat := fld (c.word 4 0 32) 63 56
def Conf.interleave (c : Conf) : List Nat :=
  (List.range c.icount).map fun i => fld (c.word 4 0 (33 + i / 8)) (8 * (i % 8) + 7) (8 * (i % 8))
/-- The interleave with both slices of a pair joined from start-up named as PS2k (R291). -/
def Conf.islice (c : Conf) : List Nat := c.interleave.map fun p => if c.joined (p / 2) then p / 2 * 2 else p

/-- LINKS (R127). -/
def Conf.peerBlock (c : Conf) (g : Nat) : BitVec 12 := bits 12 (c.word 5 0 g) 52
def Conf.peerGroup (c : Conf) (g : Nat) : BitVec 4 := bits 4 (c.word 5 0 g) 48
def Conf.lanes (c : Conf) (g : Nat) : Nat := fld (c.word 5 0 g) 47 44
def Conf.laneEn (c : Conf) (g : Nat) : BitVec 12 := bits 12 (c.word 5 0 g) 32
def Conf.linkEnabled (c : Conf) (g : Nat) : Bool := c.lanes g != 0
def Conf.anyLink (c : Conf) : Bool := (List.range 16).any c.linkEnabled

/-- A ROUTES entry (R128, R430). -/
def Conf.route (c : Conf) (b : Nat) : BitVec 32 :=
  BitVec.ofNat 32 ((c.word 6 0 (b / 2)).toNat >>> (32 * (b % 2)))

/-- Fields of a ROUTES entry (R430). -/
def rtValid (e : BitVec 32) : Bool := e.getLsbD 31
def rtHops (e : BitVec 32) : Nat := e.toNat >>> 16 % 8
def rtLocal (e : BitVec 32) : Bool := e.getLsbD 30
def rtLg (e : BitVec 32) : Nat := e.toNat >>> 26 % 16
def rtDir (e : BitVec 32) : Nat := (e.getLsbD 25).toNat
def rtAltEn (e : BitVec 32) : Bool := e.getLsbD 24
def rtAltLg (e : BitVec 32) : Nat := e.toNat >>> 20 % 16
def rtAltDir (e : BitVec 32) : Nat := (e.getLsbD 19).toNat

/-- One entry of a POOL record (R129). -/
structure PoolEntry where
  first : Nat
  count : Nat
  step : Nat
  reserve : Nat
  cap : Nat
deriving DecidableEq, Repr, Inhabited

/-- The entry of a POOL record's word. -/
def poolEntry (w : W64) : PoolEntry :=
  { first := fld w 63 48, count := fld w 47 34,
    step := match fld w 33 32 with | 0 => 1 | 1 => 4 | 2 => 16 | _ => 0,
    reserve := fld w 31 16, cap := fld w 15 0 }

/-- Whether an entry covers a queue. -/
def PoolEntry.covers (e : PoolEntry) (q : Nat) : Bool :=
  0 < e.step && e.first ≤ q && (q - e.first) % e.step == 0 && (q - e.first) / e.step < e.count

/-- The entries of the pool of quadrant x. -/
def Conf.pool (c : Conf) (x : Nat) : List PoolEntry :=
  match c.find 7 x with | some r => r.words.map poolEntry | none => []

/-- Reserve and cap of a queue: 0 and 0 where no entry covers it (R129). -/
def Conf.queueShare (c : Conf) (x q : Nat) : Nat × Nat :=
  match (c.pool x).find? fun e => e.covers q with | some e => (e.reserve, e.cap) | none => (0, 0)

/-- DOMAIN (R132); without the record the block is a domain of one, its own manager (R120). -/
def Conf.domain (c : Conf) : BitVec 4 := bits 4 (c.word 8 0 0) 60
def Conf.role (c : Conf) : Nat := match c.find 8 0 with | some _ => fld (c.word 8 0 0) 59 56 | none => 1
def Conf.manager (c : Conf) : BitVec 12 :=
  match c.find 8 0 with | some _ => bits 12 (c.word 8 0 0) 44 | none => c.blockId
def Conf.mirrorBlock (c : Conf) : BitVec 12 :=
  match c.find 8 0 with | some _ => bits 12 (c.word 8 0 0) 32 | none => c.blockId
def Conf.members (c : Conf) : List (BitVec 12) :=
  match c.find 8 0 with
  | some _ => (List.range (fld (c.word 8 0 0) 31 16)).map fun i => bits 12 (c.word 8 0 (1 + i / 4)) (16 * (i % 4))
  | none => [c.blockId]

/-- GUARANTEE: Consistent mode. -/
def Conf.consistent (c : Conf) : Bool := fld (c.word 9 0 0) 63 60 == 1

/-- W and T of a DETECTORS entry (R133), if the record lists the code. -/
def Conf.detEntry (c : Conf) (code : Nat) : Option (Nat × Nat) :=
  match c.find 10 0 with
  | some r => (r.words.find? fun w => fld w 63 48 == code).map fun w => (fld w 47 40, fld w 39 32)
  | none => none

/-- Whether injection is permitted at a detector (R134). -/
def Conf.injectAllowed (c : Conf) (code : Nat) : Bool :=
  let w := c.word 11 0 0
  let n := fld w 15 0
  bitAt w 63 && (n == 0 || (List.range n).any fun i =>
    fld (c.word 11 0 (1 + i / 4)) (16 * (i % 4) + 15) (16 * (i % 4)) == code)

/-- KEYS (R135). -/
def Conf.keyUse (c : Conf) (s : Nat) : Nat := fld (c.word 12 0 s) 63 60
def Conf.keyWrite (c : Conf) (s : Nat) : Nat := fld (c.word 12 0 s) 59 56
def Conf.keyLinks (c : Conf) (s : Nat) : BitVec 16 := bits 16 (c.word 12 0 s) 32
/-- The key slot of a link group (R135, R401). -/
def Conf.groupKey (c : Conf) (g : Nat) : Option Nat :=
  (List.range 16).find? fun s => c.keyUse s == 2 && (c.keyLinks s).getLsbD g

/-- SLOTS: whether a table slot is reserved. -/
def Conf.slotReserved (c : Conf) (s : Nat) : Bool := !c.archive && bitAt (c.word 13 0 0) s

/-- COMPLETIONS (R136); without the record queue 0 is enabled and takes every record (R120). -/
def Conf.cqEn (c : Conf) (q : Nat) : Bool := match c.find 14 0 with | some _ => bitAt (c.word 14 0 0) q | none => q == 0
def Conf.cqOf (c : Conf) (i : Nat) : Nat :=
  match c.find 14 0 with | some _ => fld (c.word 14 0 (1 + i / 16)) (4 * (i % 16) + 3) (4 * (i % 16)) | none => 0

/-! The detectors of R450. -/

/-- A row of the detector table: code, class of island, instances, default W and T. -/
structure DetRow where
  code : Nat
  isPs : Bool := false
  isLg : Bool := false
  isXq : Bool := false
  svc : Nat := 99
  insts : Nat := 1
  w : Nat
  t : Nat
deriving DecidableEq, Repr, Inhabited

/-- The detector table (R450). -/
def detTable : List DetRow :=
  [{ code := 0x0101, isPs := true, w := 30, t := 255 }, { code := 0x0102, isPs := true, w := 30, t := 64 },
    { code := 0x0103, isPs := true, w := 24, t := 4 }, { code := 0x0104, isPs := true, w := 30, t := 2 },
    { code := 0x0105, isPs := true, insts := 32, w := 24, t := 4 },
    { code := 0x0106, isPs := true, insts := 128, w := 24, t := 4 },
    { code := 0x0107, isPs := true, insts := 16, w := 24, t := 4 }, { code := 0x0108, isPs := true, w := 30, t := 8 },
    { code := 0x0201, isLg := true, insts := 12, w := 30, t := 16 },
    { code := 0x0202, isLg := true, insts := 12, w := 20, t := 64 }, { code := 0x0203, isLg := true, w := 20, t := 32 },
    { code := 0x0204, isLg := true, w := 20, t := 64 }, { code := 0x0205, isLg := true, w := 32, t := 8 },
    { code := 0x0206, isLg := true, w := 30, t := 4 }, { code := 0x0301, isXq := true, insts := 16384, w := 30, t := 2 },
    { code := 0x0401, svc := 55, w := 20, t := 8 }, { code := 0x0402, svc := 54, w := 20, t := 8 },
    { code := 0x0403, svc := 58, w := 30, t := 16 }] ++
  (List.range 8).map fun k => { code := 0x0410 + k, svc := 52 + k, w := 30, t := 4 }

/-- The row of a detector code. -/
def detRow (code : Nat) : Option DetRow := detTable.find? fun r => r.code == code

/-- Whether an island holds a detector's instances (R450); MGR_BEAT is a mirror's, MIR_ACK a primary's. -/
def DetRow.inIsland (r : DetRow) (k : IslandNo) (role : Nat) : Bool :=
  ((r.isPs && k.val < 32) || (r.isLg && 32 ≤ k.val && k.val < 48) || (r.isXq && 48 ≤ k.val && k.val < 52) ||
    r.svc == k.val) &&
  (r.code != 0x0401 || role == 2) && (r.code != 0x0402 || role == 1)

/-- W and T in force for a code (R133, R450). -/
def detWT (c : Option Conf) (code : Nat) : Nat × Nat :=
  match c.bind (·.detEntry code) with
  | some wt => wt
  | none => match detRow code with | some r => (r.w, r.t) | none => (0, 0)

end Sys2Proof.Machine
end

