-- ==== Sys2Proof/Machine/StPkt.lean ====
section
/-! DEFINITION. Packets of the crossing queues (R27, R29), and what they carry from island to island (R16-R18, R154, R424, R486). -/

namespace Sys2Proof.Machine

/-- A report: a Logbook record before it is appended (R482). -/
structure Report where
  code : BitVec 16
  island : BitVec 6
  sev : BitVec 2
  injected : Bool := false
  poisoned : Bool := false
  inst : BitVec 16 := 0
  resets : BitVec 16 := 0
  cycle : Ctr := 0
  seq : BitVec 32 := 0
  count : BitVec 32 := 1
  oid : BitVec 40 := 0
  plate : BitVec 24 := 0
  arg : W64 := 0
  lastCycle : Ctr := 0
  lastSeq : BitVec 32 := 0
deriving DecidableEq, Repr, Inhabited

/-- A plate write on its way to its home slice or there (R206): the stored form, FRC header included, and who is answered. -/
structure PWrite where
  obj : ObjRec
  plate : BitVec 24
  body : List Byte
  header : List Byte := []
  scale : List Byte := []
  map : BitVec 256 := 0
  poisoned : Bool := false
  run : Option Nat := none
  src : Option Requester := none
  slot : Option (SliceNo × Fin 64) := none
  heal : Bool := false
  /-- Homes that have answered NOT_HOME (R420). -/
  tries : Nat := 0
deriving DecidableEq, Repr, Inhabited

/-- What a packet carries, beside its words: the manual gives packets between islands of one block no head, so what their producer
and their taker know of them is told here (log entry 110). -/
inductive Cargo where
  /-- A packet of the fabric, of class `cls`: its first two words say where it goes (R424, R425). -/
  | fabric (cls : Nat)
  /-- A packet of the fabric that has left its per-peer queue for a link group (R432). -/
  | outbound (g : GroupNo)
  /-- The scale line of the plate whose packet follows on the same queue (R154). -/
  | scale (dst : SliceNo) (id : Nat)
  /-- The stored plate that the Eyepiece of slice `dst` awaits as `id` (R17, R18): whether an FRC header comes first, whether the
  scale line has gone before, whether a line of it failed, whether it is marked poisoned, whether it was never written, and its
  lines. -/
  | plate (dst : SliceNo) (id : Nat) (header scale badLine marked unwritten : Bool) (lines : Nat)
  /-- A plate write for home slice `dst` (R252); its stored form is in the words. -/
  | write (dst : SliceNo) (id : Nat) (w : PWrite)
  /-- The Almanac line for plate `plate`, for the engine choice of slice `dst` (R268): whose operand it predicts, whether it failed. -/
  | almanac (dst : SliceNo) (isA : Bool) (plate : BitVec 24) (bad : Bool)
  /-- The image that SPG installs in slice `dst` (R219), and a slice's asking for it again. -/
  | image (dst : SliceNo) (slot : Fin 64) (gen : BitVec 8)
  | imageAgain (p : SliceNo) (slot : Fin 64) (gen : BitVec 8)
  /-- The histogram that slice `p` has made for a command (R223). -/
  | hist (p : SliceNo) (run : Nat)
  /-- Over the pair bridge (R290): a request for a line of slice `p`'s port, with the line to be written, and a line read there. -/
  | bridgeReq (p : SliceNo) (id : Nat)
  | bridgeLine (dst p : SliceNo) (id : Nat)
  /-- A report for LOG (R486). -/
  | report (r : Report)
  /-- Words of which the manual does not say what their taker makes of them. -/
  | words
deriving DecidableEq, Repr, Inhabited

/-- A closed packet: its length word's fields, its words, the cells it occupies in the order of their links, whether the consumer
sees it yet, and what it carries (R24, R27, R29, R30). -/
structure Pkt where
  words : List PWord
  length : BitVec 16
  tag : BitVec 24 := 0
  poisonIn : Bool := false
  abandoned : Bool := false
  cells : List Nat := []
  visible : Bool := false
  cargo : Cargo := .words
deriving DecidableEq, Repr, Inhabited

/-- The length word of a packet (R29). -/
def Pkt.lengthWord (p : Pkt) : W64 :=
  packW [flag p.abandoned 63, flag p.poisonIn 62, put (~~~p.length).toNat 40, put p.tag.toNat 16, put p.length.toNat 0]

/-- Whether anything of a packet is poisoned (R29, R33). -/
def Pkt.poisoned (p : Pkt) : Bool := p.poisonIn || p.words.any (·.poison)

/-- The words of a packet as its consumer passes them on: they are poisoned where the packet is (R29, R33, R402). -/
def Pkt.carried (p : Pkt) : List PWord := if p.poisonIn then p.words.map fun w => { w with poison := true } else p.words

/-- A packet a unit has to send: the pool and the queue it goes to, its words, its tag and what it carries. -/
structure OutPkt where
  quad : QuadNo
  queue : BitVec 16
  words : List PWord
  tag : BitVec 24 := 0
  cargo : Cargo := .words
deriving DecidableEq, Repr, Inhabited

end Sys2Proof.Machine
end

