-- ==== Sys2Proof/Machine/StIsland.lean ====
section
/-! DEFINITION. The state every island has: its clock, reset, STATE, cycle counter and sequence number (R19, R21),
its detectors (R448), its report buffer (R486), its counters (R76) and their frozen copy (R497). -/

namespace Sys2Proof.Machine

/-- STATE of an island, by the codes of R21. -/
inductive IslState where
  | reset | config | run | quiesced | shut
deriving DecidableEq, Repr, Inhabited

/-- The code of a STATE (R21). -/
def IslState.code : IslState → Nat | .reset => 0 | .config => 1 | .run => 2 | .quiesced => 3 | .shut => 4

/-- What an instance of a detector has counted (R448); an instance without an entry has counted nothing. -/
structure Det where
  code : BitVec 16
  inst : BitVec 16
  lasting : Bool := false
  count : BitVec 8 := 0
  total : BitVec 32 := 0
  winStart : Ctr := 0
deriving DecidableEq, Repr, Inhabited

/-- An arming in force at an island (R494, R496). -/
structure Armed where
  code : BitVec 16
  inst : BitVec 16
  remaining : BitVec 16
  spacing : BitVec 32
  last : Option Ctr := none
deriving DecidableEq, Repr, Inhabited

/-- An island. -/
structure Island where
  /-- rst_isl_n low, or por_n low. -/
  inReset : Bool := true
  state : IslState := .reset
  /-- RESETS: always-on, cleared only by power-on reset (R21). -/
  resets : BitVec 16 := 0
  clkSeen : Bool := false
  /-- The island clock runs (an input). -/
  clkRun : Bool := false
  cycle : Ctr := 0
  seq : BitVec 32 := 0
  /-- The configuration delivered to the island and in force in it (R138, R140, R147). -/
  conf : Option Conf := none
  /-- The records of live streams that the island takes up when it is released (R147). -/
  liveRecs : List Rec := []
  /-- The end of the memory BIST: none while it has not ended, else whether it passed (R502). -/
  bist : Option Bool := none
  /-- The cycle count at the last check window's close (R103). -/
  winCycle : Ctr := 0
  /-- REFUSED of the memory BIST controllers, and the result of the last run that the test network started (R109). -/
  bistRefused : Bool := false
  bistNet : Option Bool := none
  /-- Quadrants whose reset has emptied queues of this island, not yet reported (R40). -/
  emptiedBy : BitVec 4 := 0
  /-- The island's bit of CFG_QUIESCE as it has reached the island (R144). -/
  quiesceAsk : Bool := false
  /-- By detector code, the cycle in which its instances were last configured; the reset release where unlisted (R448). -/
  detStart : List (Nat × Ctr) := []
  dets : List Det := []
  /-- Events that have occurred at a detector and are not yet counted. -/
  detQueue : List DetEvent := []
  /-- The report buffer, oldest first (R486). -/
  reports : List Report := []
  dropped : BitVec 32 := 0
  /-- DET_SEL: code and instance. -/
  detSelCode : BitVec 16 := 0
  detSelInst : BitVec 16 := 0
  freeze : Bool := false
  frozen : List (Nat × Ctr) := []
  /-- Counters by the offset of their register in the island's region (R76). -/
  ctr : List (Nat × Ctr) := []
  armed : Option Armed := none
  /-- Packets the island's units have to send, in order; and, with the queue they came on, packets taken that wait for another
  (a scale line for its plate, R154) or that carry words of no described meaning. -/
  outbox : List OutPkt := []
  inbox : List (BitVec 16 × Pkt) := []
deriving DecidableEq, Repr, Inhabited

/-- Adds to the counter whose register lies at offset `off` (R76: 48 bits, wrapping). -/
def Island.bump (i : Island) (off n : Nat) : Island :=
  if n = 0 then i else { i with ctr := KMap.put i.ctr off (KMap.getD i.ctr off 0 + BitVec.ofNat 48 n) }

/-- The counter at offset `off`. -/
def Island.count (i : Island) (off : Nat) : Ctr := KMap.getD i.ctr off 0

/-- The value a counter register reads as: the frozen one while FREEZE is 1 (R497). -/
def Island.shown (i : Island) (off : Nat) : Ctr := if i.freeze then KMap.getD i.frozen off 0 else i.count off

/-- CYCLE as it reads (R21, R497); key 8 of the frozen copy is the cycle count. -/
def Island.cycleShown (i : Island) : Ctr := if i.freeze then KMap.getD i.frozen 8 0 else i.cycle

/-- Latches the cycle count and every counter (R497). -/
def Island.latch (i : Island) : Island := { i with frozen := KMap.put i.ctr 8 i.cycle }

/-- The island runs: out of reset with its clock going (R22). -/
def Island.live (i : Island) : Bool := !i.inReset && i.clkRun

/-- A fresh island record in reset, keeping what only power-on reset clears and its clock (R21). -/
def Island.cleared (i : Island) : Island :=
  { (default : Island) with resets := i.resets, clkSeen := i.clkSeen, clkRun := i.clkRun, emptiedBy := i.emptiedBy }

/-- STATE becomes st; an island in reset stays in RESET (R21, R22). -/
def Island.enter (i : Island) (st : IslState) : Island := if i.inReset then i else { i with state := st }

/-- Island numbers (R13). -/
def psIsl (p : SliceNo) : IslandNo := ⟨p.val, by omega⟩
def lgIsl (g : GroupNo) : IslandNo := ⟨32 + g.val, by omega⟩
def xqIsl (x : QuadNo) : IslandNo := ⟨48 + x.val, by omega⟩
def cfgIsl : IslandNo := 52
def cmdIsl : IslandNo := 53
def ephIsl : IslandNo := 54
def mirIsl : IslandNo := 55
def logIsl : IslandNo := 56
def spgIsl : IslandNo := 57
def svyIsl : IslandNo := 58
def injIsl : IslandNo := 59

/-- The quadrant an island is attached to (R15). -/
def quadOf (k : IslandNo) : QuadNo :=
  Fin.ofNat 4 (if k.val < 32 then k.val / 8
  else if k.val < 48 then (k.val - 32) / 4
  else if k.val < 52 then k.val - 48
  else if k.val = 52 || k.val = 53 || k.val = 54 || k.val = 56 then 0 else 2)

/-- A service island's local order in its quadrant (R15). -/
def svcLocal (k : IslandNo) : Nat :=
  match k.val with | 53 => 1 | 54 => 2 | 56 => 3 | 57 => 1 | 58 => 2 | 59 => 3 | _ => 0

end Sys2Proof.Machine
end

