-- ==== Sys2Proof/Machine/StQuad.lean ====
section
/-! DEFINITION. Crossing queues and cell pools (R23-R42), and the state of a crossbar quadrant. -/

namespace Sys2Proof.Machine

/-- An open packet: the cells claimed for it and the words written so far (R27). -/
structure OpenPkt where
  cells : List Nat
  words : List PWord
deriving DecidableEq, Repr, Inhabited

/-- A crossing queue. -/
structure CQueue where
  /-- Closed packets, front first. -/
  packets : List Pkt := []
  openPkt : Option OpenPkt := none
  /-- The producer's open was cancelled by the owner's reset: it sees full until its next open (R41). -/
  cancelled : Bool := false
  wedged : Bool := false
  paritySeen : Bool := false
  abandonSeen : Bool := false
  overrun : Bool := false
  underrun : Bool := false
  /-- The last word delivered, or zero (R36). -/
  lastWord : W64 := 0
  /-- Words of the front packet already read, where software reads word by word (R492). -/
  readPos : Nat := 0
  /-- Abandoned packets discarded (R41). -/
  abandons : Nat := 0
deriving DecidableEq, Repr, Inhabited

/-- A crossbar quadrant: its pool's queues by queue number (an unlisted queue is empty), the retired cells and those that are to be
retired once their packet has been read, and its select registers (R24, R34, R42, R447). -/
structure Quad where
  queues : List (Nat × CQueue) := []
  retired : List Nat := []
  retiring : List Nat := []
  qsel : BitVec 16 := 0
  /-- Per channel, the peer served last (R432). -/
  lastPeer : Vector Nat 8 := Vector.replicate 8 1023
  routeSel : BitVec 12 := 0
deriving DecidableEq, Repr, Inhabited

/-- A queue of a pool. -/
def Quad.queue (x : Quad) (q : Nat) : CQueue := KMap.getD x.queues q {}

/-- A pool with a queue replaced. -/
def Quad.setQueue (x : Quad) (q : Nat) (c : CQueue) : Quad := { x with queues := KMap.put x.queues q c }

/-- Whether a queue number exists in the pool of quadrant x (R24). -/
def queueExists (x : QuadNo) (q : Nat) : Bool :=
  q < 0x2000 ||
  (0x2000 ≤ q && q < 0x2020) ||
  (0x2020 ≤ q && q < 0x2060) ||
  (0x2060 ≤ q && q < 0x2070) ||
  ((x == 0 || x == 2) && 0x2080 ≤ q && q < 0x2090) ||
  (x == 0 && 0x2100 ≤ q && q ≤ 0x2110) ||
  (0x2120 ≤ q && q < 0x2124)

/-- The island of local slice i of quadrant x (R24). -/
def localSlice (x : QuadNo) (i : Nat) : IslandNo := ⟨(8 * x.val + i % 8) % 60, by omega⟩
/-- The island of local link group j of quadrant x (R24). -/
def localGroup (x : QuadNo) (j : Nat) : IslandNo := ⟨32 + (4 * x.val + j % 4), by omega⟩
/-- The service island k of quadrant x (R15). -/
def localService (x : QuadNo) (k : Nat) : IslandNo :=
  if x = 0 then (if k % 4 = 0 then 52 else if k % 4 = 1 then 53 else if k % 4 = 2 then 54 else 56)
  else (if k % 4 = 0 then 55 else if k % 4 = 1 then 57 else if k % 4 = 2 then 58 else 59)
/-- The next-higher and next-lower quadrant (R24). -/
def nextHigher (x : QuadNo) : QuadNo := x + 1
def nextLower (x : QuadNo) : QuadNo := x + 3

/-- Producing and owning island of a queue (R24, R25). The owner is the consumer's island. -/
def queueEnds (x : QuadNo) (q : Nat) : IslandNo × IslandNo :=
  let me := xqIsl x
  if q < 0x2000 then (me, me)
  else if q < 0x2020 then
    let s := localSlice x ((q - 0x2000) / 4)
    if q % 4 < 2 then (s, me) else (me, s)
  else if q < 0x2060 then
    let g := localGroup x ((q - 0x2020) / 16)
    if (q - 0x2020) % 16 < 8 then (me, g) else (g, me)
  else if q < 0x2068 then (xqIsl (nextHigher x), me)
  else if q < 0x2070 then (xqIsl (nextLower x), me)
  else if q < 0x2090 then
    let s := localService x ((q - 0x2080) / 4)
    if q % 4 < 2 then (s, me) else (me, s)
  else if q < 0x2110 then (cmdIsl, cmdIsl)
  else if q = 0x2110 then (logIsl, logIsl)
  else (localGroup x (q - 0x2120), me)

/-- The producer of a queue. -/
def queueProducer (x : QuadNo) (q : Nat) : IslandNo := (queueEnds x q).1
/-- The owning island of a queue. -/
def queueOwner (x : QuadNo) (q : Nat) : IslandNo := (queueEnds x q).2

/-- The cells a packet of n words takes with its length slot (R27). -/
def cellsFor (n : Nat) : Nat := cdiv (n + 1) 64

/-- The cells of a queue in use or claimed, by their numbers, in the order in which their links chain them (R24, R27). -/
def CQueue.cellNos (c : CQueue) : List Nat :=
  c.packets.flatMap (·.cells) ++ match c.openPkt with | some o => o.cells | none => []

/-- How many cells of a pool a queue has in use or claimed (R27). -/
def CQueue.cells (c : CQueue) : Nat := c.cellNos.length

/-- The cells of a pool in use or claimed (R27). -/
def Quad.cellNos (x : Quad) : List Nat := x.queues.flatMap fun e => e.2.cellNos

/-- Free cells of a pool: neither in use, claimed nor retired (R27). -/
def Quad.free (x : Quad) : Nat := 16384 - x.retired.length - x.cellNos.length

/-- The n cells that a claim takes from the free list: those of the lowest numbers (DESIGN CHOICE, log entry 111). -/
def Quad.pick (x : Quad) (n : Nat) : List Nat :=
  let gone := x.retired ++ x.cellNos
  ((List.range (min 16384 (gone.length + n))).filter fun c => !gone.contains c).take n

/-- Cells due to be retired whose packet has been read leave the pool (R34). -/
def Quad.settle (x : Quad) : Quad :=
  if x.retiring.isEmpty then x
  else
    let used := x.cellNos
    { x with retiring := x.retiring.filter used.contains, retired := x.retired ++ x.retiring.filter fun c => !used.contains c }

/-- Complete packets visible to the consumer. -/
def CQueue.visibleCount (c : CQueue) : Nat := (c.packets.takeWhile (·.visible)).length

/-- Whether no visible packet and no partly read one is present (R31, R36). -/
def CQueue.isEmpty (c : CQueue) : Bool := c.visibleCount == 0

end Sys2Proof.Machine
end

