-- ==== Sys2Proof/Machine/StCfg.lean ====
section
/-! DEFINITION. CFG's state: its store, the stream being received, the key store, start-up status and the register
channel. -/

namespace Sys2Proof.Machine

/-- A stream being received (R111, R138). -/
structure SsRecv where
  /-- Words accepted. -/
  count : Nat := 0
  hdr : List W64 := []
  /-- The running CRC over the words accepted, the CRC field taken as zero (R115). -/
  crc : Nat := 0xFFFFFFFF
  /-- Records finished, in order. -/
  recs : List Rec := []
  /-- The record being received: type, instance, payload words left, words so far (newest first), its offset. -/
  cur : Option (Nat × Nat × Nat × List W64 × Nat) := none
  /-- Type and instance of the record before it, annotations included. -/
  prev : Option (Nat × Nat) := none
  ended : Bool := false
deriving DecidableEq, Repr, Inhabited

/-- A key slot of the key store: whether it is loaded, its 64 bytes of key, its key number, writes since the
last full load (R177-R181, R401). -/
structure KeySlot where
  loaded : Bool := false
  key : List Byte := []
  written : Bool := false
deriving DecidableEq, Repr, Inhabited

/-- An answer on the register channel (R77, R81): its code and read data. -/
structure CpAns where
  code : BitVec 2
  rdata : W64
deriving DecidableEq, Repr, Inhabited

/-- CFG's own state. -/
structure CfgS where
  /-- The configuration store (R140). -/
  store : Option Conf := none
  recv : Option SsRecv := none
  /-- Discarding words until the resynchronisation ends (R113). -/
  resync : Bool := false
  /-- The CFG cycle in which the last stream word was accepted, discarded words included (R113). -/
  wordAt : Ctr := 0
  /-- The end of the self-test: none until then (R501). -/
  selfTest : Option Bool := none
  lastErr : BitVec 8 := 0
  rejects : BitVec 16 := 0
  errType : BitVec 16 := 0
  errInst : BitVec 16 := 0
  errOffset : BitVec 32 := 0
  liveApplied : BitVec 16 := 0
  liveId : BitVec 32 := 0
  /-- CFG_QUIESCE.REQ. -/
  quiesce : BitVec 60 := 0
  /-- Instance-free status of start-up (R512). -/
  ready : Bool := false
  portFail : Bool := false
  linkShort : Bool := false
  mgrAbsent : Bool := false
  keyMissing : Bool := false
  linksUp : BitVec 16 := 0
  portsUp : BitVec 32 := 0
  bistFail : BitVec 60 := 0
  /-- The key store and the staging words (R177, R178). -/
  keys : Vector KeySlot 16 := Vector.replicate 16 {}
  keyStage : Vector W64 8 := Vector.replicate 8 0
  /-- Commits performed, and denied (R177). -/
  keyCommits : BitVec 16 := 0
  keyDenials : BitVec 16 := 0
  /-- As of the last check window (R103, R521). -/
  liveMap : BitVec 60 := 0
  shutMap : BitVec 60 := 0
  haltedMap : BitVec 16 := 0
  lostSeen : Bool := false
  /-- The cycle of the last check window's close. -/
  winAt : Ctr := 0
deriving DecidableEq, Repr, Inhabited

/-- A request that is outstanding on the register channel (R79, R82): its tag, what it asks, the CFG cycle of its transfer. -/
structure CpReq where
  tag : BitVec 4
  ask : RegAsk
  at_ : Ctr
deriving DecidableEq, Repr, Inhabited

/-- The register channel (R77-R82): the requests accepted and not answered, in the order of their acceptance, at most one for each of
the 16 tags; and the last answer given under each tag (log entry 13). -/
structure CpS where
  out : List CpReq := []
  answers : Vector (Option CpAns) 16 := Vector.replicate 16 none
deriving DecidableEq, Repr, Inhabited

end Sys2Proof.Machine
end

