-- ==== Sys2Proof/Machine/StCmd.lean ====
section
/-! DEFINITION. CMD's state: command queues, commands that run, signal counters, the local entry store, completion
records, and the Network Window Port (R83-R93, R325-R377). -/

namespace Sys2Proof.Machine

/-- An entry that CMD has accepted: its ring index, its eight words, and the queue's epoch when it was fetched. -/
structure Entry where
  idx : BitVec 17
  words : List W64
  epoch : BitVec 8 := 0
  /-- The commands that any queue had started and not completed when it was accepted (R349). -/
  after : List Nat := []
deriving DecidableEq, Repr, Inhabited

/-- A fetch that is outstanding: its identity, which its host read carries, the first ring index, the number of entries, and whether it is
a re-fetch (R337, R339). -/
structure Fetch where
  id : Nat := 0
  first : BitVec 17
  count : Nat
  again : Bool := false
deriving DecidableEq, Repr, Inhabited

/-- A command queue (R325-R327, R369). -/
structure CmdQ where
  en : Bool := false
  host : Bool := false
  hcqEn : Bool := false
  sizeLog : Nat := 3
  win : BitVec 4 := 0
  lbase : BitVec 11 := 0
  ring : BitVec 52 := 0
  hcq : BitVec 52 := 0
  head : BitVec 17 := 0
  tail : BitVec 17 := 0
  epoch : BitVec 8 := 0
  armed : Bool := false
  /-- CAUSE while halted: 1 STALE, 2 software, 3 FETCH_ERROR; 0 while not halted. -/
  halted : BitVec 4 := 0
  /-- Entries accepted and not started, oldest first. -/
  accepted : List Entry := []
  fetch : Option Fetch := none
  /-- The entry at HEAD was found stale: the next re-fetch attempt k, and the cycle of the answer it is timed from. -/
  stale : Option (Nat × Ctr) := none
  /-- The WAIT that holds the queue: its command, the counter, the value (R351). -/
  wait : Option (Nat × Nat × BitVec 32) := none
deriving DecidableEq, Repr, Inhabited

/-- Where the host completion record of a command stands (R368). -/
inductive HostRec where
  | notDue | due | issued | acked | lost
deriving DecidableEq, Repr, Inhabited

/-- A plate that a command has still to deal with: source and destination index. -/
structure PairIdx where
  src : Nat
  dst : Nat
deriving DecidableEq, Repr, Inhabited

/-- A command that has started (R342-R345). -/
structure CmdRun where
  id : Nat
  q : Fin 64
  entry : Entry
  /-- The second stage of a STAGE pair (R334). -/
  second : Option Entry := none
  slice : SliceNo := 0
  /-- The first failure status; 0 while there is none. -/
  status : BitVec 8 := 0
  plates : Nat := 0
  dropped : Nat := 0
  redispatch : Nat := 0
  poisoned : Bool := false
  trimmed : Bool := false
  approx : Bool := false
  bfailRow : Bool := false
  bfailCol : Bool := false
  joinDeclined : Bool := false
  spilled : Bool := false
  /-- Runs again so far (R466). -/
  tries : Nat := 0
  /-- No further work is to be generated for it: it has failed, or a host access was lost (R356, R371). -/
  stopped : Bool := false
  /-- Destination plates that have been stored so far (R257). -/
  stored : List (BitVec 40 × Nat) := []
  /-- Plates it has still to give to a unit. -/
  work : List PairIdx := []
  /-- COMPRESS is in its second pass. -/
  second2 : Bool := false
  /-- Source and destination objects. -/
  src : Option ObjRec := none
  dst : Option ObjRec := none
  /-- Bound, master and table slot of the plates it stores; the master of an FRC source goes with its plates. -/
  bound : Nat := 0
  master : BitVec 40 := 0
  masterOfSrc : Bool := false
  encSlot : Fin 64 := 0
  /-- It waits for a unit outside its own work list: SPG, the manager, a remote block, the Survey, a WAIT. -/
  waiting : Bool := false
  /-- A RED_DATA of it has been sent (R466). -/
  sentRed : Bool := false
  /-- A PLATE_MATMUL, COMPRESS, RECODE or COPY that an uncorrectable word of an SRAM of this block has reached (R463, R466). -/
  sram : Bool := false
  /-- The record it registers before it writes the first plate (R422); whether it has done so. -/
  newRec : Option RecWords := none
  registered : Bool := false
  /-- The creating block of the new object (R413). -/
  cblock : BitVec 12 := 0
  /-- The plates it writes (R257). -/
  dests : List (BitVec 40 × Nat) := []
  hrec : HostRec := .notDue
  /-- A host write of it was not acknowledged with code 0b00 (R368). -/
  hostWrFail : Bool := false
  /-- Its status is final and its records are being written. -/
  done : Bool := false
deriving DecidableEq, Repr, Inhabited

/-- What a host access is for. -/
inductive NwWhy where
  | fetch (q : Fin 64) (id : Nat)
  /-- Bytes of a HOST_READ from this offset of its range; of a HOST_WRITE; of a table image. -/
  | hostRead (run offset : Nat)
  | hostWrite (run : Nat)
  | image (run offset : Nat)
  /-- A host completion record; of a STALE_ENTRY. -/
  | record (run : Nat)
  | staleRecord (q : Fin 64)
deriving DecidableEq, Repr, Inhabited

/-- A host access (R87): its window, host address, length in bytes, and the bytes it writes. -/
structure NwAcc where
  why : NwWhy
  wr : Bool
  win : BitVec 4
  addr : Nat
  len : Nat
  data : List Byte := []
  /-- The queue of the command, and the epoch under which it may be issued (R357, R368). -/
  queue : Option (Fin 64 × BitVec 8) := none
deriving DecidableEq, Repr, Inhabited

/-- A tag of the Network Window Port that is outstanding, or timed out (R91). -/
structure NwTag where
  tag : BitVec 8
  acc : NwAcc
  /-- The DEST of its window, as presented (R86, R93). -/
  dest : BitVec 32 := 0
  at_ : Ctr
  got : List Byte := []
  timedOut : Bool := false
deriving DecidableEq, Repr, Inhabited

/-- A write data beat as it left (R86). -/
structure NwBeat where
  tag : BitVec 8
  data : List Byte
  last : Bool
deriving DecidableEq, Repr, Inhabited

/-- A host window (R93). -/
structure NwWin where
  en : Bool := false
  base : BitVec 52 := 0
  limit : BitVec 52 := 0
  dest : BitVec 32 := 0
deriving DecidableEq, Repr, Inhabited

/-- A completion record waiting for room in its completion queue (R365), with the QUIET rule already applied. -/
structure HeldRec where
  cq : Fin 16
  words : List W64
deriving DecidableEq, Repr, Inhabited

/-- CMD's own state. -/
structure CmdS where
  queues : Vector CmdQ 64 := Vector.replicate 64 {}
  /-- The queue last served (R342). -/
  lastQ : Nat := 63
  runs : List CmdRun := []
  sig : Vector (BitVec 32) 256 := Vector.replicate 256 0
  /-- The local entry store, 128 KiB: its bytes that are not zero, addresses rising (R326). -/
  store : List Host.Cell := []
  held : List HeldRec := []
  /-- Bytes of HOST_READ plates that have arrived: run, offset, bytes. -/
  landing : List (Nat × Nat × List Byte) := []
  wins : Vector NwWin 16 := Vector.replicate 16 {}
  pathPin : Bool := false
  pathAt : Ctr := 0
  pathUp : Bool := false
  pathDownSeen : Bool := false
  pathFalls : BitVec 16 := 0
  timeoutSeen : Bool := false
  lateSeen : Bool := false
  nwWaiting : List NwAcc := []
  nwTags : List NwTag := []
  /-- Writes whose data beats have not all been sent, in order (R87). -/
  nwData : List (BitVec 8 × List Byte) := []
  /-- Writes whose data beats have begun to leave ahead of their request, in order (R49, R87). -/
  nwAhead : List NwTag := []
  /-- The last data beat sent. -/
  lastBeat : Option NwBeat := none
  /-- The doorbell buffer: accepted and not acted on, at most 64, oldest first (R84). -/
  doorbells : List W64 := []
deriving DecidableEq, Repr, Inhabited

/-! The entry store as memory: bytes by address in canonical form. -/

/-- What an address that is not listed reads as: the reset value of CMD_ENTRY, zero. -/
def storeDefault : Byte := 0

/-- Whether a list of cells is in canonical form: addresses strictly rising, no cell equal to what an unlisted address
reads as. -/
def Memory.wf : List Host.Cell → Bool
  | [] => true
  | [c] => c.2 != storeDefault
  | a :: b :: r => decide (a.1 < b.1) && a.2 != storeDefault && Memory.wf (b :: r)

end Sys2Proof.Machine
end

