-- ==== Sys2Proof/Machine/StEph.lean ====
section
/-! DEFINITION. The Ephemeris and MIR: directory, placement map and cache, free extents, dark and park tables, moves,
managers (R413-R447, R454-R480), and the fabric requests outstanding in the block. -/

namespace Sys2Proof.Machine

/-- What a directory entry is (R417). -/
inductive DirKind where
  | object
  | run (slice : SliceNo) (s0 count base : Nat)
  | span (slice : SliceNo) (s base : Nat)
  | away (s : Nat)
deriving DecidableEq, Repr, Inhabited

/-- A directory entry (R417). An OBJECT entry also carries the interleave registered for the object. -/
structure DirEnt where
  obj : ObjRec
  kind : DirKind
  stamp : Ctr := 0
  inMotion : Bool := false
  /-- The entry of a span that is on its way here (R437): it serves no access yet. -/
  incoming : Bool := false
  pinned : Bool := false
  lost : Bool := false
  /-- Extents of the frame, or of each frame of a RUN. -/
  extents : Nat := 0
  icount : Nat := 0
  islice : List Nat := []
deriving DecidableEq, Repr, Inhabited

/-- An object entry of the placement map (R415). -/
structure MapObj where
  obj : RecWords
  cblock : BitVec 12
  icount : Nat
  islice : List Nat
deriving DecidableEq, Repr, Inhabited

/-- A slot of an override entry (R415). -/
structure OvrSlot where
  valid : Bool := false
  pinned : Bool := false
  slice : BitVec 5 := 0
  block : BitVec 12 := 0
deriving DecidableEq, Repr, Inhabited

/-- An override entry: the homes of a group of eight spans (R415). -/
structure MapOvr where
  oid : BitVec 40
  group : Nat
  slots : Vector OvrSlot 8 := Vector.replicate 8 {}
deriving DecidableEq, Repr, Inhabited

/-- A placement map, or a placement cache. -/
structure PMap where
  objs : List MapObj := []
  ovrs : List MapOvr := []
deriving DecidableEq, Repr, Inhabited

/-- A home (R161). -/
structure HomeAt where
  block : BitVec 12
  slice : SliceNo
deriving DecidableEq, Repr, Inhabited

/-- A dark plate (R454): which slice found it, whether its heal runs, and why the heal is one of an index. -/
structure Dark where
  oid : BitVec 40
  plate : BitVec 24
  slice : SliceNo
  healing : Bool := false
  index : Bool := false
  /-- The object's record, when known. -/
  obj : Option ObjRec := none
deriving DecidableEq, Repr, Inhabited

/-- Whom a parked request serves (R455). -/
inductive Parked where
  | fabric (r : Requester)
  | eye (slice : SliceNo) (id : Nat)
deriving DecidableEq, Repr, Inhabited

/-- A parked request. -/
structure Park where
  oid : BitVec 40
  plate : BitVec 24
  who : Parked
deriving DecidableEq, Repr, Inhabited

/-- Why a span move is made (R437-R442). -/
inductive MoveWhy where
  | move | prefetch | evict
  /-- A capacity eviction asked for by a home. -/
  | capacity (r : Requester)
deriving DecidableEq, Repr, Inhabited

/-- A span move at the manager: waiting, asked of the source, or written to the map and waiting for the mirror. -/
inductive MoveState where
  | waiting | asked | applied
deriving DecidableEq, Repr, Inhabited

/-- A span move of the move table, or one that waits for it (R437). -/
structure SpanMove where
  no : BitVec 32
  oid : BitVec 40
  span : BitVec 18
  why : MoveWhy
  /-- The residency command it belongs to. -/
  job : Option Nat := none
  toHome : HomeAt
  /-- The tier from which the manager chooses the new home when the move starts: 1 far, 2 deep, 3 deep and else far; 0 where
  the new home is given (R440, R441); whether only the new home's block is given. -/
  tier : Nat := 0
  anySlice : Bool := false
  source : HomeAt := default
  st : MoveState := .waiting
  /-- Who sent COMMIT. -/
  commitBy : Option Requester := none
deriving DecidableEq, Repr, Inhabited

/-- A residency command at its manager (R436, R440). -/
structure CmdxJob where
  id : Nat
  src : Requester
  opcode : BitVec 8
  oid : BitVec 40
  /-- Every span of the object is to be freed (R440). -/
  whole : Bool := false
  /-- FREEs, PIN_SETs and span moves that have not ended. -/
  left : Nat := 0
  plates : Nat := 0
  /-- The first status that was not OK, by the codes of R429. -/
  status : BitVec 4 := 0
deriving DecidableEq, Repr, Inhabited

/-- The source side of a span move (R437, R438): lines still to be sent, whether a part is being read, whether COMMIT has been
sent. -/
structure MvSrc where
  oid : BitVec 40
  span : BitVec 18
  no : BitVec 32
  toHome : HomeAt
  /-- Segment and number of what is still to be sent: plates first. -/
  send : List (Segment × Nat) := []
  started : Bool := false
  asked : Bool := false
  /-- The record of written plates has been sent; COMMIT has been sent. -/
  record : Bool := false
  committed : Bool := false
  /-- A part of the frame could not be read. -/
  failed : Bool := false
deriving DecidableEq, Repr, Inhabited

/-- The destination side of a span move. -/
structure MvDst where
  obj : ObjRec
  span : BitVec 18
  slice : SliceNo
  src : Requester
  base : Nat
  extents : Nat
  left : Nat := 0
  failed : Bool := false
  /-- The record of written plates has come, so that nothing more follows; the plates it names, and those it names as
  poisoned. -/
  last : Bool := false
  written : List Nat := []
  poisoned : List Nat := []
  /-- The index lines as they came. -/
  index : List (Nat × List Byte) := []
  /-- Copy-done has been sent. -/
  told : Bool := false
deriving DecidableEq, Repr, Inhabited

/-- The last occupancy of a member, from JOIN and OCC (R423). -/
structure Occ where
  block : BitVec 12
  role : BitVec 4 := 0
  icount : Nat := 0
  islice : List Nat := []
  free : List (BitVec 64) := []
  freeEntries : BitVec 64 := 0
deriving DecidableEq, Repr, Inhabited

/-- An entry of the manager table (R414). -/
structure MgrEnt where
  valid : Bool := false
  manager : BitVec 12 := 0
  mirror : BitVec 12 := 0
deriving DecidableEq, Repr, Inhabited

/-- What a fabric request is for: what its answer goes to. -/
inductive ReqWhy where
  /-- A plate for an Eyepiece of this block. -/
  | read (slice : SliceNo) (id : Nat)
  /-- A plate written by a command at a home elsewhere. -/
  | write (run : Option Nat) (slot : Option (SliceNo × Fin 64)) (poisoned : Bool)
  | lookup
  | register (run : Nat) (obj : RecWords)
  | object (run : Nat)
  | cmdx (run : Nat)
  | signal (run : Nat)
  | reduce (run : Nat)
  /-- MIRROR of a map change: the span moves and registrations that wait for it. -/
  | mirror (moves : List (BitVec 32)) (answers : List Requester)
  | mvStart (no : BitVec 32)
  | freeSpan (job : Nat)
  | pinSpan (job : Nat)
  | evictReq (slice : SliceNo) (oid : BitVec 40) (span : Nat)
  /-- The commit of a placement under R441. -/
  | place (oid : BitVec 40) (span : Nat)
  | join
  | copyDone
  | commit
  /-- A plate read for its header alone, for the heal of another plate or of itself (R456). -/
  | header (plate : BitVec 24)
deriving DecidableEq, Repr, Inhabited

/-- A request outstanding in a unit of this block (R428, R436). -/
structure FabReq where
  unit : BitVec 6
  tid : BitVec 16
  ptype : Nat
  dest : BitVec 12
  dunit : BitVec 6
  /-- STATUS, which only a COMMIT with ABORT bears (R439; log entry 69). -/
  status : BitVec 4 := 0
  oid : BitVec 40 := 0
  idx : BitVec 24 := 0
  arg : BitVec 32 := 0
  rest : List W64 := []
  data : PlateWords := { body := [] }
  why : ReqWhy
  at_ : Ctr := 0
  again : Bool := false
  /-- Homes tried so far (R420). -/
  tries : Nat := 0
deriving DecidableEq, Repr, Inhabited

/-- A run of free extents of a device (R421). -/
structure FreeRun where
  first : Nat
  count : Nat
deriving DecidableEq, Repr, Inhabited

/-- A placement in progress for a span that obtained no frame on its slice (R441): the step reached, victims so far, the
frame claimed elsewhere. -/
structure Place where
  slice : SliceNo
  obj : ObjRec
  span : Nat
  need : Nat
  step : Nat := 1
  victims : Nat := 0
  target : SliceNo := 0
  base : Nat := 0
  /-- A request of it is outstanding. -/
  asked : Bool := false
  /-- The source of an incoming move that waits for the frame. -/
  incoming : Option Requester := none
deriving DecidableEq, Repr, Inhabited

/-- The state of EPH and MIR. -/
structure EphS where
  dir : List DirEnt := []
  /-- MIR's copy of the directory, and of the map (R421, R461). -/
  mirDir : List DirEnt := []
  mirMap : PMap := {}
  /-- Of the spans homed here: plates written, recorded as poisoned (R255), lost (R472), by object and index. -/
  written : List (BitVec 40 × Nat) := []
  poisoned : List (BitVec 40 × Nat) := []
  lostPlates : List (BitVec 40 × Nat) := []
  cache : PMap := {}
  /-- The keys of the cache's entries, an object or a group of its spans, most recently used first (R420). -/
  cacheUse : List (BitVec 40 × Option Nat) := []
  map : PMap := {}
  /-- Free extents of the 32 devices, rising; freed runs that wait in the overflow (R421). -/
  free : Vector (List FreeRun) 32 := Vector.replicate 32 []
  overflow : List (SliceNo × FreeRun) := []
  /-- Slices whose device left the interleave (R472, R505). -/
  gone : BitVec 32 := 0
  dark : List Dark := []
  park : List Park := []
  places : List Place := []
  /-- Objects whose query a manager has answered with a status other than OK, until a command has taken note of it. -/
  refused : List (BitVec 40 × BitVec 4) := []
  /-- Records that the manager has answered to an OBJ_REQ, until a command has taken note of them (R201). -/
  queried : List RecWords := []
  /-- Groups of spans whose home a LOOKUP has been sent for, until the access that needed it finds it (R420, R447). -/
  lookedUp : List (BitVec 40 × Nat) := []
  /-- Spans whose index could not be rebuilt, in Progress mode (R270). -/
  badIndex : List (BitVec 40 × Nat) := []
  /-- Spans that have left this block, with the homes they went to (R437). -/
  moved : List (BitVec 40 × Nat × HomeAt) := []
  /-- The number of the next span move of this manager. -/
  moveNo : Nat := 0
  moves : List SpanMove := []
  movesWait : List SpanMove := []
  jobs : List CmdxJob := []
  srcs : List MvSrc := []
  dsts : List MvDst := []
  occ : List Occ := []
  mgr : Vector MgrEnt 16 := Vector.replicate 16 {}
  acting : BitVec 16 := 0
  unmirrored : BitVec 16 := 0
  halted : BitVec 16 := 0
  /-- Domains halted since EPH's, and since CMD's, last reset: a halt lasts until both have been reset (R468). -/
  haltCmdReset : Bool := false
  haltEphReset : Bool := false
  /-- Accesses wait for a reload from MIR (R476); when it began. -/
  reloading : Bool := false
  reloadAt : Ctr := 0
  /-- Managers that have acknowledged JOIN; when JOIN was last sent; step 7 has begun, and ended (R508). -/
  joinAck : List (BitVec 12) := []
  joinAt : Ctr := 0
  step7At : Option Ctr := none
  step7 : Bool := false
  occAt : Ctr := 0
  /-- When the last MIRROR was sent (R477). -/
  mirrorAt : Ctr := 0
  beatAt : Ctr := 0
  /-- The first MIRROR has arrived (R508). -/
  beatSeen : Bool := false
  /-- Frames to be freed once reads that began under them have ended: slice, base, extents, object, span. -/
  freeing : List (SliceNo × Nat × Nat × BitVec 40 × Nat) := []
deriving DecidableEq, Repr, Inhabited

end Sys2Proof.Machine
end

