-- ==== Sys2Proof/Machine/StLink.lean ====
section
/-! DEFINITION. The state of a link group (R378-R412). -/

namespace Sys2Proof.Machine

/-- The state of a group (R403); SHUT is the STATE of its island. -/
inductive LinkState where
  | down | training | hello | up
deriving DecidableEq, Repr, Inhabited

/-- The code of a group state in LG_LINK_STAT (R403). -/
def LinkState.code : LinkState → Nat | .down => 0 | .training => 1 | .hello => 2 | .up => 3

/-- A lane of a group. -/
structure Lane where
  txRdy : Bool := false
  /-- pma_rx_lock, pma_rx_valid, pma_rx_sd (R94, R97). -/
  rxLock : Bool := false
  rxValid : Bool := false
  rxSd : Bool := false
  /-- The last words sent and received on it (R94, R95). -/
  txWord : BitVec 128 := 0
  rxWord : BitVec 128 := 0
  /-- Consecutive markers accepted, up to 3: the lane is marker-locked at 3 (R381). -/
  marks : Nat := 0
  /-- Its last marker came more than 32 link cycles after the earliest of its PCOUNT. -/
  late : Bool := false
  fenced : Bool := false
deriving DecidableEq, Repr, Inhabited

/-- A DATA flit in the replay buffer (R391). -/
structure HeldFlit where
  seq : Nat
  vc : Nat
  payload : List Byte
deriving DecidableEq, Repr, Inhabited

/-- A packet being received on a channel: its link word and the bytes that follow it so far (R399, R402). -/
structure RxPacket where
  link : W64
  got : List Byte := []
deriving DecidableEq, Repr, Inhabited

/-- One virtual channel of a group, both directions. -/
structure LinkChan where
  /-- Bytes of the packet being sent that are not in a flit yet. -/
  out : List Byte := []
  /-- Its packet count has come to 2^48 - 1: no further packet is sent until the next key change (R401). -/
  spent : Bool := false
  /-- Packets sent since the last fresh hello or key change (R400); likewise received. -/
  txCount : Nat := 0
  rxCount : Nat := 0
  /-- Distinct DATA flits sent, and the latest CRCUM received, modulo 512 (R395). -/
  sent : Nat := 0
  credited : Nat := 0
  /-- Receive slots in use, each with the bytes of it not yet taken; slots freed, modulo 512 (R396). -/
  slots : List (List Byte) := []
  freed : Nat := 0
  rx : Option RxPacket := none
deriving DecidableEq, Repr, Inhabited

/-- A link group. -/
structure LinkGrp where
  st : LinkState := .down
  lanes : Vector Lane 12 := Vector.replicate 12 {}
  /-- RXGOOD of the last accepted peer marker, and for how many consecutive PCOUNTs it has been the same (R382). -/
  peerGood : BitVec 12 := 0
  peerSame : Nat := 0
  /-- The last PCOUNT seen, the cycle of its first marker, and the largest skew of a lane in the set. -/
  pcount : Option Nat := none
  pcountAt : Ctr := 0
  maxSkew : Nat := 0
  /-- The lane set agreed; empty while there is none. -/
  set : BitVec 12 := 0
  cause : BitVec 4 := 0
  /-- When training began, and from when its bound counts (R379, R406). -/
  perAt : Ctr := 0
  trainAt : Ctr := 0
  /-- This training attempt is to be reported failed at its bound: injected (R494). -/
  trainFails : Bool := false
  /-- Frames without a failed codeword in a row, up to 4 (R406). -/
  fecGood : Nat := 0
  /-- This end has not completed a hello since its reset release, or is restarting (R404). -/
  freshMine : Bool := true
  heard : Bool := false
  /-- A fresh hello has been carried out in this hello phase (R407). -/
  freshDone : Bool := false
  peerSeen : Option (BitVec 16) := none
  peerBlock : BitVec 12 := 0
  peerGroup : BitVec 4 := 0
  peerResets : BitVec 16 := 0
  freshSeen : Bool := false
  degradedSeen : Bool := false
  mismatchSeen : Bool := false
  /-- The group's copy of its key slot, and the key taken at the last hello (R401). -/
  held : Option (List Byte) := none
  key : Option (List Byte) := none
  /-- A key has been committed since (R401). -/
  keyNew : Bool := false
  /-- Transmit: next SEQ, last ACK applied, held flits oldest first, flits still to be replayed. -/
  txNext : Nat := 0
  acked : Nat := 127
  replay : List HeldFlit := []
  replaying : List HeldFlit := []
  /-- Replays started with the oldest held flit as it is; the cycle of its last ACK advance. -/
  replays : Nat := 0
  ackAt : Ctr := 0
  crvc : Nat := 0
  lastVc : Nat := 7
  /-- Flit slots since the last HELLO. -/
  slot : Nat := 0
  /-- Transmit framing: block bits not yet in a frame, scrambler state, frames of the period sent, periods sent. -/
  txBits : List Bool := []
  txScr : Nat := 0
  txFrames : Nat := 0
  txPeriods : Nat := 0
  /-- The last flit and the last frame sent (the symbols of each used lane). -/
  lastFlit : List Byte := []
  lastFrame : List (List (BitVec 10)) := []
  /-- The 128-bit words that last frame completed on each used lane, and the bits of the lane that fill no word yet (R94, R386). -/
  lastWords : List (List (BitVec 128)) := []
  txRest : List (List Bool) := []
  /-- Receive: expected SEQ, a NAK due with the next flit, a flit has failed since the last one accepted. -/
  rxNext : Nat := 0
  nakDue : Bool := false
  nakOut : Bool := false
  /-- Receive framing: NLANES of the running period (0: training), descrambler state, blocks received and not yet a
  whole flit, each with whether its codeword failed. -/
  rxN : Nat := 0
  /-- Bits received on each used lane that make no whole frame yet (R383). -/
  rxRest : List (List Bool) := []
  rxScr : Nat := 0
  rxBlocks : List (List Bool × Bool) := []
  chans : Vector LinkChan 8 := Vector.replicate 8 {}
  /-- Step 6 of start-up has begun for the group, and when; it has ended (R500). -/
  step6At : Option Ctr := none
  step6 : Bool := false
deriving DecidableEq, Repr, Inhabited

/-- Credits held for a channel (R395). -/
def LinkChan.credits (c : LinkChan) : Nat := 64 - (c.sent + 512 - c.credited % 512) % 512

/-- A group in reset: the inputs of its lanes stay (R94, R102). -/
def LinkGrp.afterReset (q : LinkGrp) : LinkGrp :=
  { lanes := q.lanes.map fun l =>
      { txRdy := l.txRdy, rxLock := l.rxLock, rxValid := l.rxValid, rxSd := l.rxSd, rxWord := l.rxWord } }

end Sys2Proof.Machine
end

