-- ==== Sys2Proof/Machine/StLog.lean ====
section
/-! DEFINITION. The state of LOG and of INJ (R482-R499). -/

namespace Sys2Proof.Machine

/-- What LOG keeps for one code (R490): the sticky bits, the count, and the first and last record as their eight words. -/
structure CodeStat where
  seen : Bool := false
  lastingSeen : Bool := false
  injectedSeen : Bool := false
  reports : Ctr := 0
  first : List W64 := []
  last : List W64 := []
deriving DecidableEq, Repr, Inhabited

/-- LOG's state; the Logbook itself is queue 0x2110 of XQ0 (R489). -/
structure LogS where
  /-- Reports on their way to LOG, in the order they reach it (R486). -/
  arriving : List Report := []
  /-- The staged record and the cycle in which it was staged (R488). -/
  staged : Option (Report × Ctr) := none
  codes : List (Nat × CodeStat) := []
  codeSel : BitVec 16 := 0
  /-- LOG_FATAL slots: no words while empty (R491). -/
  fatal : Vector (List W64) 6 := Vector.replicate 6 []
  cause : BitVec 16 := 0
  fatalSeen : Bool := false
  lastingSeen : Bool := false
  transientSeen : Bool := false
  lostSeen : Bool := false
  islands : BitVec 60 := 0
deriving DecidableEq, Repr, Inhabited

/-- INJ's state (R494-R496). -/
structure InjS where
  target : W64 := 0
  /-- The island whose arming INJ_STAT shows. -/
  armedAt : Option IslandNo := none
  refusedSeen : Bool := false
  cancelSeen : Bool := false
deriving DecidableEq, Repr, Inhabited

/-- The level of attn (R104). -/
def LogS.attn (l : LogS) : Bool := l.cause != 0

end Sys2Proof.Machine
end

