-- ==== Sys2Proof/Machine/Frc.lean ====
section
/-! DEFINITION. The fixed-rate code: table images (R208, R209), canonical codes (R186), the encoder with its two
budgets (R188-R195), the plate header (R191, R192), and the decoder with its checks (R193, R197, R198, R207). -/

namespace Sys2Proof.Machine

/-- The level count of selector s (R185). -/
def levelCount (s : Nat) : Nat := [32, 24, 16, 12, 8, 6, 4, 2].getD (s / 2) 2

/-- A codebook: its levels as F32, in order, and the code length of each (R185). -/
structure Codebook where
  levels : List F32
  lens : List Nat
deriving DecidableEq, Repr, Inhabited

/-- The canonical codeword of each level: length and code (R186). -/
def canonical (lens : List Nat) : List (Nat × Nat) :=
  let r := (List.range 12).foldl (fun (a : List (Nat × Nat × Nat) × Nat) l0 =>
    let l := l0 + 1
    let b := (lens.zipIdx.filter fun e => e.1 == l).foldl
      (fun (b : List (Nat × Nat × Nat) × Nat) e => ((e.2, l, b.2) :: b.1, b.2 + 1)) a
    (b.1, 2 * b.2)) ([], 0)
  lens.zipIdx.map fun e => match r.1.find? fun t => t.1 == e.2 with
    | some t => t.2
    | none => (0, 0)

/-- A codebook's 128 bytes of the table image (R208). -/
def codebookBytes (s : Nat) (img : List Byte) : List Byte := (img.drop (128 * s)).take 128

/-- The codebook that 128 image bytes spell. -/
def codebookOf (s : Nat) (b : List Byte) : Codebook :=
  let n := levelCount s
  { levels := (List.range n).map fun j => BitVec.ofNat 32 (leNat ((b.drop (2 * j)).take 2) * 65536)
    lens := (List.range n).map fun j => ((b.drop (64 + j / 2)).headD 0).toNat / (if j % 2 = 0 then 1 else 16) % 16 }

/-- Whether code lengths are complete: the sum of 2^-len is 1 (R185). -/
def lensComplete (lens : List Nat) : Bool :=
  lens.all (fun l => 1 ≤ l && l ≤ 12) && (lens.map fun l => 2 ^ (12 - l)).sum == 4096

/-- Levels finite, strictly ascending, at most 1.9921875 in magnitude, none -0 (R209). -/
def levelsValid (l : List F32) : Bool :=
  l.all (fun v => v.toNat % 2 ^ 31 ≤ 0x3FFF0000 && v != 0x80000000) &&
  (l.zip (l.drop 1)).all fun p => dyCmp (valF32 p.1).pair (valF32 p.2).pair < 0

/-- Whether a codebook's image bytes are valid (R209). -/
def codebookValid (s : Nat) (b : List Byte) : Bool :=
  let n := levelCount s
  let cb := codebookOf s b
  leNat (b.drop 124) == (crc32c (b.take 124)).toNat &&
  ((b.take 64).drop (2 * n)).all (· == 0) &&
  (((b.take 80).drop 64).drop ((n + 1) / 2)).all (· == 0) &&
  ((b.take 124).drop 80).all (· == 0) &&
  levelsValid cb.levels && (s % 2 == 0 || cb.levels.contains 0) && lensComplete cb.lens

/-- Whether a table image is valid (R209). -/
def imageValid (img : List Byte) : Bool :=
  img.length == 2048 && (List.range 16).all fun s => codebookValid s (codebookBytes s img)

/-- Whether every CBCRC of an image holds (R208, R219). -/
def crcsHold (img : List Byte) : Bool :=
  img.length == 2048 && (List.range 16).all fun s =>
    let b := codebookBytes s img
    leNat (b.drop 124) == (crc32c (b.take 124)).toNat

/-- The table of an image: its sixteen codebooks. -/
def tableOf (img : List Byte) : List Codebook :=
  (List.range 16).map fun s => codebookOf s (codebookBytes s img)

/-- The image of one codebook (R208). -/
def codebookImage (cb : Codebook) : List Byte :=
  let lv := fit 64 (cb.levels.flatMap fun v => leBytes 2 (v.toNat / 65536))
  let ln := fit 16 ((chunks 2 (cb.lens.length / 2 + 1) cb.lens).map fun p =>
    BitVec.ofNat 8 (p.headD 0 + 16 * p.getD 1 0))
  let b := fit 124 (lv ++ ln)
  b ++ leBytes 4 (crc32c b).toNat

/-! Encoding. -/

/-- The normalised values of a group (R188): x times 2^(127 - e). -/
def normalise (e : Nat) (x : List F32) : List F32 := x.map fun v => toF32 ((valF32 v).scale (127 - (e : Int)))

/-- Clears the sign of an F32 value. -/
def f32Abs (v : F32) : F32 := BitVec.ofNat 32 (v.toNat % 2 ^ 31)

/-- `quant` of R189: the nearest level, ties to the lower index; distances in F32. -/
def quant (cb : Codebook) (y : F32) : Nat :=
  ((cb.levels.zipIdx.foldl (fun (a : Option (Nat × Nat)) e =>
    let d := (f32Abs (f32Sub y e.1)).toNat
    match a with
    | none => some (d, e.2)
    | some b => if d < b.1 then some (d, e.2) else a) none).map (·.2)).getD 0

/-- `err` of R189: the sum of squared errors in F32, in element order. -/
def quantErr (cb : Codebook) (y : List F32) : F32 :=
  y.foldl (fun a v =>
    let d := f32Sub v (cb.levels.getD (quant cb v) 0)
    f32Add a (f32Mul d d)) 0

/-- `initial` of R189: least error, ties to the larger selector. -/
def initialSel (t : List Codebook) (y : List F32) : Nat :=
  ((t.zipIdx.foldl (fun (a : Option (Nat × Nat)) e =>
    let d := (quantErr e.1 y).toNat
    match a with
    | none => some (d, e.2)
    | some b => if d ≤ b.1 then some (d, e.2) else a) none).map (·.2)).getD 0

/-- A group being encoded: its scale code, values and selector. -/
structure FrcGroup where
  e : Nat
  y : List F32
  sel : Nat
deriving DecidableEq, Repr, Inhabited

/-- The codebook of selector s. -/
def cbOf (t : List Codebook) (s : Nat) : Codebook := t.getD s { levels := [], lens := [] }

/-- The index of the level 0 in a codebook. -/
def zeroLevel (cb : Codebook) : Nat := cb.levels.findIdx (· == 0)

/-- The level indices a group is written with: those of the level 0 for a zero group (R188). -/
def groupIdx (t : List Codebook) (g : FrcGroup) : List Nat :=
  let cb := cbOf t g.sel
  if g.e = 0 then g.y.map fun _ => zeroLevel cb else g.y.map (quant cb)

/-- The code lengths of a group under its selector. -/
def groupLens (t : List Codebook) (g : FrcGroup) : List Nat :=
  let cb := cbOf t g.sel
  (groupIdx t g).map fun j => cb.lens.getD j 0

/-- `octet_ok` of R194. -/
def octetOk (t : List Codebook) (g : FrcGroup) : Bool :=
  (chunks 8 4 (groupLens t g)).all fun o => o.sum ≤ 48

/-- `bits` of R194. -/
def groupBits (t : List Codebook) (g : FrcGroup) : Nat := 12 + (groupLens t g).sum

/-- Moves a group up its shape until its octets fit: the group and the moves made. -/
def moveUntilOk (t : List Codebook) : Nat → FrcGroup → Nat → FrcGroup × Nat
  | 0, g, n => (g, n)
  | k + 1, g, n => if octetOk t g || 12 ≤ g.sel then (g, n) else moveUntilOk t k { g with sel := g.sel + 2 } (n + 1)

/-- The decode pass of R194. -/
def decodePass (t : List Codebook) (gs : List FrcGroup) : List FrcGroup × Nat :=
  let r := gs.map fun g => if g.e = 0 then (g, 0) else moveUntilOk t 8 g 0
  (r.map (·.1), (r.map (·.2)).sum)

/-- The bits a sub-stream's groups occupy. -/
def totalBits (t : List Codebook) (gs : List FrcGroup) : Nat := (gs.map (groupBits t)).sum

/-- One sweep of the bit pass (R194): smallest scale first, each group at most once. -/
def bitSweep (t : List Codebook) (cap : Nat) (order : List Nat) (gs : List FrcGroup) : List FrcGroup × Nat :=
  order.foldl (fun a i =>
    let g := a.1.getD i default
    if totalBits t a.1 ≤ cap || 12 ≤ g.sel then a
    else (a.1.set i (moveUntilOk t 8 { g with sel := g.sel + 2 } 0).1, a.2 + 1)) (gs, 0)

/-- The bit pass: sweeps until the budget is met; none when no group can move. -/
def bitPass (t : List Codebook) (cap : Nat) (order : List Nat) : Nat → List FrcGroup → Nat → Option (List FrcGroup) × Nat
  | 0, _, n => (none, n)
  | k + 1, gs, n =>
    if totalBits t gs ≤ cap then (some gs, n)
    else
      let r := bitSweep t cap order gs
      if r.2 = 0 then (none, n) else bitPass t cap order k r.1 (n + r.2)

/-- The floor code of a normalised value (R190). -/
def floorCode (y : F32) : Nat :=
  let p := (valF32 y).pair
  if dyCmp p (-1, 0) ≤ 0 then 0 else if p.1 ≤ 0 then 1 else if dyCmp p (1, 0) ≤ 0 then 2 else 3

/-- A sub-stream in floor mode (R190). -/
def floorBits (gs : List FrcGroup) : List Bool :=
  gs.flatMap fun g => natMsb 8 g.e ++ g.y.flatMap fun y => natMsb 2 (if g.e = 0 then 0 else floorCode y)

/-- The coded bits of a sub-stream's groups (R187). -/
def codedBits (t : List Codebook) (gs : List FrcGroup) : List Bool :=
  gs.flatMap fun g =>
    let cb := cbOf t g.sel
    let cw := canonical cb.lens
    natMsb 4 g.sel ++ natMsb 8 g.e ++ (groupIdx t g).flatMap fun j => let c := cw.getD j (0, 0); natMsb c.1 c.2

/-- An encoded sub-stream: bits to the cap, used length, floor mode, moves made. -/
structure SubStream where
  bits : List Bool
  used : Nat
  floor : Bool
  moves : Nat
deriving DecidableEq, Repr, Inhabited

/-- `encode_substream` of R194 over 1,024 F32 values. -/
def encodeSub (t : List Codebook) (rate : Nat) (x : List F32) : SubStream :=
  let cap := frcCap rate
  let gs := (chunks 32 32 x).map fun seg =>
    let e := (scaleOf seg).toNat
    let y := if e = 0 then seg.map fun _ => 0 else normalise e seg
    ({ e := e, y := y, sel := if e = 0 then 15 else initialSel t y } : FrcGroup)
  let d := decodePass t gs
  let order := (List.range 256).flatMap fun e => if e = 0 then [] else
    (d.1.zipIdx.filter fun p => p.1.e == e).map (·.2)
  let r := bitPass t cap order 8 d.1 d.2
  let out := match r.1 with
    | some gs' => (codedBits t gs', false)
    | none => (floorBits gs, true)
  { bits := out.1 ++ List.replicate (cap - out.1.length) false, used := out.1.length, floor := out.2, moves := r.2 }

/-! The header. -/

/-- The fields of an FRC header (R191). -/
structure FrcHdr where
  slot : Nat
  gen : Nat
  rate : Nat
  fmt : Nat
  floor : BitVec 16
  nonfinite : Bool
  poisoned : Bool
  masterOid : BitVec 40
  masterPlate : BitVec 24
  bodyCrc : BitVec 32
  used : List Nat
deriving DecidableEq, Repr, Inhabited

/-- The 64 header bytes before HCRC is set. -/
def FrcHdr.words (h : FrcHdr) : List W64 :=
  [packW [put 0xF1 56, put (h.slot % 64) 50, put (h.gen % 256) 40, put (h.rate % 16) 36, put (h.fmt % 16) 32,
      put h.floor.toNat 16, flag h.nonfinite 2, flag h.poisoned 1],
    packW [put h.masterOid.toNat 24, put h.masterPlate.toNat 0],
    put h.bodyCrc.toNat 32] ++
  (chunks 4 4 h.used).map fun u => packW (u.zipIdx.map fun e => put (e.1 % 65536) (16 * e.2))

/-- The header's 64 bytes, HCRC included (R192). -/
def FrcHdr.bytes (h : FrcHdr) : List Byte :=
  let b := fit 64 (wordsBytes h.words)
  splice b 56 (leBytes 2 (crc16 b).toNat)

/-- The fields that 64 header bytes spell. -/
def FrcHdr.ofBytes (b : List Byte) : FrcHdr :=
  let w (i : Nat) : W64 := leWord (b.drop (8 * i))
  { slot := fld (w 0) 55 50, gen := fld (w 0) 47 40, rate := fld (w 0) 39 36, fmt := fld (w 0) 35 32,
    floor := bits 16 (w 0) 16, nonfinite := bitAt (w 0) 2, poisoned := bitAt (w 0) 1,
    masterOid := bits 40 (w 1) 24, masterPlate := bits 24 (w 1) 0, bodyCrc := bits 32 (w 2) 32,
    used := (List.range 16).map fun i => fld (w (3 + i / 4)) (16 * (i % 4) + 15) (16 * (i % 4)) }

/-- The header checks of R207 for an object of rate `rate`. -/
def frcHdrOk (rate : Nat) (b : List Byte) : Bool :=
  let h := FrcHdr.ofBytes b
  let w (i : Nat) : W64 := leWord (b.drop (8 * i))
  fld (w 0) 63 56 == 0xF1 && leNat ((b.drop 56).take 2) == (crc16 (splice b 56 [0, 0])).toNat &&
  fld (w 0) 49 48 == 0 && fld (w 0) 15 3 == 0 && fld (w 0) 0 0 == 0 && fld (w 2) 31 0 == 0 &&
  fld (w 7) 63 16 == 0 && h.fmt ≤ 2 && h.rate == rate &&
  h.used.zipIdx.all fun u => if h.floor.getLsbD u.2 then u.1 == 2304 else u.1 ≤ frcCap rate

/-- An encoded FRC plate: header, body, and what R203-R207 count. -/
structure FrcPlate where
  header : List Byte
  body : List Byte
  floorSubs : Nat
  moves : Nat
  replaced : Nat
deriving DecidableEq, Repr, Inhabited

/-- Encodes the F32 values of a plate (R194, R200, R204, R205); padding is already +0. -/
def frcEncodePlate (t : List Codebook) (slot gen rate fmt : Nat) (mOid : BitVec 40) (mPlate : BitVec 24)
    (poisoned : Bool) (x : List F32) : FrcPlate :=
  let replaced := (x.filter nonFinite).length
  let subs := (chunks 1024 16 (x.map replaceNonFinite)).map (encodeSub t rate)
  let body := subs.flatMap fun s => fit (frcCap rate / 8) (bytesOfMsb s.bits)
  let h : FrcHdr := {
    slot := slot, gen := gen, rate := rate, fmt := fmt,
    floor := BitVec.ofNat 16 (lsbNat (subs.map (·.floor))), nonfinite := replaced != 0, poisoned := poisoned,
    masterOid := mOid, masterPlate := mPlate, bodyCrc := crc32c body, used := subs.map (·.used) }
  { header := h.bytes, body := body, floorSubs := (subs.filter (·.floor)).length,
    moves := (subs.map (·.moves)).sum, replaced := replaced }

/-! Decoding. -/

/-- `group_cycles` of R193: symbol cycles left for lengths, after the header cycle. -/
def symCycles : Nat → List Nat → Nat
  | 0, _ => 0
  | _ + 1, [] => 0
  | k + 1, l =>
    let n := ((List.range 8).foldl (fun (a : Nat × Nat × Bool) i =>
      match l[i]? with
      | some b => if a.2.2 && a.2.1 + b ≤ 48 then (a.1 + 1, a.2.1 + b, true) else (a.1, a.2.1, false)
      | none => (a.1, a.2.1, false)) (0, 0, true)).1
    1 + symCycles k (l.drop (max 1 n))

/-- The cycles an Eyepiece lane takes for a coded group (R193). -/
def groupCycles (lens : List Nat) : Nat := 1 + symCycles 32 lens

/-- The level index whose codeword begins the bits, with its length (R186). -/
def decodeSym (cw : List (Nat × Nat)) (l : List Bool) : Option (Nat × Nat) :=
  (cw.zipIdx.find? fun e => e.1.1 ≤ l.length && 0 < e.1.1 && msbNat (l.take e.1.1) == e.1.2).map
    fun e => (e.2, e.1.1)

/-- The elements of a decoded group (R198): each level times 2^(e - 127), a zero group all +0. -/
def dequant (e : Nat) (levels : List F32) : List F32 :=
  if e = 0 then levels.map fun _ => 0 else levels.map fun v => toF32 ((valF32 v).scale ((e : Int) - 127))

/-- What a sub-stream decode has so far: bits left, bits read, cycles, elements (newest group first). -/
structure SubDec where
  rest : List Bool
  read : Nat := 0
  cycles : Nat := 0
  groups : List (List F32) := []
deriving DecidableEq, Repr, Inhabited

/-- Decodes one coded group; none where the bits run out or the scale code is 0xFF (R207). -/
def decodeGroup (t : List Codebook) (d : SubDec) : Option SubDec :=
  if d.rest.length < 12 then none else
  let s := msbNat (d.rest.take 4)
  let e := msbNat ((d.rest.drop 4).take 8)
  let cb := cbOf t s
  let cw := canonical cb.lens
  if e = 255 then none else
  let r := (List.range 32).foldl (fun (a : Option (List Bool × List (Nat × Nat))) _ => a.bind fun a =>
    (decodeSym cw a.1).map fun j => (a.1.drop j.2, j :: a.2)) (some (d.rest.drop 12, []))
  r.map fun a =>
    let js := a.2.reverse
    { rest := a.1, read := d.read + 12 + (js.map (·.2)).sum, cycles := d.cycles + groupCycles (js.map (·.2)),
      groups := dequant e (js.map fun j => cb.levels.getD j.1 0) :: d.groups }

/-- The levels of floor mode (R190): -1.5, -0.5, +0.5, +1.5. -/
def floorLevels : List F32 := [0xBFC00000, 0xBF000000, 0x3F000000, 0x3FC00000]

/-- Decodes one floor-mode group (R190). -/
def decodeFloorGroup (d : SubDec) : Option SubDec :=
  if d.rest.length < 72 then none else
  let e := msbNat (d.rest.take 8)
  if e = 255 then none else
  let cs := (chunks 2 32 ((d.rest.drop 8).take 64)).map fun c => floorLevels.getD (msbNat c) 0
  some { rest := d.rest.drop 72, read := d.read + 72, cycles := d.cycles + 5, groups := dequant e cs :: d.groups }

/-- Decodes a sub-stream: its 1,024 elements and counted cycles, or none on a sub-stream error (R207). -/
def decodeSub (t : List Codebook) (floor : Bool) (used : Nat) (l : List Bool) : Option (List F32 × Nat) :=
  let step := if floor then decodeFloorGroup else decodeGroup t
  let r := (List.range 32).foldl (fun (a : Option SubDec) _ => a.bind fun d =>
    if d.cycles ≥ 160 then none else step d) (some { rest := l })
  r.bind fun d => if d.read = used && d.cycles ≤ 160 then some (d.groups.reverse.flatten, d.cycles) else none

/-- The failures of R207, in the order of its table. -/
inductive FrcFail where
  | header | sub | body
deriving DecidableEq, Repr, Inhabited

/-- The bits of sub-stream i of a body (R183). -/
def subBits (rate : Nat) (body : List Byte) (i : Nat) : List Bool :=
  msbBits ((body.drop (frcCap rate / 8 * i)).take (frcCap rate / 8))

/-- Decodes a plate's body under a checked header: the F32 values and counted cycles, or the failure. -/
def frcDecodeBody (t : List Codebook) (h : FrcHdr) (body : List Byte) : Except FrcFail (List F32 × Nat) :=
  let subs := h.used.zipIdx.map fun u => decodeSub t (h.floor.getLsbD u.2) u.1 (subBits h.rate body u.2)
  match subs.mapM id with
  | none => .error .sub
  | some l => if crc32c body = h.bodyCrc then .ok ((l.map (·.1)).flatten, (l.map (·.2)).sum) else .error .body

end Sys2Proof.Machine
end

