-- ==== Sys2Proof/Machine/Spectro.lean ====
section
/-! DEFINITION. Building a table: histograms (R222), the fit of the sixteen codebooks (R224, R535) and the image. -/

namespace Sys2Proof.Machine

/-- `bin_of` of R222, by exact arithmetic: 32 log2 |y| is the logarithm of the 32nd power of |y|. -/
def binOf (y : F32) : Nat :=
  let p := (valF32 y).pair
  let lg : Int := (Nat.log2 (p.1.natAbs ^ 32) : Int) + 32 * p.2
  let m := (max 0 (min 1023 (lg + 992))).toNat
  if p.1 > 0 then 1024 + m else 1023 - m

/-- The largest r of 25 bits with r ^ 64 at most `n`. -/
def root64 (n : Nat) : Nat :=
  (List.range 26).foldl (fun r k => if (r + 2 ^ (25 - k)) ^ 64 ≤ n then r + 2 ^ (25 - k) else r) 0

/-- The 24-bit significands of 2^(t/64) for odd t, rounded to nearest (no ties: they are irrational). -/
def rootTable : Array Nat :=
  Array.ofFn (n := 32) fun i => (root64 (2 ^ (2 * i.val + 1 + 64 * 24)) + 1) / 2

/-- `rep` of R222, rounded once to F32 (R535). -/
def binRep (b : Nat) : F32 :=
  let m := if 1024 ≤ b then b - 1024 else 1023 - b
  let sig : Int := rootTable.getD (m % 32) 0
  toF32 (.fin (if 1024 ≤ b then sig else -sig) ((m / 32 : Nat) - 31 - 23))

/-- A histogram: 2,048 bins and the zero count, 48 bits each, saturating (R222). -/
structure Hist where
  bins : List Nat
  zeros : Nat
deriving DecidableEq, Repr, Inhabited

/-- An empty histogram. -/
def Hist.empty : Hist := { bins := List.replicate 2048 0, zeros := 0 }

/-- Counts the elements of one plate (R222): every group whose scale code is not 0, padding left out. Answers the
histogram and how many elements were counted. -/
def Hist.addPlate (h : Hist) (x : List F32) (padding : List Bool) : Hist × Nat :=
  let xs := (chunks 32 512 (x.zip padding))
  let ys := xs.flatMap fun seg =>
    let v := seg.map fun p => if p.2 then (0 : F32) else replaceNonFinite p.1
    let e := (scaleOf v).toNat
    if e = 0 then [] else ((normalise e v).zip (seg.map (·.2))).filterMap fun p => if p.2 then none else some p.1
  let isZero := fun (y : F32) => y.toNat % 2 ^ 31 == 0
  let z := (ys.filter isZero).length
  let arr := ys.foldl (fun (a : Array Nat) y =>
    if isZero y then a else a.modify (binOf y) (· + 1)) (Array.replicate 2048 0)
  ({ bins := List.zipWith (fun a b => sat 48 (a + b)) h.bins arr.toList, zeros := sat 48 (h.zeros + z) }, ys.length)

/-- Two histograms added bin by bin. -/
def Hist.add (a b : Hist) : Hist :=
  { bins := List.zipWith (fun x y => sat 48 (x + y)) a.bins b.bins, zeros := sat 48 (a.zeros + b.zeros) }

/-! The fit. Values are held in units of 2^-149, so that every sum and comparison is exact. -/

/-- A finite F32 value in units of 2^-149. -/
def unitsF32 (v : F32) : Int :=
  let p := (valF32 v).pair
  if p.1 = 0 then 0 else ishl p.1 (p.2 + 149).toNat

/-- The quotient of units by a count, rounded once to F32, to nearest-even. -/
def ratF32 (n : Int) (d : Nat) : F32 :=
  if n = 0 || d = 0 then 0 else
  let k := 28 + Nat.log2 d - Nat.log2 n.natAbs
  let q := n.natAbs * 2 ^ k / d
  let s := if n.natAbs * 2 ^ k % d = 0 then 0 else 1
  let m : Int := (2 * q + s : Nat)
  toF32 (.fin (if n < 0 then -m else m) (-150 - (k : Int)))

/-- The index of the nearest value, ties to the lower index. -/
def nearest (v : List Int) (x : Int) : Nat :=
  ((v.zipIdx.foldl (fun (a : Option (Nat × Nat)) e =>
    let d := (x - e.1).natAbs
    match a with
    | none => some (d, e.2)
    | some b => if d < b.1 then some (d, e.2) else a) none).map (·.2)).getD 0

/-- `default` of R224. -/
def defaultLevels (l : Nat) (shapeB : Bool) : List F32 :=
  let v := (List.range l).map fun (j : Nat) => ratF32 ((6 * (j : Int) - 3 * ((l : Int) - 1)) * (2 ^ 149 : Nat)) (2 * (l - 1))
  if shapeB then v.set (nearest (v.map unitsF32) 0) 0 else v

/-- `init` of R224; counts and thresholds exact (R535). -/
def initLevels (pts : List (F32 × Nat)) (l : Nat) (shapeB : Bool) : List F32 :=
  let n := if shapeB then l - 1 else l
  let total := (pts.map (·.2)).sum
  let run := (pts.foldl (fun (a : List (F32 × Nat) × Nat) p => ((p.1, a.2 + p.2) :: a.1, a.2 + p.2)) ([], 0)).1.reverse
  let u := (List.range n).map fun j =>
    ((run.find? fun p => (2 * j + 1) * total ≤ p.2 * 2 * n).map (·.1)).getD 0
  if shapeB then
    (u.filter fun x => unitsF32 x ≤ 0) ++ [0] ++ (u.filter fun x => unitsF32 x > 0)
  else u

/-- The iterations of R224: levels after them, and how many were entered. -/
def fitIter (pts : List (F32 × Nat)) (shapeB : Bool) : Nat → Nat → List F32 → List Nat → List F32 × Nat
  | 0, it, v, _ => (v, it)
  | k + 1, it, v, prev =>
    let vu := v.map unitsF32
    let cells := pts.map fun p => nearest vu (unitsF32 p.1)
    if it > 0 && cells == prev then (v, it + 1) else
    let v' := v.zipIdx.map fun e =>
      let mine := (pts.zip cells).filter fun p => p.2 == e.2
      if mine.isEmpty || (shapeB && e.1.toNat % 2 ^ 31 == 0) then e.1
      else ratF32 (mine.map fun p => unitsF32 p.1.1 * (p.1.2 : Int)).sum (mine.map fun p => p.1.2).sum
    fitIter pts shapeB k (it + 1) v' cells

/-- A bfloat16 value as a signed ordinal: neighbours differ by one, -0 does not occur. -/
def ordH16 (v : F32) : Int :=
  let b := toH16 (valF32 v)
  if b < 0x8000 then b else -((b - 0x8000 : Nat) : Int)

/-- The F32 of an ordinal. -/
def ofOrd (o : Int) : F32 := BitVec.ofNat 32 ((if o < 0 then 0x8000 + o.natAbs else o.natAbs) * 65536)

/-- Inserts into an ascending list. -/
def insertAsc (x : Int) : List Int → List Int
  | [] => [x]
  | y :: r => if x ≤ y then x :: y :: r else y :: insertAsc x r

/-- An ascending list. -/
def sortAsc (l : List Int) : List Int := l.foldr insertAsc []

/-- `order_bf16` of R224. -/
def orderBf16 (v : List F32) (shapeB : Bool) : List F32 :=
  let o := sortAsc (v.map fun x => max (-0x3FFF) (min 0x3FFF (ordH16 x)))
  let o := if shapeB && !o.contains 0 then sortAsc (o.set (nearest (o.map fun x => unitsF32 (ofOrd x)) 0) 0) else o
  let up := (o.foldl (fun (a : List Int) x => match a with
    | [] => [x]
    | y :: _ => (if x ≤ y then y + 1 else x) :: a) [])
  -- `up` is descending: the clamp of the last level and the downward pass
  let down := up.foldl (fun (a : List Int) x => match a with
    | [] => [min x 0x3FFF]
    | y :: _ => (if y ≤ x then y - 1 else x) :: a) []
  down.map ofOrd

/-- An entry of package-merge: a weight and how often each level occurs in it. -/
structure Pkg where
  w : Nat
  set : List Nat
deriving DecidableEq, Repr, Inhabited

/-- Inserts an entry after those of equal weight. -/
def insertPkg (p : Pkg) : List Pkg → List Pkg
  | [] => [p]
  | q :: r => if p.w < q.w then p :: q :: r else q :: insertPkg p r

/-- Packages of consecutive pairs; an odd last entry is dropped. -/
def pairPkgs : List Pkg → List Pkg
  | a :: b :: r => { w := a.w + b.w, set := List.zipWith (· + ·) a.set b.set } :: pairPkgs r
  | _ => []

/-- Merges two ascending lists, entries of the first before those of equal weight of the second. -/
def mergePkgs (leaves pk : List Pkg) : List Pkg := pk.foldl (fun a p => insertPkg p a) leaves

/-- `package_merge` of R224: the code lengths. -/
def packageMerge (w : List Nat) (lmax : Nat) : List Nat :=
  let n := w.length
  let leaves := (w.zipIdx.map fun e =>
    ({ w := e.1, set := (List.range n).map fun j => if j = e.2 then 1 else 0 } : Pkg)).foldl (fun a p => insertPkg p a) []
  let l := (List.range (lmax - 1)).foldl (fun l _ => mergePkgs leaves (pairPkgs l)) leaves
  (l.take (2 * n - 2)).foldl (fun a p => List.zipWith (· + ·) a p.set) (List.replicate n 0)

/-- `fit` of R224 for selector s: the codebook and the iterations entered. -/
def fitCodebook (h : Hist) (s : Nat) : Codebook × Nat :=
  let l := levelCount s
  let shapeB := s % 2 == 1
  let bins := h.bins.zipIdx.filterMap fun e => if e.1 > 0 then some (e.2, binRep e.2, e.1) else none
  let pts := ((bins.filter fun b => b.1 < 1024).map fun b => (b.2.1, b.2.2)) ++
    (if h.zeros > 0 then [((0 : F32), h.zeros)] else []) ++
    ((bins.filter fun b => 1024 ≤ b.1).map fun b => (b.2.1, b.2.2))
  let r := if pts.isEmpty then (defaultLevels l shapeB, 0)
    else fitIter pts shapeB 24 0 (initLevels pts l shapeB) []
  let v := orderBf16 r.1 shapeB
  let vu := v.map unitsF32
  let near := pts.map fun p => (nearest vu (unitsF32 p.1), p.2)
  let c := (List.range l).map fun j => ((near.filter fun p => p.1 == j).map (·.2)).sum
  ({ levels := v, lens := packageMerge (c.map (· + 1)) 12 }, r.2)

/-- The image SPG builds from a histogram, and the largest iteration count (R224, SPG_STAT.ITER). -/
def buildImage (h : Hist) : List Byte × Nat :=
  let r := (List.range 16).map (fitCodebook h)
  (r.flatMap fun c => codebookImage c.1, r.foldl (fun a c => max a c.2) 1)

end Sys2Proof.Machine
end

