-- ==== Sys2Proof/Machine/Zfc.lean ====
section
/-! DEFINITION. The zero-field code: the plate form (R243-R246), its checks (R269), the span index (R249-R251),
bound checks (R265), synthetic plates (R271); and the group code of REDUCE (R444). -/

namespace Sys2Proof.Machine

/-- Field bytes of a format (R243). -/
def fieldBytes : Fmt → Nat | .p4 => 32 | .p8 => 64 | .h16 => 128 | .f32 => 256

/-- The fields of a ZFC header (R246). -/
structure ZfcHdr where
  fmt : Nat
  raw : Bool
  poisoned : Bool
  trimmed : Bool
  bound : Nat
  bfailRow : Bool
  bfailCol : Bool
  nfields : Nat
  lines : Nat
  plate : BitVec 24
  oid : BitVec 40
  bodyCrc : BitVec 32
deriving DecidableEq, Repr, Inhabited

/-- The 32 header bytes, HCRC included (R246). -/
def ZfcHdr.bytes (h : ZfcHdr) : List Byte :=
  let b := fit 32 (wordsBytes [
    packW [put 0xE2 56, put (h.fmt % 16) 52, flag h.raw 51, flag h.poisoned 50, flag h.trimmed 49,
      put (h.bound % 8) 45, flag h.bfailRow 44, flag h.bfailCol 43, put (h.nfields % 512) 32,
      put (h.lines % 256) 24, put h.plate.toNat 0],
    put h.oid.toNat 24, put h.bodyCrc.toNat 32])
  splice b 24 (leBytes 2 (crc16 b).toNat)

/-- The fields that 32 header bytes spell. -/
def ZfcHdr.ofBytes (b : List Byte) : ZfcHdr :=
  let w (i : Nat) : W64 := leWord (b.drop (8 * i))
  { fmt := fld (w 0) 55 52, raw := bitAt (w 0) 51, poisoned := bitAt (w 0) 50, trimmed := bitAt (w 0) 49,
    bound := fld (w 0) 47 45, bfailRow := bitAt (w 0) 44, bfailCol := bitAt (w 0) 43,
    nfields := fld (w 0) 40 32, lines := fld (w 0) 31 24, plate := bits 24 (w 0) 0,
    oid := bits 40 (w 1) 24, bodyCrc := bits 32 (w 2) 32 }

/-- The size in bytes of a stored ZFC plate (R243, R244). -/
def zfcSize (f : Fmt) (raw : Bool) (nf : Nat) : Nat := if raw then 32 + denseSize f else 64 + nf * fieldBytes f

/-- Whether a plate with nf non-zero fields is raw-flagged (R244). -/
def zfcRaw (f : Fmt) (nf : Nat) : Bool := denseSize f < 64 + nf * fieldBytes f

/-- The lines a ZFC plate takes; 0 for an absent plate (R243-R245). -/
def zfcLines (f : Fmt) (nf : Nat) (poisoned : Bool) : Nat :=
  if nf = 0 && !poisoned then 0 else cdiv (zfcSize f (zfcRaw f nf) nf) 512

/-- The bytes of a field map: bit f at byte f div 8, bit f mod 8 (R243). -/
def mapBytes (m : BitVec 256) : List Byte := leBytes 32 m.toNat

/-- What a plate is stored as besides its content: bound and flags (R246, R255). -/
structure ZfcFlags where
  poisoned : Bool := false
  trimmed : Bool := false
  bound : Nat := 0
  bfailRow : Bool := false
  bfailCol : Bool := false
deriving DecidableEq, Repr, Inhabited

/-- A plate packed as ZFC in whole lines, header, map or dense bytes, and zeros to the end (R243, R244). -/
def zfcPack (oid : BitVec 40) (k : BitVec 24) (f : Fmt) (codes : List Nat) (m : BitVec 256) (fl : ZfcFlags) : List Byte :=
  let nf := popcount m
  let raw := zfcRaw f nf
  let a := codes.toArray
  let rest :=
    if raw then packElems f codes
    else mapBytes m ++ (List.range 256).flatMap fun i =>
      if m.getLsbD i then packElems f (fieldCodes a i) else []
  let lines := cdiv (32 + rest.length) 512
  let h : ZfcHdr := {
    fmt := fmtCode f, raw := raw, poisoned := fl.poisoned, trimmed := fl.trimmed, bound := fl.bound,
    bfailRow := fl.bfailRow, bfailCol := fl.bfailCol, nfields := nf, lines := lines, plate := k, oid := oid,
    bodyCrc := crc32c rest }
  fit (512 * lines) (h.bytes ++ rest)

/-- The failures of R269. -/
inductive ZfcFail where
  | header | body
deriving DecidableEq, Repr, Inhabited

/-- The checks of R269 on a stored plate of `lines` lines. -/
def zfcCheck (oid : BitVec 40) (k : BitVec 24) (f : Fmt) (lines : Nat) (b : List Byte) : Option ZfcFail :=
  let w (i : Nat) : W64 := leWord (b.drop (8 * i))
  let h := ZfcHdr.ofBytes b
  let m := BitVec.ofNat 256 (leNat ((b.drop 32).take 32))
  let size := zfcSize f h.raw h.nfields
  let hdrOk :=
    fld (w 0) 63 56 == 0xE2 && leNat ((b.drop 24).take 2) == (crc16 (splice (b.take 32) 24 [0, 0])).toNat &&
    fld (w 0) 48 48 == 0 && fld (w 0) 42 41 == 0 && fld (w 1) 23 0 == 0 && fld (w 2) 31 0 == 0 &&
    fld (w 3) 63 16 == 0 && h.fmt == fmtCode f && h.bound ≤ 4 &&
    h.oid == oid && h.plate == k && h.lines == lines &&
    (if h.raw then h.nfields ≤ 256 && h.lines == cdiv (32 + denseSize f) 512
     else h.nfields == popcount m && h.nfields ≤ (if f = .p4 then 254 else 255) && h.lines == cdiv size 512)
  if !hdrOk then some .header
  else if crc32c ((b.take size).drop 32) = h.bodyCrc && (b.drop size).all (· == 0) then none
  else some .body

/-- The element codes and field map of a stored plate: zero fields as +0, a raw-flagged plate all non-zero
(R233, R242, R244). -/
def zfcUnpack (f : Fmt) (b : List Byte) : List Nat × BitVec 256 :=
  let h := ZfcHdr.ofBytes b
  if h.raw then (unpackElems f (fit (denseSize f) (b.drop 32)), BitVec.allOnes 256)
  else
    let m := BitVec.ofNat 256 (leNat ((b.drop 32).take 32))
    let fb := fieldBytes f
    let r := (List.range 256).foldl (fun (a : Array Nat × List Byte) i =>
      if m.getLsbD i then
        let cs := unpackElems f (a.2.take fb)
        (cs.zipIdx.foldl (fun (x : Array Nat) e =>
          x.setIfInBounds (128 * (8 * (i / 16) + e.2 / 8) + 8 * (i % 16) + e.2 % 8) e.1) a.1, a.2.drop fb)
      else a) (Array.replicate 16384 0, b.drop 64)
    (r.1.toList, m)

/-- The field map that the store path found of a stored plate: its map; of a raw-flagged plate that of its elements (R244, R266). -/
def observedMap (f : Fmt) (b : List Byte) (scale : List Byte) : BitVec 256 :=
  let u := zfcUnpack f b
  if (ZfcHdr.ofBytes b).raw then fieldMap f u.1 scale else u.2

/-- A ZFC plate of zeros that carries poison, which is always stored (R245). -/
def poisonedZeros (oid : BitVec 40) (k : BitVec 24) (f : Fmt) : List Byte :=
  zfcPack oid k f (List.replicate 16384 0) 0 { poisoned := true, trimmed := false, bound := 0, bfailRow := false, bfailCol := false }

/-- The synthetic plate of an absent plate read from elsewhere: 64 bytes in one line (R271). -/
def syntheticPlate (oid : BitVec 40) (k : BitVec 24) (f : Fmt) : List Byte :=
  let h : ZfcHdr := { (default : ZfcHdr) with
    fmt := fmtCode f, lines := 1, plate := k, oid := oid, bodyCrc := crc32c (List.replicate 32 0) }
  fit 512 h.bytes

/-- The bound b/g of a bound code (R264). -/
def boundOf (n : Nat) : Option (Nat × Nat) :=
  match n with | 1 => some (1, 4) | 2 => some (2, 4) | 3 => some (2, 8) | 4 => some (4, 8) | _ => none

/-- `check_bound` of R265: failure along field rows, along field columns. -/
def checkBound (m : BitVec 256) (bound : Nat) : Bool × Bool :=
  match boundOf bound with
  | none => (false, false)
  | some (b, g) =>
    let excess (ix : Nat → Nat → Nat → Nat) : Bool :=
      (List.range 16).any fun x => (List.range (16 / g)).any fun a =>
        ((List.range g).filter fun t => m.getLsbD (ix x a t)).length > b
    (excess fun x a t => 16 * x + g * a + t, excess fun x a t => 16 * (g * a + t) + x)

/-! The span index. -/

/-- An entry of a span index (R249): plate row, column, lines, offset. -/
structure IdxEntry where
  row : Nat
  col : Nat
  lines : Nat
  offset : Nat
deriving DecidableEq, Repr, Inhabited

/-- The first and last plate row of a span of n plates (R249). -/
def spanRows (o : ObjRec) (s n : Nat) : Nat × Nat := (64 * s / o.pcols, (64 * s + n - 1) / o.pcols)

/-- The 1,024 bytes of an index segment (R249); entries already sorted (R250). -/
def indexBytes (o : ObjRec) (s n packed : Nat) (es : List IdxEntry) : List Byte :=
  let r := spanRows o s n
  let nrows := r.2 - r.1 + 1
  let ptr := (List.range (nrows + 1)).flatMap fun i => leBytes 2 (es.filter fun e => e.row < r.1 + i).length
  let ent := es.flatMap fun e =>
    leBytes 8 (packW [put (e.col % 65536) 48, put (e.lines % 256) 40, put (e.offset % 2 ^ 24) 16]).toNat
  let b := fit 1024 (fit 192 (wordsBytes [
    packW [put 0xE3 56, put es.length 48, put nrows 40, put (64 * s) 16], put packed 32, 0, 0] ++ ptr) ++ ent)
  splice b 20 (leBytes 4 (crc32c b).toNat)

/-- The packed lines and the entries of an index segment (R249, R250). -/
def indexOf (o : ObjRec) (s n : Nat) (b : List Byte) : Nat × List IdxEntry :=
  let r := spanRows o s n
  let nst := fld (leWord b) 55 48
  let ptr (i : Nat) := leNat ((b.drop (32 + 2 * i)).take 2)
  (fld (leWord (b.drop 8)) 63 32, (List.range nst).map fun e =>
    let w := leWord (b.drop (192 + 8 * e))
    { row := r.1 + ((List.range (r.2 - r.1 + 1)).filter fun i => ptr (i + 1) ≤ e).length
      col := fld w 63 48, lines := fld w 47 40, offset := fld w 39 16 })

/-- Entries sorted by row and column, ranges apart and below the packed length (R250). -/
def entriesOk (packed : Nat) : List IdxEntry → Bool
  | [] => true
  | e :: r => e.offset + e.lines ≤ packed && 1 ≤ e.lines && e.lines ≤ 129 &&
    (match r with | [] => true | d :: _ => e.row < d.row || (e.row == d.row && e.col < d.col)) &&
    r.all (fun d => d.offset + d.lines ≤ e.offset || e.offset + e.lines ≤ d.offset) && entriesOk packed r

/-- The index checks of R269. -/
def indexOk (o : ObjRec) (s n : Nat) (b : List Byte) : Bool :=
  let r := spanRows o s n
  let w := leWord b
  let ix := indexOf o s n b
  b.length == 1024 && fld w 63 56 == 0xE3 && leNat ((b.drop 20).take 4) == (crc32c (splice b 20 [0, 0, 0, 0])).toNat &&
  fld w 39 16 == 64 * s && fld w 47 40 == r.2 - r.1 + 1 && fld w 55 48 ≤ 64 &&
  leNat ((b.drop (32 + 2 * (r.2 - r.1 + 1))).take 2) == fld w 55 48 && entriesOk ix.1 ix.2

/-- `locate` of R251: offset and lines in the packed region, or none for an absent plate. -/
def locate (o : ObjRec) (k : Nat) (es : List IdxEntry) : Option (Nat × Nat) :=
  (es.find? fun e => e.row == k / o.pcols && e.col == k % o.pcols).map fun e => (e.offset, e.lines)

/-- Inserts an index entry in the order of R250. -/
def insertEntry (e : IdxEntry) : List IdxEntry → List IdxEntry
  | [] => [e]
  | d :: r => if e.row < d.row || (e.row == d.row && e.col ≤ d.col) then e :: d :: r else d :: insertEntry e r

/-! The REDUCE group code. -/

/-- `rcc_group` of R444: scale code, coded values, remainders. -/
def rccGroup (b : Nat) (x : List F32) : Nat × List Int × List F32 :=
  let e := (scaleOf x).toNat
  let m : Int := (2 ^ (b - 1) - 1 : Nat)
  let qs := x.map fun v =>
    if e = 0 then (0 : Int) else
    match (valF32 v).scale (127 - (e : Int) + b - 2) with
    | .fin n ex =>
      let u : Int := roundUnits n.natAbs ex 0
      max (-m) (min m (if n < 0 then -u else u))
    | _ => 0
  let rs := List.zipWith (fun v q => f32Sub v (toF32 (FVal.mk q ((e : Int) - 127 - b + 2)))) x qs
  (e, qs, rs)

/-- A plate of F32 values coded by R444: its bytes and the remainders. -/
def rccEncode (b : Nat) (x : List F32) : List Byte × List F32 :=
  let gs := (chunks 32 512 x).map (rccGroup b)
  (bytesOfMsb (gs.flatMap fun g => natMsb 8 g.1 ++ g.2.1.flatMap fun (q : Int) => natMsb b (q % (2 ^ b : Nat)).toNat)
      |>.take (64 * (8 + 32 * b)), gs.flatMap fun g => g.2.2)

/-- The F32 values a coded plate stands for: d of R444. -/
def rccDecode (b : Nat) (l : List Byte) : List F32 :=
  (chunks (8 + 32 * b) 512 (msbBits l)).flatMap fun g =>
    let e := msbNat (g.take 8)
    (chunks b 32 (g.drop 8)).map fun c =>
      let n := msbNat c
      let q : Int := if n < 2 ^ (b - 1) then n else (n : Int) - (2 ^ b : Nat)
      if q = 0 then 0 else toF32 (.fin q ((e : Int) - 127 - b + 2))

end Sys2Proof.Machine
end

