-- ==== Sys2Proof/Machine/StSlice.lean ====
section
/-! DEFINITION. The state of a port slice: memory port and guard cache, export and import port, home duties, table slot
copies, histogram unit, Eyepiece, store path, Dense Plate Engine, pair, Sparse Merge Engine. -/

namespace Sys2Proof.Machine

/-! Memory port, guard cache, home duties. -/

/-- What a line holds, as its tweak names it (R171), the key slot that encrypts it and whether it is guard data. -/
structure LineId where
  oid : BitVec 40 := 0
  /-- The plate of the tweak. -/
  plate : BitVec 24 := 0
  seg : Segment := .body
  /-- LINE of the tweak. -/
  line : Nat := 0
  key : Nat := 0
deriving DecidableEq, Repr, Inhabited

/-- Why a line is read or written. -/
inductive Purpose where
  /-- A guard line for the guard cache, and its write-back (R174, R175). -/
  | guardFill (gline : Nat)
  | guardWb (gline : Nat)
  /-- Line `ix` of a home read job. -/
  | read (job ix : Nat)
  /-- A shared line read so that a write job can merge it (R168). -/
  | merge (job ix : Nat)
  /-- A line that a write job writes. -/
  | write (job : Nat)
  /-- A line read by a scrub or the patrol, and its refresh (R460). -/
  | scrub (run : Option Nat)
  | refresh
  /-- Line `ix` of the packed region of a span whose index is being rebuilt for plate `plate` (R457). -/
  | rebuild (plate : BitVec 24) (ix : Nat)
deriving DecidableEq, Repr, Inhabited

/-- A request for a line, waiting in the slice or outstanding. -/
structure MemReq where
  wr : Bool
  addr : BitVec 32
  why : Purpose
  /-- The slice whose home duties it serves: another than the port's in a joint device (R291). -/
  home : SliceNo := 0
  id : LineId := {}
  /-- The stored form to be written, before encryption; the line itself for guard lines and refreshes. -/
  data : List Byte := []
  retries : Nat := 0
  /-- A write that is reissued: the guard of its line before it was first issued (R175). -/
  prev : Option (BitVec 32) := none
  since : Ctr := 0
  /-- The packet that brings it over the pair bridge, while that is on its way (R290). -/
  crossing : Option Nat := none
deriving DecidableEq, Repr, Inhabited

/-- An outstanding tag, or one held out of use after a timeout (R48, R56, R57). -/
structure TagUse where
  tag : BitVec 8
  req : MemReq
  at_ : Ctr
  timedOut : Bool := false
  /-- The guard of the line before this write (R175). -/
  prevGuard : BitVec 32 := 0
  /-- The tag is treated as timed out when its response arrives: injected (R494). -/
  injTimeout : Bool := false
deriving DecidableEq, Repr, Inhabited

/-- A guard line in the guard cache (R174-R176): the 128 guards, and for a pinned line the mask of known ones. -/
structure GuardEnt where
  line : Nat
  guards : List (BitVec 32) := List.replicate 128 0
  filled : Bool := false
  dirty : Bool := false
  dirtyAt : Ctr := 0
  used : Nat := 0
  pinned : Bool := false
  known : BitVec 128 := BitVec.allOnes 128
  /-- A write-back of it is under way. -/
  wb : Bool := false
deriving DecidableEq, Repr, Inhabited

/-- The memory port and the guard cache. -/
structure Mp where
  en : Bool := false
  /-- The level of mp_up, and since when. -/
  upPin : Bool := false
  upAt : Ctr := 0
  up : Bool := false
  bridged : Bool := false
  downForced : Bool := false
  notReady : Bool := false
  /-- Step 5 has ended with the port left out of the interleave (R505). -/
  leftOut : Bool := false
  enAt : Ctr := 0
  /-- Step 5 of start-up has ended (R500). -/
  step5 : Bool := false
  timeoutSeen : Bool := false
  lateSeen : Bool := false
  unexpSeen : Bool := false
  waiting : List MemReq := []
  /-- Lines read for home duties done in the twin, on their way over the pair bridge: the packet, the request, whether it failed. -/
  back : List (Nat × MemReq × Bool) := []
  tags : List TagUse := []
  /-- Writes whose data beat has not transferred, in order of issue (R49). -/
  wdata : List (BitVec 8 × List Byte) := []
  /-- Writes whose data beat has transferred ahead of their request beat, in order of issue (R49). -/
  ahead : List TagUse := []
  cache : List GuardEnt := []
  useNo : Nat := 0
  pinFullSeen : Bool := false
  /-- Guard lines that are unreadable and could not be pinned (R176). -/
  unpinned : List Nat := []
deriving DecidableEq, Repr, Inhabited

/-- Whom a home read job serves. -/
inductive RDest where
  /-- The Eyepiece of a slice of this block; `id` names the plate there. -/
  | eye (slice : SliceNo) (id : Nat)
  /-- A reader elsewhere in the fabric (R419). -/
  | fabric (r : Requester)
  /-- The copying of an old frame into a commit's new one (R260), or a span move (R437). -/
  | commit (id : Nat)
  | move (no : Nat)
  /-- A line of another segment of a frame that moves (R437): the segment and the line within it. -/
  | moveLine (no : Nat) (seg : Segment) (line : Nat)
  /-- A sum plate, for the contribution that is added next (R446). -/
  | sum
  /-- A heal of the Survey (R456). -/
  | heal (oid : BitVec 40) (plate : BitVec 24)
  /-- The span index alone, for a commit (R259). -/
  | index
  /-- An Almanac line, for the engine choice of a slice (R268): whose operand it predicts, and the plate. -/
  | almanac (slice : SliceNo) (isA : Bool)
deriving DecidableEq, Repr, Inhabited

/-- A line as it has been delivered: plaintext, and whether it was taken as failed. -/
structure GotLine where
  data : List Byte
  failed : Bool
deriving DecidableEq, Repr, Inhabited

/-- A home read job: the read of one plate, or of a span index, at its home. -/
structure RJob where
  id : Nat
  obj : ObjRec
  plate : BitVec 24
  dest : RDest
  base : Nat
  /-- The two lines of the span index are being read first (R251). -/
  indexPhase : Bool := false
  /-- Lines asked for, in order: header or scale first, then the body; with what has come back. -/
  plan : List (Nat × LineId) := []
  /-- Its lines have been asked for; false while a write of the plate is under way (R206). -/
  started : Bool := false
  got : List (Nat × GotLine) := []
  /-- Lines of the plate within the packed region, for ZFC; none known yet while the index is read. -/
  lines : Nat := 0
deriving DecidableEq, Repr, Inhabited

/-- A line a write job writes: where, what, and whether it is shared and must be merged first (R168). -/
structure WLine where
  addr : Nat
  id : LineId
  data : List Byte
  /-- For a shared line: the byte at which the new entry lies; none for a line written whole. -/
  mergeAt : Option Nat := none
deriving DecidableEq, Repr, Inhabited

/-- A write job: the lines of one plate, index or frame that are written together. -/
structure WJob where
  id : Nat
  /-- The command it belongs to; none for a fabric write or a heal. -/
  run : Option Nat
  oid : BitVec 40
  plate : BitVec 24
  /-- The commit it belongs to. -/
  commit : Option Nat := none
  /-- Who is answered when it ends: a WR_REQ, RED_DATA or MV_DATA of the fabric. -/
  answer : Option Requester := none
  merging : List WLine := []
  left : Nat := 0
  failed : Bool := false
  /-- The slice and table slot whose in-use count this FRC plate raised (R212). -/
  slot : Option (SliceNo × Fin 64) := none
  poisoned : Bool := false
  heal : Bool := false
  /-- It is part of a move's frame arriving here. -/
  move : Bool := false
  /-- It writes lines of a new frame, which no reader sees yet. -/
  fresh : Bool := false
deriving DecidableEq, Repr, Inhabited

/-- A contribution to a sum plate that has reached its home (R446): who sent it, its values, and whether the plate's read
has been asked for. -/
structure SumAdd where
  obj : ObjRec
  plate : BitVec 24
  src : Requester
  vals : List F32
  poison : Bool
  asked : Bool := false
  /-- The sum plate as read: its stored body, and whether it was marked poisoned. -/
  old : Option (List Byte × Bool) := none
deriving DecidableEq, Repr, Inhabited

/-- The home duties of a slice: read jobs, write jobs, the index cache (R251). -/
structure Home where
  /-- Groups of eight lines of this slice's device, of allocated frames, of which a line's write has been issued (R514). -/
  touched : List Nat := []
  reads : List RJob := []
  writes : List WJob := []
  /-- Plate writes that wait, in the order in which they arrived. -/
  inq : List PWrite := []
  /-- Contributions to sum plates, in the order in which they arrived (R446). -/
  sums : List SumAdd := []
  /-- Span indexes held: object, span, packed lines and entries, last use. -/
  icache : List (BitVec 40 × Nat × Nat × List IdxEntry) := []
deriving DecidableEq, Repr, Inhabited

/-! Export and import port. -/

/-- A plate leaving the export port (R68): its run, stream, ordinal, format and packed rows, and the next beat. -/
structure TxPlate where
  run : Nat
  stream : BitVec 8
  seq : BitVec 16
  fmt : Fmt
  rows : List Byte
  scales : List Byte
  xpose : Bool := false
  poison : Bool := false
  beat : Nat := 0
  /-- Its first beat stands on the port, though its command has gone (R44). -/
  shown : Bool := false
  /-- Staging buffers in which it waits (R230, R236). -/
  buf : Nat := 0
deriving DecidableEq, Repr, Inhabited

/-- A beat as it left (R64). -/
structure Beat where
  data : List Byte
  scale : List Byte
  fmt : Fmt
  stream : BitVec 8
  seq : BitVec 16
  beat : BitVec 8
  last : Bool
  xpose : Bool
  poison : Bool
deriving DecidableEq, Repr, Inhabited

/-- An open import stream (R71-R74). -/
structure ImpStream where
  run : Nat
  stream : BitVec 8
  fmt : Fmt
  /-- Ordinal of the plate open or next to open; beats of it taken; the row data so far. -/
  ordinal : Nat := 0
  count : Nat
  beats : Nat := 0
  data : List Byte := []
  scale : List Byte := []
  poison : Bool := false
  /-- Discarding up to the next last beat (R73). -/
  discarding : Bool := false
  broken : Bool := false
  stored : Nat := 0
  /-- The cycle of the last beat, or of the opening. -/
  at_ : Ctr
deriving DecidableEq, Repr, Inhabited

/-- A beat in the import buffer: its command and plate, and the half cycles in which the store path takes what is left of it (R75). -/
structure BufBeat where
  run : Nat
  plate : BitVec 24
  left : Nat
deriving DecidableEq, Repr, Inhabited

/-- The export and import port. -/
structure Xp where
  /-- Plates waiting to leave, the front one being sent. -/
  tx : List TxPlate := []
  /-- The last beat that left. -/
  lastBeat : Option Beat := none
  /-- xp_tx_valid has been high without a transfer since this cycle. -/
  txAt : Ctr := 0
  txAbandonSeen : Bool := false
  rxDiscardSeen : Bool := false
  streams : List ImpStream := []
  /-- Imports started and waiting to open their stream, in order: run, stream, format, count (R71). -/
  waiting : List (Nat × BitVec 8 × Fmt × Nat) := []
  /-- The import buffer, in the order of arrival, and the cycle up to which it has drained into the store path (R75). -/
  buf : List BufBeat := []
  drainAt : Ctr := 0
deriving DecidableEq, Repr, Inhabited

/-! Table slots, histogram unit, Eyepiece. -/

/-- A slot's state, by the codes of R210. -/
inductive SlotState where
  | free | loading | live | retiring
deriving DecidableEq, Repr, Inhabited

/-- The code of a slot state (R210). -/
def SlotState.code : SlotState → Nat | .free => 0 | .loading => 1 | .live => 2 | .retiring => 3

/-- A slice's copy of a table slot with its in-use count (R210, R212). -/
structure SlotCopy where
  st : SlotState := .free
  gen : BitVec 8 := 0
  draining : Bool := false
  image : List Byte := []
  inUse : Nat := 0
  /-- The slice has reported the slot drained (R218). -/
  reported : Bool := false
deriving DecidableEq, Repr, Inhabited

/-- Who takes a plate from the Eyepiece (R228, R234). -/
inductive Use where
  /-- Stationary plate of step (n, kp), or activation plate (row i, kp), of the Dense Plate Engine. -/
  | weight (n kp : Nat)
  | act (i kp : Nat)
  /-- Operand of the Sparse Merge Engine: A or B, plate row or column, kp. -/
  | sme (isA : Bool) (i kp : Nat)
  | leave (ordinal : Nat)
  /-- The store path writes it as a plate of the command's destination (RECODE, COPY between codes). -/
  | store (dst : BitVec 24)
  /-- The FRC encoder's second pass of COMPRESS, and the histogram unit's first pass. -/
  | encode (dst : BitVec 24)
  | hist
  | reduce (j : Nat)
  | residual (j : Nat)
  | hostWrite (j : Nat)
  /-- The master of a plate that the Survey heals (R456). -/
  | heal (oid : BitVec 40) (plate : BitVec 24)
  | image
  /-- A spill plate read back in a drain round (R312). -/
  | strip (j : Nat)
  /-- The byte-object plate into which a COMPRESS writes its image (R226). -/
  | mergeImage
  /-- The stored form goes to the destination plate unchanged (COPY), or to the host (HOST_WRITE on an archive node). -/
  | copy (dst : BitVec 24)
  | lines (j : Nat)
deriving DecidableEq, Repr, Inhabited

/-- A plate a stream asks for. -/
structure Want where
  id : Nat
  obj : ObjRec
  plate : BitVec 24
  use : Use
  fmt : Option Fmt
  xpose : Bool := false
  /-- Times it has been asked for. -/
  tries : Nat := 0
deriving DecidableEq, Repr, Inhabited

/-- A stream of the Eyepiece (R228): the command it belongs to, the plates it still asks for, those asked for and
not yet arrived. -/
structure EStream where
  id : Nat
  run : Nat
  wants : List Want
  asked : List Want := []
deriving DecidableEq, Repr, Inhabited

/-- A plate that has reached the Eyepiece in its stored form. -/
structure Arrived where
  id : Nat
  body : List Byte
  scale : List Byte := []
  /-- FRC header, for a local read. -/
  header : List Byte := []
  /-- A line of it was delivered poisoned; the Ephemeris marks it poisoned; it was never written (R159). -/
  badLine : Bool := false
  marked : Bool := false
  unwritten : Bool := false
  /-- Read from its own home slice or from elsewhere. -/
  lines : Nat := 0
  /-- The slice cycle in which it became admissible (R229). -/
  at_ : Ctr := 0
deriving DecidableEq, Repr, Inhabited

/-- A plate in flight in a context: parked, or admitted with its sub-streams on their way (R211, R231). -/
structure InFlight where
  run : Nat
  stream : Nat
  want : Want
  arr : Arrived
  hdr : FrcHdr
  parked : Bool := false
  /-- Sub-streams not yet assigned to a lane; those decoded with their values; counted cycles. -/
  subs : List Nat := []
  done : List (Nat × List F32) := []
  cycles : Nat := 0
  failed : Bool := false
  /-- Staging buffers it holds (R230, R236). -/
  buf : Nat := 0
deriving DecidableEq, Repr, Inhabited

/-- A plate the Eyepiece has delivered to its consumer. -/
structure Delivered where
  run : Nat
  want : Want
  plate : Plate
  /-- It is absent or was never written (R445). -/
  empty : Bool := false
  /-- The bound that its ZFC header says the delivered field rows fail, by the codes of R264; 0 where none (R315). -/
  excess : Nat := 0
deriving DecidableEq, Repr, Inhabited

/-- The Eyepiece. -/
structure Eye where
  streams : List EStream := []
  /-- The stream each context holds. -/
  ctxs : Vector (Option Nat) 16 := Vector.replicate 16 none
  /-- The context whose plate was admitted last (R229). -/
  lastCtx : Nat := 15
  arrived : List Arrived := []
  flight : List InFlight := []
  /-- The sub-stream each lane decodes: the plate's id and the sub-stream's number. -/
  lanes : Vector (Option (Nat × Nat)) 128 := Vector.replicate 128 none
  masked : BitVec 128 := 0
  /-- Table cache, most recently used first (R232). -/
  tcache : List (Fin 64) := []
  outs : List Delivered := []
deriving DecidableEq, Repr, Inhabited

/-- The histogram unit (R222, R223): the command it counts for and the histogram. -/
structure HistU where
  run : Option Nat := none
  hist : Hist := Hist.empty
  /-- Plates of the slice's share that have not been counted. -/
  left : Nat := 0
  /-- First passes that wait for the unit: their command and source plates. -/
  queue : List (Nat × List Nat) := []
deriving DecidableEq, Repr, Inhabited

/-! Store path. -/

/-- A plate for the store path: its command, destination and values, in the format given. -/
structure StoreIn where
  run : Option Nat
  obj : ObjRec
  plate : BitVec 24
  data : Plate
  bound : Nat := 0
  trimmed : Bool := false
  master : BitVec 40 := 0
  slot : Fin 64 := 0
  /-- The plate of an import (R75). -/
  isImport : Bool := false
  heal : Bool := false
deriving DecidableEq, Repr, Inhabited

/-- Where a commit stands (R259-R261). -/
inductive CommitState where
  | inPlace | claiming | newFrame | held | copying | tables | index | placing | ready | ended
deriving DecidableEq, Repr, Inhabited

/-- A plate of a commit that has been packed: its stored bytes, scale line, field map. -/
structure Packed where
  plate : BitVec 24
  data : List Byte
  scale : List Byte
  map : BitVec 256
  header : List Byte := []
  poisoned : Bool := false
  /-- Its first line in the packed region of a ZFC frame, and its lines; whether its lines have been given to the port. -/
  first : Nat := 0
  lines : Nat := 0
  sent : Bool := false
  copied : Bool := false
  /-- The slice and table slot whose in-use count it raised (R212). -/
  slot : Option (SliceNo × Fin 64) := none
deriving DecidableEq, Repr, Inhabited

/-- A commit (R257-R263). -/
structure Commit where
  id : Nat
  run : Option Nat
  /-- The writer elsewhere, where it is not a command of this block. -/
  src : Option Requester := none
  obj : ObjRec
  /-- The old frame, if the span has one: its slice, base line, extents and index entries (R260). -/
  hasOld : Bool := false
  oldSlice : SliceNo := 0
  oldBase : Nat := 0
  oldExtents : Nat := 0
  oldEntries : List IdxEntry := []
  /-- The old frame is that of an earlier commit of the command, which awaits its swing (R465). -/
  chained : Bool := false
  /-- The slice on which the new frame lies: the home slice, or another under R441. -/
  target : SliceNo := 0
  /-- That placement has been committed at the manager (R441). -/
  placed : Bool := false
  span : Nat
  st : CommitState := .inPlace
  closed : Bool := false
  /-- Lines written and not answered. -/
  left : Nat := 0
  failed : Bool := false
  /-- The new frame: base line, and lines of its packed region used so far. -/
  base : Nat := 0
  extents : Nat := 0
  used : Nat := 0
  entries : List IdxEntry := []
  /-- Plates stored, in order. -/
  plates : List Packed := []
  /-- Plates still to be copied from the old frame. -/
  copy : List Nat := []
  /-- Requesters to be answered when it ends, with their plates. -/
  answers : List (Requester × BitVec 24) := []
deriving DecidableEq, Repr, Inhabited

/-- The store path (R252). -/
structure StoreP where
  queue : List StoreIn := []
  imports : List StoreIn := []
  /-- The last plate taken was an import plate (R75). -/
  lastImport : Bool := false
  commits : List Commit := []
  /-- Plates in FRC encoding, up to 8 (R203). -/
  encoding : Nat := 0
deriving DecidableEq, Repr, Inhabited

/-! Dense Plate Engine, pair, Sparse Merge Engine. -/

/-- A step of a pass: the array (0-63 in a logical slice), the plate (n, kp), the first row it computes (R279, R452). -/
structure DStep where
  n : Nat
  kp : Nat
  row0 : Nat := 0
  repair : Bool := false
  avoid : Option Nat := none
deriving DecidableEq, Repr, Inhabited

/-- A PLATE_MATMUL on the engines, or one stage of a pair: operands, shape, formats and destination (R278-R285, R317). -/
structure MatJob where
  run : Nat
  a : ObjRec
  b : ObjRec
  cfmt : Fmt
  xposeA : Bool
  xposeB : Bool
  row0 : Nat
  rows : Nat
  col0 : Nat
  cols : Nat
  kps : Nat
  /-- 0 STORE, 1 EXPORT, 2 STAGE (R285). -/
  dest : Nat
  /-- Plate columns of the output (R298). -/
  np : Nat
  expFmt : Fmt := .h16
  expStream : BitVec 8 := 0
  /-- 0 CHOICE, 1 DPE, 2 SME (R317). -/
  engine : Nat := 0
  spill : ObjRec
  spillPlates : Nat := 0
  /-- The join flag, accepted (R292). -/
  join : Bool := false
  bias : Nat := 0x0100
  margin : Nat := 0x0200
  group : Nat := 32
deriving DecidableEq, Repr, Inhabited

/-- An accumulator (R280, R283, R293): column plate n of a row block of `p` plate rows from `row0` on, of the second stage of a pair or
not; the slice in whose pages it lies; one F32 list per row; the plate rows whose operands were poisoned, and those given to the SME;
when its last row was issued. -/
structure Acc where
  n : Nat
  row0 : Nat
  p : Nat
  second : Bool := false
  at_ : SliceNo
  rows : List (List F32)
  poison : List Nat := []
  skip : List Nat := []
  doneAt : Option Ctr := none
deriving DecidableEq, Repr, Inhabited

/-- An output plate that is final and not drained (R284): plate row, column plate, its 128 rows; the accumulator it stands in. -/
structure OutPlate where
  i : Nat
  n : Nat
  row0 : Nat
  p : Nat
  second : Bool := false
  at_ : SliceNo
  rows : List (List F32)
  poison : Bool
deriving DecidableEq, Repr, Inhabited

/-- A use of one array in a pass: the array, its step and its stationary plate. -/
structure PassUse where
  arr : Nat
  step : DStep
  plate : Plate
deriving DecidableEq, Repr, Inhabited

/-- The Dense Plate Engine. -/
structure Dpe where
  masked : BitVec 32 := 0
  /-- PLATE_MATMULs that wait for the slice, each with the second stage of a STAGE pair. -/
  queue : List (MatJob × Option MatJob) := []
  job : Option MatJob := none
  job2 : Option MatJob := none
  /-- The second stage runs over the staged block. -/
  phase2 : Bool := false
  /-- Sizes of the row blocks still to come, and the first plate row of the next. -/
  blocks : List Nat := []
  nextRow : Nat := 0
  /-- The running row block: its first plate row and P; 0 while none runs. -/
  blkRow : Nat := 0
  blkP : Nat := 0
  /-- The column of the re-dispatched job that the running block is for (R279). -/
  only : Option Nat := none
  streamed : Bool := false
  doubleBuf : Bool := false
  /-- The activation block of the running row block, and of the next one, has been asked for; streamed, the kp values whose
  activation plates have been asked for the next pass. -/
  asked : Bool := false
  ahead : Bool := false
  actKeys : List Nat := []
  /-- Activation plates held, expanded: plate row, kp, plate, and the bound its header says it fails; the staged block:
  plate row, column, plate. -/
  acts : List (Nat × Nat × Plate × Nat) := []
  staged : List (Nat × Nat × Plate) := []
  /-- Almanac entries that have come for the choice: A or B, plate, map; those asked for. -/
  maps : List ((Bool × Nat) × BitVec 256) := []
  mapsAsked : Option (List (Bool × Nat)) := none
  /-- Jobs of the running block that the choice gave to the SME, those of the next block, once chosen (R320), and those re-dispatched
  to the DPE (R321). -/
  toSme : List (Nat × Nat) := []
  next : Option (List (Nat × Nat)) := none
  redo : List (Nat × Nat) := []
  chosen : Bool := false
  /-- Steps not yet taken in the block; repair steps (R452); steps whose weights have been asked for. -/
  steps : List DStep := []
  repair : List DStep := []
  weights : List (Nat × Nat) := []
  pass : List PassUse := []
  /-- Arrays that have failed in the running pass; the next row to issue. -/
  failed : List Nat := []
  row : Nat := 0
  accs : List Acc := []
  /-- The cause that holds a pass, as of the last cycle (R296). -/
  stall : Nat := 0
  drain : List OutPlate := []
deriving DecidableEq, Repr, Inhabited

/-- The pair (R289-R295). -/
structure Pair where
  joined : Bool := false
  lead : Bool := false
  joinWait : Bool := false
  /-- The run the slices are joined for. -/
  run : Option Nat := none
  serving : Bool := false
  portEnd : Bool := false
  noticeSent : Bool := false
  shutAt : Ctr := 0
  noticeAt : Option Ctr := none
deriving DecidableEq, Repr, Inhabited

/-- A field-row task (R301): the job (i, n), the chunk, the field row. -/
structure Task where
  i : Nat
  n : Nat
  c : Nat
  a : Nat
deriving DecidableEq, Repr, Inhabited

/-- An entry of the hash accumulator: key (output plate, field), values, allocation order (R307, R308). -/
structure HEnt where
  k : Nat
  f : Nat
  v : List F32
deriving DecidableEq, Repr, Inhabited

/-- A plate job on the SME (R302, R315, R321). -/
structure SJob where
  i : Nat
  n : Nat
  /-- Chosen from a map that was not actual, so checked again as its chunks load. -/
  check : Bool := false
  void : Bool := false
  spilled : Bool := false
  trimmed : Bool := false
  poisoned : Bool := false
  /-- Actual pairs of the chunks queued so far; chunks queued; tasks finished. -/
  pairs : Nat := 0
  queued : Nat := 0
  done : Nat := 0
  drained : Bool := false
deriving DecidableEq, Repr, Inhabited

/-- A task that a lane has begun, with the updates it has still to send to the accumulator (R305, R308). -/
structure LaneWork where
  lane : Nat
  task : Task
  left : List HEnt
  /-- The check has failed on the next pair (R453). -/
  failed : Bool := false
deriving DecidableEq, Repr, Inhabited

/-- The Sparse Merge Engine. -/
structure Sme where
  masked : BitVec 16 := 0
  /-- Jobs given to it and not yet in a group; the group running. -/
  jobs : List SJob := []
  group : List SJob := []
  /-- The chunk being loaded and the job of the group it is loaded for; whether its plates have been asked for. -/
  chunk : Nat := 0
  jobIx : Nat := 0
  asked : Bool := false
  /-- A's plates of the chunk have been asked for. -/
  aAsked : Bool := false
  /-- Operand plates in the field store: A or B, row or column, kp, plate, with the bound its header says it fails
  (R315); none where it fails none. -/
  field : List (Bool × Nat × Nat × Plate × Nat) := []
  queues : Vector (List Task) 32 := Vector.replicate 32 []
  work : List LaneWork := []
  /-- Entries, oldest first. -/
  hacc : List HEnt := []
  /-- The spill buffer, and the records written to the strip in the group. -/
  spill : List HEnt := []
  strip : List HEnt := []
  /-- Spill plates written whole. -/
  stripOut : Nat := 0
  draining : Bool := false
  round : Bool := false
  /-- The plates of the running drain round that have not drained, once its records have been added (R312). -/
  roundOf : List (Nat × Nat) := []
  exhaustSeen : Bool := false
deriving DecidableEq, Repr, Inhabited

/-- A port slice. -/
structure Slice where
  mp : Mp := {}
  home : Home := {}
  xp : Xp := {}
  slots : Vector SlotCopy 64 := Vector.replicate 64 {}
  slotSel : BitVec 6 := 0
  /-- Its copies of the key slots (R177, R180): none where unloaded. -/
  keys : Vector (Option (List Byte)) 16 := Vector.replicate 16 none
  hist : HistU := {}
  eye : Eye := {}
  store : StoreP := {}
  dpe : Dpe := {}
  pair : Pair := {}
  sme : Sme := {}
  /-- PS_ENGINE_BIAS: GROUP, RD_MARGIN, BIAS (R323). -/
  biasGroup : BitVec 8 := 32
  biasMargin : BitVec 16 := 0x0200
  bias : BitVec 16 := 0x0100
  /-- The device shutter, the datapath shutter, and LOST_SPANS of PS_SHUTTERS (R451, R472). -/
  devShut : Bool := false
  dataShut : Bool := false
  lostSpans : Bool := false
  /-- ps_act_up (R105, R106). -/
  actUp : Bool := false
  actAt : Ctr := 0
  /-- ps_act_lvl, and the cycle of its last rise (R105, R106). -/
  actLvl : BitVec 3 := 0
  lvlAt : Ctr := 0
deriving DecidableEq, Repr, Inhabited

end Sys2Proof.Machine
end

