-- ==== Sys2Proof/Machine/StSpg.lean ====
section
/-! DEFINITION. The state of the Spectrograph SPG (R210-R226). -/

namespace Sys2Proof.Machine

/-- What a slot command does to its slot (R214). -/
inductive SlotDo where
  /-- TABLE_LOAD with its image, once that is at hand. -/
  | load (gen : BitVec 8) (image : Option (List Byte))
  | retire
  /-- The table-building part of a COMPRESS that names its slot. -/
  | compress (gen : BitVec 8)
deriving DecidableEq, Repr, Inhabited

/-- A slot command: the command it belongs to, and what it does. -/
structure SlotCmd where
  run : Nat
  act : SlotDo
deriving DecidableEq, Repr, Inhabited

/-- A slot as SPG holds it. -/
structure SpgSlot where
  st : SlotState := .free
  gen : BitVec 8 := 0
  image : List Byte := []
  draining : Bool := false
  /-- While LOADING: the image has been sent to the slices (R219). -/
  built : Bool := false
  holdAt : Ctr := 0
  /-- The command being executed, and those waiting (R214). -/
  cur : Option SlotCmd := none
  queue : List SlotCmd := []
deriving DecidableEq, Repr, Inhabited

/-- A table to be built: its command; its slot, which a COMPRESS that names none takes when its first pass begins (R215); the slices
that have not sent their histograms, and those whose histograms have not arrived; the sum so far (R223, R226). -/
structure Build where
  run : Nat
  slot : Option (Fin 64)
  unsent : List SliceNo
  waiting : List SliceNo
  hist : Hist := Hist.empty
  /-- The cycle of its histogram close. -/
  closeAt : Ctr := 0
deriving DecidableEq, Repr, Inhabited

/-- SPG's own state. -/
structure SpgS where
  slots : Vector SpgSlot 64 := Vector.replicate 64 {}
  /-- The FREE slots, the one that has been FREE longest first (R215). -/
  freeOrder : List (Fin 64) := List.finRange 64
  builds : List Build := []
  /-- Builds whose histograms have all arrived, in the order of their histogram close (R226). -/
  closed : List Nat := []
  slotSel : BitVec 6 := 0
  /-- Of the current or last build: iterations of its fits, its slot, the start that R226 names; the cycles of the last one and
  the cycle of its end, once one has ended. -/
  iter : Nat := 0
  buildSlot : Fin 64 := 0
  buildAt : Ctr := 0
  lastCycles : BitVec 32 := 0
  buildEnd : Option Ctr := none
deriving DecidableEq, Repr, Inhabited

end Sys2Proof.Machine
end

