-- ==== Sys2Proof/Machine/StSvy.lean ====
section
/-! DEFINITION. The state of the Survey SVY (R456-R461). -/

namespace Sys2Proof.Machine

/-- How a heal stands. -/
inductive HealState where
  /-- Headers are being read, or the record of the object or of the master is awaited; or, for an index, lines are being read. -/
  | running
  /-- The master is being read and the plate encoded and written, or the index written. -/
  | storing
  /-- It has ended; `HEAL_END` releases the requests. -/
  | healed | failed
deriving DecidableEq, Repr, Inhabited

/-- A heal that runs (R456). -/
structure Heal where
  oid : BitVec 40
  plate : BitVec 24
  /-- The slice that found the fault: its store path encodes the plate. -/
  slice : SliceNo
  st : HealState := .running
  /-- The object's record, once known. -/
  obj : Option ObjRec := none
  /-- The slot and master the plate is encoded with. -/
  slot : Fin 64 := 0
  master : BitVec 40 := 0
  /-- It rebuilds the span's index (R457). -/
  index : Bool := false
  /-- Its lines or headers have been asked for. -/
  started : Bool := false
  /-- Plates whose headers it may still read, its own first, then its siblings, the nearest first; whether one is being read. -/
  todo : List Nat := []
  asked : Bool := false
  /-- The headers read, in that order; none where unreadable. -/
  hdrs : List (Nat × Option (List Byte)) := []
  /-- Of an index heal: lines of the packed region still to come, and those that have, as ciphertext. -/
  left : Nat := 0
  lines : List (Nat × List Byte) := []
deriving DecidableEq, Repr, Inhabited

/-- A SCRUB: its command, none for the scrub that a lasting MP_CORR fault starts, and the ranges of lines still to be read: slice, first
line, number of lines (R460). -/
structure ScrubJob where
  run : Option Nat
  lines : List (SliceNo × Nat × Nat)
  /-- Reads issued and not answered. -/
  left : Nat := 0
deriving DecidableEq, Repr, Inhabited

/-- SVY's own state. -/
structure SvyS where
  heals : List Heal := []
  scrubs : List ScrubJob := []
  patrolEn : Bool := false
  patrolLines : BitVec 16 := 16
  patrolInterval : BitVec 16 := 0x1000
  /-- The patrol's position on each device, and the cycle of its last burst. -/
  patrolPos : Vector Nat 32 := Vector.replicate 32 0
  patrolAt : Ctr := 0
  /-- The next directory entry the audit compares, and the cycle of the last comparison. -/
  auditPos : Nat := 0
  auditAt : Ctr := 0
deriving DecidableEq, Repr, Inhabited

end Sys2Proof.Machine
end

