-- ==== Sys2Proof/Machine/State.lean ====
section
/-! DEFINITION. The state of Praux as plain data: the sixty islands, the four crossbar quadrants with their cell
pools, the thirty-two slices, the sixteen link groups, the service islands, and the queue of waiting commands. -/

namespace Sys2Proof.Machine

/-- Test access (R107-R109): the IEEE 1500 wrappers of the islands, one chain in island-number order, and the IEEE 1687 network. No row
of the table moves the wrapper signals: in functional operation tst_wrstn is held low (log entry 122). -/
structure TestS where
  /-- tst_wrstn: low keeps every wrapper transparent (R108). -/
  wrstn : Bool := false
  /-- Bit k: the wrapper of island k has taken an instruction other than bypass since power-on reset (R108). -/
  wir : BitVec 60 := 0
  /-- Bit k: the segment-insertion bit of island k is set, so that its BIST controllers lie in the network's path (R109). -/
  sib : BitVec 60 := 0
deriving DecidableEq, Repr, Inhabited

/-- The state of the block. -/
structure State where
  /-- por_n is low (R99). -/
  por : Bool
  islands : Vector Island 60
  quads : Vector Quad 4
  slices : Vector Slice 32
  groups : Vector LinkGrp 16
  cfg : CfgS
  cp : CpS
  cmd : CmdS
  eph : EphS
  spg : SpgS
  svy : SvyS
  log : LogS
  inj : InjS
  test : TestS
  /-- Requests of this block's units to other blocks that are not answered (R428). -/
  reqs : List FabReq
  /-- How many free values have been drawn: the model's own field (log entry 1). -/
  freeIdx : Nat
  /-- How many identifiers of jobs, streams and runs have been given out: the model's own field (log entry 1). -/
  nextId : Nat
  /-- How many idle steps have passed: the model's own field (log entry 2). -/
  tickNo : Nat
  /-- The commands waiting, first in, first out. -/
  pending : List Instr
deriving DecidableEq, Repr

/-- Why the block stops with a fault. The manual gives every command an effect, so no meaning of this model raises
one; the type has one constructor, for a command that breaks the form its row is written with. -/
inductive Fault where
  /-- Raised by no meaning. Safe: no state is reached by it. -/
  | neverRaised
deriving DecidableEq, Repr

/-- Why a command is refused. -/
inductive Refusal where
  /-- Raised by the arm of a command whose meaning is not written. Safe: nothing is claimed of such a command. -/
  | notModelled (mnemonic : String)
deriving DecidableEq, Repr

/-- The machine right after power-on reset is asserted: every island in reset, every state item at its reset value,
no command waiting. -/
def State.reset : State where
  por := true
  islands := Vector.replicate 60 {}
  quads := Vector.replicate 4 {}
  slices := Vector.replicate 32 {}
  groups := Vector.replicate 16 {}
  cfg := {}
  cp := {}
  cmd := {}
  eph := {}
  spg := {}
  svy := {}
  log := {}
  inj := {}
  test := {}
  reqs := []
  freeIdx := 0
  nextId := 1
  tickNo := 0
  pending := []

end Sys2Proof.Machine
end

