-- ==== Sys2Proof/Machine/Ops.lean ====
section
/-! DEFINITION. The named operations over the state: reading and replacing one island, quadrant, slice or link
group; counting; emitting a report (R486, R487); raising a detector event; drawing a free value. -/

namespace Sys2Proof.Machine

abbrev Outcome := Host.Outcome State Fault Refusal

/-- Island k. -/
def State.isl (s : State) (k : IslandNo) : Island := s.islands[k]
/-- Quadrant x. -/
def State.quad (s : State) (x : QuadNo) : Quad := s.quads[x]
/-- Slice p. -/
def State.slice (s : State) (p : SliceNo) : Slice := s.slices[p]
/-- Link group g. -/
def State.group (s : State) (g : GroupNo) : LinkGrp := s.groups[g]

/-- The state with island k changed by f. -/
def State.onIsl (s : State) (k : IslandNo) (f : Island → Island) : State :=
  { s with islands := s.islands.set k (f s.islands[k]) }
/-- The state with quadrant x changed by f. -/
def State.onQuad (s : State) (x : QuadNo) (f : Quad → Quad) : State :=
  { s with quads := s.quads.set x (f s.quads[x]) }
/-- The state with slice p changed by f. -/
def State.onSlice (s : State) (p : SliceNo) (f : Slice → Slice) : State :=
  { s with slices := s.slices.set p (f s.slices[p]) }
/-- The state with link group g changed by f. -/
def State.onGroup (s : State) (g : GroupNo) (f : LinkGrp → LinkGrp) : State :=
  { s with groups := s.groups.set g (f s.groups[g]) }

/-- The state with every island changed by f, which is told the island's number. -/
def State.onIslands (s : State) (f : Nat → Island → Island) : State :=
  { s with islands := s.islands.mapIdx f }

/-- Adds n to the counter of island k at offset `off` (R76). -/
def State.bump (s : State) (k : IslandNo) (off : Nat) (n : Nat := 1) : State := s.onIsl k fun i => i.bump off n

/-- The cycle count of island k. -/
def State.now (s : State) (k : IslandNo) : Ctr := (s.isl k).cycle

/-- The configuration in force in island k. -/
def State.conf (s : State) (k : IslandNo) : Option Conf := (s.isl k).conf

/-- A configuration of the block: CFG's, or, while CFG holds none, that of an island that keeps its own (R102, R140). -/
def State.anyConf (s : State) : Option Conf :=
  match s.cfg.store with | some c => some c | none => s.islands.toList.findSome? fun i => i.conf

/-- Whether island k is out of reset with its clock running, in STATE RUN. -/
def State.running (s : State) (k : IslandNo) : Bool := (s.isl k).live && (s.isl k).state == .run

/-- Whether island k starts new work (R143): it runs and is not asked to quiesce. -/
def State.begins (s : State) (k : IslandNo) : Bool := s.running k && !(s.isl k).quiesceAsk

/-- Whether island k is out of reset with its clock running, in RUN or QUIESCED. -/
def State.awake (s : State) (k : IslandNo) : Bool :=
  (s.isl k).live && ((s.isl k).state == .run || (s.isl k).state == .quiesced)

/-- Whether a quadrant is lost to the block: its shutter is closed, or it is in reset (R102, R474). -/
def State.quadGone (s : State) (z : QuadNo) : Bool := (s.isl (xqIsl z)).inReset || (s.isl (xqIsl z)).state == .shut

/-- Whether packets can pass from quadrant x to quadrant y: no quadrant of the one route between them (R16) is shut (R474). -/
def State.wayOpen (s : State) (x y : QuadNo) : Bool :=
  let shut := s.quadGone
  !shut x && !shut y && (y == x || y == nextHigher x || y == nextLower x || !shut (nextHigher x))

/-- Whether two islands can reach each other over the crossbar (R474): an island needs no crossing to reach itself. -/
def State.meets (s : State) (j k : IslandNo) : Bool :=
  j == k || (s.wayOpen (quadOf j) (quadOf k) && s.wayOpen (quadOf k) (quadOf j))

/-- Severity codes (R484). -/
def sevInfo : BitVec 2 := 0
def sevTransient : BitVec 2 := 1
def sevLasting : BitVec 2 := 2
def sevFatal : BitVec 2 := 3

/-- Sets or clears bit i. -/
def setBit {n : Nat} (v : BitVec n) (i : Nat) (b : Bool) : BitVec n :=
  if b then v ||| BitVec.ofNat n (2 ^ i) else v &&& ~~~(BitVec.ofNat n (2 ^ i))

/-- Whether a report folds into an earlier one (R487). -/
def Report.foldsWith (a b : Report) : Bool :=
  a.code == b.code && a.island == b.island && a.inst == b.inst && a.sev == b.sev && a.injected == b.injected &&
  a.resets == b.resets && a.sev != sevFatal

/-- A count of 32 bits that saturates. -/
def sat32Add (a b : BitVec 32) : BitVec 32 := BitVec.ofNat 32 (sat 32 (a.toNat + b.toNat))

/-- The earlier record with a later report folded into it (R487). -/
def Report.fold (a b : Report) : Report :=
  { a with
    count := sat32Add a.count b.count, lastCycle := b.lastCycle, lastSeq := b.lastSeq, poisoned := a.poisoned || b.poisoned }

/-- What a report says, before the island stamps it. -/
structure Note where
  code : BitVec 16
  sev : BitVec 2
  injected : Bool := false
  inst : BitVec 16 := 0
  oid : BitVec 40 := 0
  plate : BitVec 24 := 0
  arg : W64 := 0
deriving DecidableEq, Repr, Inhabited

/-- An island makes a report (R486, R487): it takes the next sequence number, and folds, joins the buffer of four,
takes the fifth slot if it is FATAL, or is dropped and counted. -/
def Island.emit (i : Island) (k : IslandNo) (n : Note) : Island :=
  let r : Report := {
    code := n.code, island := BitVec.ofNat 6 k.val, sev := n.sev, injected := n.injected, inst := n.inst,
    resets := i.resets, cycle := i.cycle, seq := i.seq, oid := n.oid, plate := n.plate, arg := n.arg,
    lastCycle := i.cycle, lastSeq := i.seq }
  let i := { i with seq := i.seq + 1 }
  match i.reports.getLast? with
  | some last =>
    if last.foldsWith r then { i with reports := i.reports.dropLast ++ [last.fold r] }
    else if i.reports.length < 4 || (n.sev == sevFatal && i.reports.length < 5) then { i with reports := i.reports ++ [r] }
    else { i with dropped := sat32Add i.dropped 1 }
  | none => { i with reports := [r] }

/-- The records that an island owes for queues that a quadrant's reset has emptied, as it next runs (R40). -/
def Island.reportEmptied (i : Island) (k : IslandNo) : Island :=
  (List.range 4).foldl (fun (i : Island) x => if i.emptiedBy.getLsbD x then
    ({ i with emptiedBy := setBit i.emptiedBy x false }).emit k { code := 2, sev := sevInfo, arg := BitVec.ofNat 64 x } else i) i

/-- Island k makes a report. -/
def State.emit (s : State) (k : IslandNo) (n : Note) : State := s.onIsl k fun i => i.emit k n

/-- Something happens at a detector of island k; DETECTOR_EVENT counts it and acts on it (R448). -/
def State.event (s : State) (k : IslandNo) (e : DetEvent) : State :=
  s.onIsl k fun i => { i with detQueue := i.detQueue ++ [e] }

/-- Island k gets a packet to send. -/
def State.send (s : State) (k : IslandNo) (p : OutPkt) : State := s.onIsl k fun i => { i with outbox := i.outbox ++ [p] }

/-- Draws a free bit (log entry 1). -/
def State.freeBit (s : State) : Bool × State := (Config.freeBit s.freeIdx, { s with freeIdx := s.freeIdx + 1 })
/-- Draws a free number. -/
def State.freeNat (s : State) : Nat × State := (Config.freeNat s.freeIdx, { s with freeIdx := s.freeIdx + 1 })
/-- The tags of a port that are free. -/
def freeTags (free : BitVec 8 → Bool) : List (BitVec 8) := ((List.range 256).map (BitVec.ofNat 8)).filter free
/-- A free tag, which of them is a free value (log entry 1); none where no tag is free. -/
def State.freshTag (s : State) (free : BitVec 8 → Bool) : Option (BitVec 8) × State :=
  let n := s.freeNat
  ((freeTags free)[n.1 % (freeTags free).length]?, n.2)

/-- A command whose row's start condition does not hold changes nothing (log entry 4). -/
def guarded (c : Bool) (s t : State) : Outcome := .next (if c then t else s)

/-- The word list of a packet without poison. -/
def plain (l : List W64) : List PWord := l.map fun w => { w := w }

/-- The severity of UNIT_SHUT of an island: FATAL for the classes of R491 (R536). -/
def shutSev (k : IslandNo) : BitVec 2 :=
  if (48 ≤ k.val && k.val ≤ 54) || k.val == 56 then sevFatal else sevLasting

/-- Closes the shutter of island k (R451, R536): STATE becomes SHUT and UNIT_SHUT is emitted, once. LOG's attention
logic stays in service and sets its own CAUSE bit (R493). -/
def State.shutIsland (s : State) (k : IslandNo) : State :=
  let s1 := s.onIsl k fun i =>
    if i.inReset || i.state = .shut then i
    else (i.enter .shut).emit k { code := 9, sev := shutSev k, arg := BitVec.ofNat 64 k.val }
  if k = logIsl then { s1 with log := { s1.log with cause := setBit s1.log.cause 5 true } } else s1

/-- Answers a register request (R81). -/
def State.answer (s : State) (tag : BitVec 4) (code : BitVec 2) (rdata : W64 := 0) : State :=
  { s with cp := { s.cp with answers := s.cp.answers.set tag.toNat (some { code := code, rdata := rdata }) } }

/-- Whether the register channel takes a request under a tag (R77, R79): CFG is out of reset, and the tag is not outstanding. -/
def State.reqReady (s : State) (tag : BitVec 4) : Bool := (s.isl cfgIsl).live && !(s.cp.out.any fun r => r.tag == tag)

/-- Response codes (R81). -/
def ansOk : BitVec 2 := 0
def ansNoResponse : BitVec 2 := 1
def ansDenied : BitVec 2 := 2
def ansPoisoned : BitVec 2 := 3

/-- Whether the register channel accepts requests: CFG is out of reset with its clock running (R77). -/
def State.chanUp (s : State) : Bool := (s.isl cfgIsl).live

/-- Whether an arming of island k now applies to an operation of the instance (R494): its spacing has passed. -/
def Island.armedFor (i : Island) (code inst : Nat) : Bool :=
  match i.armed with
  | some a => a.code.toNat == code && a.inst.toNat == inst && a.remaining != 0 &&
      (match a.last with | some t => a.spacing.toNat ≤ elapsed i.cycle t | none => true)
  | none => false

/-- Applies one injection: the arming's count falls, INJ counts it (R494). -/
def State.useInjection (s : State) (k : IslandNo) : State :=
  match (s.isl k).armed with
  | none => s
  | some a =>
    let left := a.remaining - 1
    let s1 := s.onIsl k fun i =>
      { i with armed := if left = 0 then none else some { a with remaining := left, last := some i.cycle } }
    let s2 := s1.bump injIsl injApplied
    if left = 0 && s.inj.armedAt == some k then { s2 with inj := { s2.inj with armedAt := none } } else s2

/-- Whether the next operation of an instance is made to fail by an arming, and the state with the injection used (R494). -/
def State.inject (s : State) (k : IslandNo) (code inst : Nat) : Bool × State :=
  if (s.isl k).armedFor code inst then (true, s.useInjection k) else (false, s)

end Sys2Proof.Machine
end

