-- ==== Sys2Proof/Machine/Queues.lean ====
section
/-! DEFINITION. Crossing queues: opening, closing, delivering, consuming and forwarding packets (R23-R42). -/

namespace Sys2Proof.Machine

/-- Reserve and cap of a queue under the configuration in force in the quadrant (R26, R129). -/
def State.share (s : State) (x : QuadNo) (q : Nat) : Nat × Nat :=
  match s.conf (xqIsl x) with | some c => c.queueShare x.val q | none => (0, 0)

/-- The cells every queue of a pool holds back together (R27). -/
def Quad.heldBack (x : Quad) (pool : List PoolEntry) : Nat :=
  -- every queue's reserve, less what the listed queues already use of theirs
  (pool.map fun e => e.count * e.reserve).sum -
    (x.queues.map fun e => min e.2.cells
      (match pool.find? fun p => p.covers e.1 with | some p => p.reserve | none => 0)).sum

/-- The pool's unreserved free cells (R27). -/
def Quad.unreserved (x : Quad) (pool : List PoolEntry) : Nat := x.free - x.heldBack pool

/-- Whether an open of n cells on a queue is admitted (R27). -/
def Quad.admits (x : Quad) (pool : List PoolEntry) (q n : Nat) : Bool :=
  let u := (x.queue q).cells
  let sh := match pool.find? fun p => p.covers q with | some p => (p.reserve, p.cap) | none => (0, 0)
  u + n ≤ sh.2 && n ≤ (sh.1 - u) + x.unreserved pool

/-- The POOL entries in force in quadrant x. -/
def State.poolOf (s : State) (x : QuadNo) : List PoolEntry :=
  match s.conf (xqIsl x) with | some c => c.pool x.val | none => []

/-- Whether a producer may open a packet on a queue now (R27, R28, R35, R143). -/
def State.canOpen (s : State) (x : QuadNo) (q n : Nat) : Bool :=
  queueExists x q && s.running (queueProducer x q) && s.awake (xqIsl x) && !((s.quad x).queue q).wedged &&
  ((s.quad x).queue q).openPkt.isNone && (s.quad x).admits (s.poolOf x) q n

/-- FULL of XQ_QSTAT (R31, R35, R41), where the producer's next open is of n cells: the pool would refuse it. It is clear, as after
reset, until the quadrant holds a configuration. -/
def State.queueFull (s : State) (x : QuadNo) (q n : Nat) : Bool :=
  let c := (s.quad x).queue q
  (s.conf (xqIsl x)).isSome && (c.wedged || c.cancelled || !(s.quad x).admits (s.poolOf x) q n)

/-- A queue with a whole packet put at its back, in the first of the cells claimed for it: the length word is written, unused cells
go back (R27, R29). -/
def CQueue.push (c : CQueue) (cells : List Nat) (p : Pkt) : CQueue :=
  { c with
    packets := c.packets ++ [{ p with
      length := BitVec.ofNat 16 p.words.length, cells := cells.take (cellsFor p.words.length), visible := false }]
    openPkt := none }

/-- A pool with a packet written whole into a queue (R27): its cells are claimed, and it is closed. -/
def Quad.enqueue (d : Quad) (q : Nat) (p : Pkt) : Quad :=
  d.setQueue q ((d.queue q).push (d.pick (cellsFor p.words.length)) p)

/-- A packet as a producer writes it: its words, its tag, whether its content came poisoned, and what it carries. -/
def pktOf (words : List PWord) (tag : BitVec 24) (poisonIn : Bool) (cargo : Cargo) : Pkt :=
  { words := words, length := 0, tag := tag, poisonIn := poisonIn, cargo := cargo }

/-- The packet that an outbox has for a queue next, where words written into the queue are its words. -/
def outMatch (x : QuadNo) (q : BitVec 16) (words : List PWord) (l : List OutPkt) : Option OutPkt :=
  (l.find? fun p => p.quad == x && p.queue == q).filter fun p => p.words.map (·.w) == words.map (·.w)

/-- An outbox once these words have been written into a queue: without the packet they are. -/
def outboxDone (x : QuadNo) (q : BitVec 16) (words : List PWord) (l : List OutPkt) : List OutPkt :=
  if (outMatch x q words l).isSome then l.eraseP fun p => p.quad == x && p.queue == q else l

/-- What is written for words of a producer: the packet its outbox has for the queue next, with that packet's cargo and poison, where
the words are its words; else words of which the manual says no more. -/
def pktFrom (x : QuadNo) (q : BitVec 16) (words : List PWord) (tag : BitVec 24) (poisonIn : Bool) (l : List OutPkt) : Pkt :=
  match outMatch x q words l with
  | some p => pktOf words tag (poisonIn || p.words.any (·.poison)) p.cargo
  | none => pktOf words tag poisonIn .words

/-- PACKET_CLOSE (R27, R29): the producer writes the rest of the words and then the length word. -/
def execPacketClose (x : QuadNo) (q : BitVec 16) (more : List PWord) (tag : BitVec 24) (poisonIn : Bool)
    (s : State) : Outcome :=
  match ((s.quad x).queue q.toNat).openPkt with
  | none => .next s
  | some o =>
    let words := o.words ++ more
    guarded (s.awake (queueProducer x q.toNat) && s.awake (xqIsl x) && 1 ≤ words.length && words.length ≤ 65535 &&
        cellsFor words.length ≤ o.cells.length) s
      (let k := queueProducer x q.toNat
      let p := pktFrom x q words tag poisonIn (s.isl k).outbox
      (s.onQuad x fun d => (d.setQueue q.toNat ((d.queue q.toNat).push o.cells p)).settle).onIsl k fun i =>
        { i with outbox := outboxDone x q words i.outbox })

/-- Marks the first packet that is not yet visible. -/
def showNext : List Pkt → List Pkt
  | [] => []
  | p :: r => if p.visible then p :: showNext r else { p with visible := true } :: r

/-- PACKET_VISIBLE (R30): the write pointer has crossed; the next closed packet becomes visible. -/
def execPacketVisible (x : QuadNo) (q : BitVec 16) (s : State) : Outcome :=
  guarded (s.awake (xqIsl x) && ((s.quad x).queue q.toNat).packets.any (fun p => !p.visible)) s
    (s.onQuad x fun d =>
      d.setQueue q.toNat { (d.queue q.toNat) with packets := showNext (d.queue q.toNat).packets })

/-- LENGTH as the consumer takes it from a length word some of whose bytes may fail parity (R35): bytes 0 and 1, or the complement of
LENGTH_CHK in bytes 5 and 6; none where neither pair passes, where both pass and disagree, or where a link fails. -/
def lengthTaken (o : ParityObs) (written : W64) : Option Nat :=
  let w := written ^^^ o.lenXor
  let low := !o.lenBytes.getLsbD 0 && !o.lenBytes.getLsbD 1
  let chk := !o.lenBytes.getLsbD 5 && !o.lenBytes.getLsbD 6
  let a := bits 16 w 0
  let b := ~~~(bits 16 w 40)
  if o.link then none
  else if low && chk then (if a = b then some a.toNat else none)
  else if low then some a.toNat
  else if chk then some b.toNat
  else none

/-- Whether anything failed parity. -/
def parityAny (o : ParityObs) : Bool := o.lenBytes != 0 || o.lenXor != 0 || o.link || !o.words.isEmpty

/-- The words of a packet as delivered: those that failed parity carry the poison tag (R33). -/
def parityApply (o : ParityObs) (words : List PWord) : List PWord :=
  words.zipIdx.map fun e => if o.words.contains e.2 then { e.1 with poison := true } else e.1

/-- The POOL events a reading raises: one for each word or link that failed (R34, R450), the first of them injected where an
injection made a word fail (R495). -/
def parityEvents (o : ParityObs) (cell words : Nat) (injected : Bool) : List DetEvent :=
  let n := (o.words.filter (· < words)).length + (if o.lenBytes = 0 then 0 else 1) + o.link.toNat
  let e (b : Bool) : DetEvent :=
    { code := 0x0301, inst := BitVec.ofNat 16 cell, arg := BitVec.ofNat 64 cell, injected := b }
  if n = 0 then [] else e injected :: List.replicate (n - 1) (e false)

/-- The check of a reading of a packet from the pool of quadrant x (R33, R34, R494): where an injection is armed at the cell named,
the word at `pos` fails too. What failed, and the state with its events. -/
def State.poolCheck (s : State) (x : QuadNo) (o : ParityObs) (pos : Nat) (p : Pkt) : ParityObs × State :=
  let cell := p.cells.getD o.inCell 0
  let j := if pos < p.words.length then s.inject (xqIsl x) 0x0301 cell else (false, s)
  let o1 := if j.1 then { o with words := pos :: o.words.filter (· != pos) } else o
  match parityEvents o1 cell p.words.length j.1 with
  | [] => (o1, j.2)
  | es => (o1, j.2.onIsl (xqIsl x) fun i => { i with detQueue := i.detQueue ++ es })

/-- The packet word that is read first from the cell the checkers name: cell 0 holds the length word and 63 words. -/
def firstWordOf (o : ParityObs) : Nat := 64 * o.inCell - 1

/-- A queue after its front packet has been read out: the packet is gone and its cells are free (R27, R39). -/
def CQueue.pop (c : CQueue) (o : ParityObs) : CQueue :=
  match c.packets with
  | [] => c
  | p :: r =>
    let ws := parityApply o p.words
    { c with
      packets := r
      readPos := 0
      paritySeen := c.paritySeen || (!p.abandoned && (o.lenBytes != 0 || o.words.any (· < p.words.length)))
      abandonSeen := c.abandonSeen || p.abandoned
      abandons := c.abandons + p.abandoned.toNat
      lastWord := if p.abandoned then c.lastWord else (ws.getLast?.map (·.w)).getD c.lastWord }

/-- The state after a queue's length word or link could not be recovered (R35). -/
def State.wedge (s : State) (x : QuadNo) (q : Nat) : State :=
  (s.onQuad x fun d => d.setQueue q { (d.queue q) with wedged := true }).emit (queueOwner x q)
    { code := 1, sev := sevLasting, arg := packW [put x.val 48, put q 0] }

/-- The consumer reads the front packet of a queue out of the pool (R33-R35, R39): the packet as delivered, none where there is none, it
was abandoned, or its length could not be recovered and the queue is wedged; and the state after it. -/
def State.readPacket (s : State) (x : QuadNo) (q : Nat) (o : ParityObs) : Option Pkt × State :=
  match ((s.quad x).queue q).packets with
  | [] => (none, s)
  | p :: _ =>
    let r := s.poolCheck x o (firstWordOf o) p
    match lengthTaken r.1 p.lengthWord with
    | none => (none, r.2.wedge x q)
    | some n =>
      (if p.abandoned then none else some { p with
          words := (parityApply r.1 p.words).take n, poisonIn := p.poisonIn || r.1.lenBytes != 0 },
        r.2.onQuad x fun d => (d.setQueue q ((d.queue q).pop r.1)).settle)

/-- QUEUE_WRITE_FULL (R37): a write while the queue is truly full is discarded; OVERRUN is set. -/
def execQueueWriteFull (x : QuadNo) (q : BitVec 16) (_w : W64) (s : State) : Outcome :=
  guarded (queueExists x q.toNat && s.awake (xqIsl x) && ((s.quad x).queue q.toNat).openPkt.isNone &&
      !(s.quad x).admits (s.poolOf x) q.toNat 1) s
    (s.onQuad x fun d => d.setQueue q.toNat { (d.queue q.toNat) with overrun := true })

/-- The next quadrant on the route from x to y (R16): the direct segment, or through the next-higher one. -/
def nextHop (x y : QuadNo) : QuadNo := if y = nextLower x then y else nextHigher x

/-- The ring queue in the pool of the next quadrant, on channel c (R24): from its next-higher or next-lower side. -/
def ringQueue (here next : QuadNo) (c : Nat) : Nat := if here = nextHigher next then 0x2060 + c else 0x2068 + c

/-- The virtual channel of a packet in a queue of the pool, for the ring (R534). -/
def channelOf (q : Nat) : Nat :=
  if q < 0x2000 then q % 8
  else if 0x2020 ≤ q && q < 0x2060 then (q - 0x2020) % 8
  else if 0x2060 ≤ q && q < 0x2070 then q % 8
  else if 0x2120 ≤ q then 0
  else if q % 4 = 0 then 2 else 0

/-- The queue from its quadrant to an island attached to it, for a packet on channel c: a fabric packet of class REQ
or ACK and control traffic (channels 0, 1, 6, 7) take the control queue, the others the data queue (log entry 12). -/
def queueTo (k : IslandNo) (c : Nat) : Nat :=
  let ctl := if c = 0 || c = 1 || c = 6 || c = 7 then 1 else 0
  if k.val < 32 then 0x2002 + 4 * (k.val % 8) + ctl else 0x2082 + 4 * svcLocal k + ctl

/-- The queue from an island to its quadrant, for a packet of channel c (R24, R486): the control queue or the data queue; a link group's
only one is that of its reports. -/
def queueFrom (k : IslandNo) (c : Nat) : Nat :=
  if 32 ≤ k.val && k.val < 48 then 0x2120 + k.val % 4
  else
    let ctl := if c = 0 || c = 1 || c = 6 || c = 7 then 1 else 0
    if k.val < 32 then 0x2000 + 4 * (k.val % 8) + ctl else 0x2080 + 4 * svcLocal k + ctl

/-- The queue from its quadrant to an island for a packet on channel c: for a link group, that channel's queue (R24). -/
def queueOut (k : IslandNo) (c : Nat) : Nat :=
  if 32 ≤ k.val && k.val < 48 then 0x2020 + 16 * (k.val % 4) + c % 8 else queueTo k c

/-! What a reset does to queues (R40, R41). -/

/-- A queue emptied by its owner's reset: an open of a producer that is writing is cancelled (R40, R41). -/
def CQueue.emptied (c : CQueue) : CQueue := { ({} : CQueue) with cancelled := c.cancelled || c.openPkt.isSome }

/-- A queue whose producer is reset with a packet open: it is closed ABANDONED with the words already written and
the unused cells returned (R41). -/
def CQueue.abandon (c : CQueue) : CQueue :=
  match c.openPkt with | some o => c.push o.cells { pktOf o.words 0 false .words with abandoned := true } | none => c

/-- The queues of one pool after island k is reset (R40, R41). -/
def Quad.afterReset (d : Quad) (x : QuadNo) (k : IslandNo) : Quad :=
  ({ d with queues := d.queues.map fun e =>
      if queueOwner x e.1 = k then (e.1, e.2.emptied)
      else if queueProducer x e.1 = k then (e.1, e.2.abandon) else e } : Quad).settle

/-- XQ_QSTAT of a queue (R42). -/
def qstatWord (full : Bool) (c : CQueue) : W64 :=
  packW [flag c.wedged 63, flag c.openPkt.isSome 62, flag c.isEmpty 61, flag full 60, flag c.paritySeen 55,
    flag c.abandonSeen 54, flag c.overrun 53, flag c.underrun 52, put (sat 16 c.cells) 32, put c.visibleCount 0]

end Sys2Proof.Machine
end

