-- ==== Sys2Proof/Machine/Fab.lean ====
section
/-! DEFINITION. Fabric packets and requests: how a unit makes a packet, times a request and answers one (R424-R436). -/

namespace Sys2Proof.Machine

/-- BLOCK_ID of this block, by CFG's store (R121). -/
def State.block (s : State) : BitVec 12 := match s.anyConf with | some c => c.blockId | none => 0

/-- Unit codes (R425). -/
def unitEph : BitVec 6 := 0x20
def unitCmd : BitVec 6 := 0x21
def unitMir : BitVec 6 := 0x22
def unitSvy : BitVec 6 := 0x23
def unitPs (p : SliceNo) : BitVec 6 := BitVec.ofNat 6 p.val

/-- The island of a unit code, if it is defined (R425). -/
def unitIsl (u : BitVec 6) : Option IslandNo :=
  if h : u.toNat < 32 then some ⟨u.toNat, by omega⟩
  else match u.toNat with | 0x20 => some ephIsl | 0x21 => some cmdIsl | 0x22 => some mirIsl | 0x23 => some svyIsl | _ => none

/-- Packet types (R427). -/
def ptRdReq : Nat := 0x01
def ptRdRsp : Nat := 0x02
def ptScale : Nat := 0x03
def ptWrReq : Nat := 0x04
def ptLookup : Nat := 0x05
def ptLookupRsp : Nat := 0x06
def ptRegister : Nat := 0x07
def ptObjReq : Nat := 0x08
def ptObjRsp : Nat := 0x09
def ptCmdx : Nat := 0x0A
def ptMvStart : Nat := 0x0B
def ptMvData : Nat := 0x0C
def ptCommit : Nat := 0x0D
def ptMirror : Nat := 0x0E
def ptFree : Nat := 0x0F
def ptPinSet : Nat := 0x10
def ptEvictReq : Nat := 0x11
def ptJoin : Nat := 0x12
def ptOcc : Nat := 0x13
def ptSig : Nat := 0x14
def ptRedData : Nat := 0x15
def ptAck : Nat := 0x7F

/-- The class of a packet type: 0 REQ, 1 DATA, 2 RSP, 3 ACK; none for a type not in the table (R426, R427). -/
def classOf (pt : Nat) : Option Nat :=
  if pt = ptRdReq || pt = ptLookup || pt = ptRegister || pt = ptObjReq || pt = ptCmdx || pt = ptMvStart || pt = ptFree ||
    pt = ptPinSet || pt = ptEvictReq || pt = ptJoin || pt = ptSig then some 0
  else if pt = ptWrReq || pt = ptMvData || pt = ptCommit || pt = ptRedData then some 1
  else if pt = ptRdRsp || pt = ptLookupRsp || pt = ptObjRsp || pt = ptMirror then some 2
  else if pt = ptOcc || pt = ptAck then some 3
  else none

/-- Status codes of answers (R429). -/
def fsOk : BitVec 4 := 0
def fsNotHome : BitVec 4 := 1
def fsNoObject : BitVec 4 := 2
def fsNoSpace : BitVec 4 := 3
def fsNotCompute : BitVec 4 := 4
def fsPinned : BitVec 4 := 5
def fsUnreachable : BitVec 4 := 6
def fsHalted : BitVec 4 := 7
def fsMismatch : BitVec 4 := 8

/-- The link word (R398, R424). -/
def linkWord (pt len : Nat) (dest src : BitVec 12) (hops : Nat) : W64 :=
  packW [put dest.toNat 52, put src.toNat 40, put len 16, put hops 8, put pt 0]

/-- The transaction word (R425). -/
def transWord (tid : BitVec 16) (dunit sunit : BitVec 6) (status : BitVec 4) (arg : BitVec 32) : W64 :=
  packW [put tid.toNat 48, put dunit.toNat 42, put sunit.toNat 36, put status.toNat 32, put arg.toNat 0]

/-- A packet's words: link word, transaction word, word 2 and what follows. -/
def fabWords (pt : Nat) (dest src : BitVec 12) (trans : W64) (rest : List W64) : List W64 :=
  linkWord pt (rest.length + 2) dest src 0 :: trans :: rest

/-- Word 2 (R427). -/
def word2 (oid : BitVec 40) (idx : BitVec 24) : W64 := packW [put oid.toNat 24, put idx.toNat 0]

/-- A home word (R427). -/
def homeWord (h : HomeWord) : W64 := packW [flag h.valid 31, put h.slice.toNat 12, put h.block.toNat 0]
def noHome : HomeWord := { valid := false, slice := 0, block := 0 }

/-- The route entry for a block under the configuration of a quadrant (R430). -/
def State.routeOf (s : State) (x : QuadNo) (b : BitVec 12) : BitVec 32 :=
  match s.conf (xqIsl x) with | some c => c.route b.toNat | none => 0

/-- The quadrant that holds the per-peer queues of a block, and the queue of a channel (R432). -/
def peerQuad (b : BitVec 12) : QuadNo := Fin.ofNat 4 b.toNat
def peerQueue (b : BitVec 12) (v : Nat) : Nat := 8 * (b.toNat / 4) + v

/-- Fields of a packet's first two words (R424, R425). -/
structure PktHead where
  dest : BitVec 12
  src : BitVec 12
  hops : Nat
  ptype : Nat
  tid : BitVec 16
  dunit : BitVec 6
  sunit : BitVec 6
  status : BitVec 4
  arg : BitVec 32
  word2 : W64
deriving DecidableEq, Repr, Inhabited

/-- The head of a packet. -/
def pktHead (ws : List PWord) : PktHead :=
  let w (i : Nat) : W64 := ((ws[i]?).map (·.w)).getD 0
  { dest := bits 12 (w 0) 52, src := bits 12 (w 0) 40, hops := fld (w 0) 11 8, ptype := fld (w 0) 7 0, tid := bits 16 (w 1) 48
    dunit := bits 6 (w 1) 42, sunit := bits 6 (w 1) 36, status := bits 4 (w 1) 32, arg := bits 32 (w 1) 0, word2 := w 2 }

/-! The way of a packet over the crossbar (R16, R430-R434, R534). -/

/-- The other slice of a pair (R289). -/
def twinOf (p : SliceNo) : SliceNo := Fin.ofNat 32 (if p.val % 2 = 0 then p.val + 1 else p.val - 1)

/-- The island that takes the packets of class c for a unit: of a slice whose port end its twin serves, the twin (R294, R433); none
where the unit cannot be given the packet (R434). A QUIESCED unit starts no new work (R143), so it is quiesced against REQ and DATA
packets, and takes RSP and ACK packets, which end work in progress (log entry 64). -/
def State.takerOf (s : State) (u : BitVec 6) (c : Nat) : Option IslandNo :=
  let takes (k : IslandNo) : Option IslandNo := if s.running k || (s.awake k && 2 ≤ c) then some k else none
  match unitIsl u with
  | none => none
  | some k =>
    if h : u.toNat < 32 then
      let p : SliceNo := ⟨u.toNat, h⟩
      if (s.slice p).mp.bridged && (s.slice p).dataShut then takes (psIsl (twinOf p)) else takes k
    else takes k

/-- What a quadrant does next with a packet it holds. -/
inductive Leg where
  /-- It writes it into a queue of a pool. -/
  | queue (y : QuadNo) (q : Nat)
  /-- It discards it, counted in the register at an offset (R433). -/
  | lost (ctr : Nat)
  /-- It cannot deliver it (R424, R434). -/
  | undeliverable
deriving DecidableEq, Repr, Inhabited

/-- The next queue of a packet on channel ch at quadrant x that is bound for an island (R16, R24). -/
def legTo (x : QuadNo) (k : IslandNo) (ch : Nat) : Leg :=
  let y := quadOf k
  if y = x then .queue x (queueOut k ch) else .queue (nextHop x y) (ringQueue x (nextHop x y) ch)

/-- The island for which a packet of this block's own traffic is bound; of words the manual does not describe, `other`. -/
def Cargo.dest (c : Cargo) (other : IslandNo) : IslandNo :=
  match c with
  | .plate dst .. | .write dst .. | .scale dst .. | .almanac dst .. => psIsl dst
  | .image dst .. | .bridgeReq dst _ | .bridgeLine dst .. => psIsl dst
  | .imageAgain .. | .hist .. => spgIsl
  | .report _ => logIsl
  | .outbound g => lgIsl g
  | .fabric _ | .words => other

/-- Where quadrant x sends a packet that has come on channel ch: a fabric packet for a unit of this block to the unit, one for another
block to that block's per-peer queue on the channel of its class and of its route's direction (R426, R432, R433), and any other to
the island it is bound for. -/
def State.leg (s : State) (x : QuadNo) (p : Pkt) (ch : Nat) (other : IslandNo) : Leg :=
  match p.cargo with
  | .fabric c =>
    let h := pktHead p.words
    if h.dest = s.block then
      if h.ptype != ptScale && (classOf h.ptype).isNone then .undeliverable
      else match s.takerOf h.dunit c with | some k => legTo x k ch | none => .undeliverable
    else
      let e := s.routeOf x h.dest
      let y := peerQuad h.dest
      if !rtValid e then .lost xqNoroute
      else if y = x then .queue x (peerQueue h.dest (2 * c + rtDir e))
      else .queue (nextHop x y) (ringQueue x (nextHop x y) (2 * c + rtDir e))
  | k => legTo x (k.dest other) ch

/-- The queue into which island k writes a packet of class c that it makes: its own data or control queue (log entry 12); a quadrant
writes it where the packet goes next; none where the packet cannot go. -/
def State.firstQueue (s : State) (k : IslandNo) (p : Pkt) (c : Nat) : Option (QuadNo × Nat) :=
  if 48 ≤ k.val && k.val < 52 then
    match s.leg (quadOf k) p (2 * c) k with | .queue y q => some (y, q) | _ => none
  else some (quadOf k, queueFrom k (2 * c))

/-- Island k makes a fabric packet of class c and has it to send (R426, R432). -/
def State.sendFabric (s : State) (k : IslandNo) (c : Nat) (words : List W64) (poison : Bool := false) : State :=
  let ws : List PWord := words.map fun w => { w := w, poison := poison }
  match s.firstQueue k (pktOf ws 0 poison (.fabric c)) c with
  | some d => s.send k { quad := d.1, queue := BitVec.ofNat 16 d.2, words := ws, cargo := .fabric c }
  | none => s

/-- A packet that a unit makes (R427): it waits in the unit's outbox for its queue to the quadrant. -/
def State.post (s : State) (sunit : BitVec 6) (pt : Nat) (words : List W64) (poison : Bool := false) : State :=
  match unitIsl sunit with
  | some k => s.sendFabric k ((classOf pt).getD 1) words poison
  | none => s

/-- A packet that quadrant x cannot deliver or send on (R424, R433, R434): one of class REQ or DATA is answered with an ACK of status
UNREACHABLE; a scale line goes with its plate. -/
def State.bounce (s : State) (x : QuadNo) (c : Nat) (ws : List PWord) : State :=
  let h := pktHead ws
  if c < 2 && h.ptype != ptScale && (classOf h.ptype).isSome then
    s.sendFabric (xqIsl x) 3 (fabWords ptAck h.src s.block (transWord h.tid h.sunit h.dunit fsUnreachable 0)
      [h.word2, homeWord noHome, 0])
  else s

/-- What quadrant x does with a packet it has read out, on its way on (R432-R434): where it goes into a per-peer queue, or to its
unit, it is counted; where it cannot go on it is counted and answered. -/
def State.goOn (s : State) (x : QuadNo) (p : Pkt) (l : Leg) : State :=
  match l with
  | .queue y q =>
    let s1 := s.onQuad y fun d => d.enqueue q { p with words := p.carried, poisonIn := p.poisoned }
    match p.cargo with
    | .fabric _ =>
      if q < 0x2000 then (if (pktHead p.words).src = s.block then s1.bump (xqIsl x) xqFabTxPkts else s1)
      else if (0x2060 ≤ q && q < 0x2070) then s1 else s1.bump (xqIsl x) xqFabRxPkts
    | _ => s1
  | .lost off => match p.cargo with
    | .fabric c =>
      let s1 := s.bump (xqIsl x) off
      if (pktHead p.words).src = s.block then s1.bounce x c p.words else s1
    | _ => s
  | .undeliverable => match p.cargo with
    | .fabric c => (s.bump (xqIsl x) xqBadPkt).bounce x c p.words
    | _ => s

/-- Whether a packet can be written into the queue that a leg names (R27, R35). -/
def State.legOpen (s : State) (l : Leg) (p : Pkt) : Bool :=
  match l with
  | .queue y q =>
    let d := s.quad y
    s.awake (xqIsl y) && !(d.queue q).wedged && (d.queue q).openPkt.isNone && d.admits (s.poolOf y) q p.cells.length
  | _ => true

/-- Whether quadrant x takes a packet on a leg (R143): one that is quiesced, or asked to be, opens none, and takes only what it discards. -/
def State.mayLeg (s : State) (x : QuadNo) (l : Leg) : Bool :=
  match l with | .lost _ => s.awake (xqIsl x) | _ => s.begins (xqIsl x)

/-- The channel on which a packet in a queue of a quadrant goes on (R426, R534). -/
def pktChannel (q : Nat) (p : Pkt) : Nat :=
  match p.cargo with
  | .fabric c => if 0x2020 ≤ q && q < 0x2070 then channelOf q else 2 * c
  | _ => channelOf q

/-- QUADRANT_FORWARD (R16, R33, R432-R434, R534): the quadrant takes the front packet of a queue it consumes and writes it whole into
the next queue towards the island, or the block, that it is bound for; `dest` says where words go of which the manual does not. -/
def execQuadrantForward (x : QuadNo) (q : BitVec 16) (dest : IslandNo) (parity : ParityObs) (s : State) : Outcome :=
  let c := (s.quad x).queue q.toNat
  match c.packets with
  | [] => .next s
  | p :: _ =>
    let l := s.leg x p (pktChannel q.toNat p) dest
    guarded (s.mayLeg x l && 0x2000 ≤ q.toNat && queueOwner x q.toNat == xqIsl x && p.visible && !c.wedged &&
        !(0x2020 ≤ q.toNat && q.toNat < 0x2060) && (dest.val < 48 || 52 ≤ dest.val) && s.legOpen l p) s
      (let r := s.readPacket x q.toNat parity
      match r.1 with
      | none => r.2
      | some p => r.2.goOn x p l)

/-- The words of a stored plate as it travels (R427). -/
def plateWords (d : PlateWords) : List W64 := bytesWords d.body

/-- Posts a packet that carries a stored plate, its scale line first (R154, R427). -/
def State.postData (s : State) (dest : BitVec 12) (sunit : BitVec 6) (pt : Nat) (trans : W64) (rest : List W64)
    (data : PlateWords) : State :=
  let s1 := if data.scale.isEmpty then s
    else s.post sunit pt (fabWords ptScale dest s.block trans (rest.take 1 ++ bytesWords (fit 512 data.scale)))
  s1.post sunit pt (fabWords pt dest s.block trans (rest ++ plateWords data)) data.poison

/-- A TID that no request outstanding in the unit bears; which one is free (R428, log entry 1). -/
def freshTid (reqs : List FabReq) (unit : BitVec 6) (start : Nat) : BitVec 16 :=
  let used := (reqs.filter fun r => r.unit == unit).map (·.tid)
  ((List.range (used.length + 1)).map fun i => BitVec.ofNat 16 (start + i)).find? (fun t => !used.contains t) |>.getD 0

/-- The cycle count of a unit's island. -/
def State.unitNow (s : State) (u : BitVec 6) : Ctr := match unitIsl u with | some k => s.now k | none => 0

/-- Sends a request and starts timing it (R428, R436). -/
def State.request (s : State) (r : FabReq) : State :=
  let f := s.freeNat
  let tid := freshTid s.reqs r.unit f.1
  let r1 := { r with tid := tid, at_ := s.unitNow r.unit }
  let s1 : State := { f.2 with reqs := s.reqs ++ [r1] }
  s1.postData r.dest r.unit r.ptype (transWord tid r.dunit r.unit r.status r.arg) (word2 r.oid r.idx :: r.rest) r.data

/-- Takes the outstanding request a unit's answer names; none where it is late (R428). -/
def State.findReq (s : State) (unit : BitVec 6) (tid : BitVec 16) : Option FabReq :=
  s.reqs.find? fun r => r.unit == unit && r.tid == tid
def State.dropReq (s : State) (unit : BitVec 6) (tid : BitVec 16) : State :=
  { s with reqs := s.reqs.filter fun r => !(r.unit == unit && r.tid == tid) }
/-- A late answer is discarded and counted (R428). -/
def State.lateAnswer (s : State) : State := s.bump ephIsl ephLate

/-- Answers a request with an ACK (R427). -/
def State.ackTo (s : State) (r : Requester) (sunit : BitVec 6) (status : BitVec 4) (oid : BitVec 40) (idx : BitVec 24)
    (home : HomeWord := noHome) (plates : Nat := 0) (arg : BitVec 32 := 0) : State :=
  s.post sunit ptAck (fabWords ptAck r.block s.block (transWord r.tid r.unit sunit status arg)
    [word2 oid idx, homeWord home, put (min plates 0xFFFFFF) 0])

end Sys2Proof.Machine
end

