-- ==== Sys2Proof/Machine/Eph.lean ====
section
/-! DEFINITION. Shared operations of the Ephemeris: the directory, homes, frames, written plates, dark plates, halts
(R155-R168, R413-R422, R454, R455, R468). -/

namespace Sys2Proof.Machine

/-! Managers (R413, R414, R478). -/

/-- The configuration in force in EPH. -/
def State.ephConf (s : State) : Conf := (s.conf ephIsl).getD { streamId := 0, recs := [] }

/-- Whether two entries are of the same thing: MIR's copy of an entry, and the entry. -/
def DirEnt.sameKey (a b : DirEnt) : Bool := a.obj.oid == b.obj.oid && a.kind == b.kind

/-- Whether this block acts as manager of a domain: its primary, or its mirror after takeover (R478). -/
def State.actsFor (s : State) (d : Nat) : Bool :=
  let c := s.ephConf
  c.domain.toNat == d && (c.role == 1 || (c.role == 2 && s.eph.acting.getLsbD d && s.eph.unmirrored.getLsbD d))

/-- The manager table entry of a domain, the own one from DOMAIN (R414). -/
def State.mgrEntry (s : State) (d : Nat) : MgrEnt :=
  let c := s.ephConf
  if c.domain.toNat == d then { valid := (s.conf ephIsl).isSome, manager := c.manager, mirror := c.mirrorBlock }
  else s.eph.mgr[Fin.ofNat 16 d]

/-- The block that manager requests for a domain go to; none where the entry is not valid (R414, R478). -/
def State.managerOf (s : State) (d : Nat) : Option (BitVec 12) :=
  let e := s.mgrEntry d
  if !e.valid then none else some (if s.eph.acting.getLsbD d then e.mirror else e.manager)

/-! Pairs (R289, R294). -/

/-- Whether somebody does the home duties for a slice's device: the slice itself; its twin, once it has taken them up
(R294); or, for a lost device, the Ephemeris, which only places its spans anew (R472). -/
def State.homeLive (s : State) (p : SliceNo) : Bool :=
  s.eph.gone.getLsbD p.val ||
    ((s.isl (psIsl p)).live && ((s.awake (psIsl p) && !(s.slice p).dataShut) ||
      ((s.slice p).mp.bridged && s.awake (psIsl (twinOf p)) && !(s.slice (twinOf p)).dataShut)))

/-! Joint devices (R291). -/

/-- Whether a slice's pair is joined from start-up (R123, R291). -/
def State.isJoint (s : State) (p : SliceNo) : Bool := match s.anyConf with | some c => c.joined (p.val / 2) | none => false
/-- The slice as which a home is recorded: PS2k of a pair joined from start-up. -/
def State.homeSlice (s : State) (p : SliceNo) : SliceNo := if s.isJoint p then Fin.ofNat 32 (p.val / 2 * 2) else p
/-- The port and the port's line that hold a line of a home's device. -/
def State.portLine (s : State) (p : SliceNo) (a : Nat) : SliceNo × Nat :=
  if s.isJoint p then (Fin.ofNat 32 (p.val / 2 * 2 + a % 2), a / 2) else (p, a)

/-! The directory (R417-R419). -/

/-- Whether a RUN or SPAN entry covers a span, and then the slice and the base extent of its frame; the entry of a span on
its way here covers none yet (R438). -/
def DirEnt.frameOf (e : DirEnt) (span : Nat) : Option (SliceNo × Nat) :=
  if e.incoming then none else
  match e.kind with
  | .run sl s0 count base =>
    let ic := max 1 e.icount
    if s0 ≤ span && (span - s0) % ic = 0 && (span - s0) / ic < count then some (sl, base + (span - s0) / ic * e.extents)
    else none
  | .span sl t base => if t = span then some (sl, base) else none
  | _ => none

/-- The entry that serves a span of an object. -/
def EphS.entryFor (h : EphS) (oid : BitVec 40) (span : Nat) : Option DirEnt :=
  h.dir.find? fun e => e.obj.oid == oid && (e.frameOf span).isSome
/-- The OBJECT entry of an object. -/
def EphS.objectEnt (h : EphS) (oid : BitVec 40) : Option DirEnt := h.dir.find? fun e => e.obj.oid == oid && e.kind == .object
/-- Whether an AWAY entry covers a span. -/
def EphS.isAway (h : EphS) (oid : BitVec 40) (span : Nat) : Bool :=
  h.dir.any fun e => e.obj.oid == oid && e.kind == .away span

/-- Whether an entry has no frame that can be written: its device is lost (R472), or the span came here with no plate
written. -/
def DirEnt.noFrame (e : DirEnt) : Bool := e.lost || e.extents == 0

/-- How a block answers an access to a span (R419, R438). -/
inductive Serve where
  /-- Served by a slice from the frame at this base line. -/
  | at (slice : SliceNo) (base : Nat) (e : DirEnt)
  /-- Unwritten: served as R159 states by the default home slice. -/
  | unwritten (slice : SliceNo) (obj : ObjRec)
  | notHome
deriving DecidableEq, Repr, Inhabited

/-- How this block answers an access to a span (R419, R438). -/
def EphS.serves (h : EphS) (oid : BitVec 40) (span : Nat) : Serve :=
  match h.entryFor oid span with
  | some e => (match e.frameOf span with | some f => .at f.1 (16 * f.2) e | none => .notHome)
  | none =>
    match h.objectEnt oid with
    | some e =>
      if h.isAway oid span then .notHome
      else .unwritten (Fin.ofNat 32 (defaultSlice e.islice e.icount oid span)) e.obj
    | none => .notHome

/-- The slice that serves a span here, if one does. -/
def Serve.slice? : Serve → Option SliceNo
  | .at p _ _ => some p | .unwritten p _ => some p | .notHome => none

/-- Directory entries in use, and free ones without the 64 held back (R418). -/
def EphS.dirFree (h : EphS) : Nat := 131008 - h.dir.length

/-! Placement map and cache (R415, R416, R420). -/

/-- The object entry of a map. -/
def PMap.obj (m : PMap) (oid : BitVec 40) : Option MapObj := m.objs.find? fun o => (ObjRec.ofWords o.obj).oid == oid
/-- The override entry of a span's group. -/
def PMap.ovr (m : PMap) (oid : BitVec 40) (span : Nat) : Option MapOvr :=
  m.ovrs.find? fun o => o.oid == oid && o.group == span / 8
/-- Entries of a map. -/
def PMap.size (m : PMap) : Nat := m.objs.length + m.ovrs.length

/-- The default home of a span (R416). -/
def MapObj.home (o : MapObj) (span : Nat) : HomeAt :=
  { block := o.cblock, slice := Fin.ofNat 32 (defaultSlice o.islice o.icount (ObjRec.ofWords o.obj).oid span) }

/-- The home a map gives for a span (R416). -/
def PMap.home (m : PMap) (oid : BitVec 40) (span : Nat) : Option HomeAt :=
  let def_ := (m.obj oid).map fun o => o.home span
  match m.ovr oid span with
  | some v =>
    let sl := v.slots[Fin.ofNat 8 span]
    if sl.valid then some { block := sl.block, slice := Fin.ofNat 32 sl.slice.toNat } else def_
  | none => def_

/-- A cache entry put in place of an older copy of it (R420). -/
def PMap.cacheObj (m : PMap) (o : MapObj) : PMap :=
  { m with objs := o :: m.objs.filter fun p => (ObjRec.ofWords p.obj).oid != (ObjRec.ofWords o.obj).oid }
def PMap.cacheOvr (m : PMap) (v : MapOvr) : PMap :=
  { m with ovrs := v :: m.ovrs.filter fun p => !(p.oid == v.oid && p.group == v.group) }
/-- The entries of a cache with these keys. -/
def PMap.keep (m : PMap) (ks : List (BitVec 40 × Option Nat)) : PMap :=
  { objs := m.objs.filter fun o => ks.contains ((ObjRec.ofWords o.obj).oid, none)
    ovrs := m.ovrs.filter fun v => ks.contains (v.oid, some v.group) }

/-- Entries of the placement cache have been used: they are the most recent, and of more than 65,536 the least recently used go (R420). -/
def EphS.useKeys (h : EphS) (l : List (BitVec 40 × Option Nat)) : EphS :=
  let order := l ++ h.cacheUse.filter fun k => !l.contains k
  let cache := if order.length ≤ 65536 then h.cache else h.cache.keep (order.take 65536)
  { h with cacheUse := order.take 65536, cache := cache }

/-- The entries of an answer are put into the cache (R420). -/
def EphS.fillCache (h : EphS) (o : Option MapObj) (v : Option MapOvr) : EphS :=
  let c1 := match o with | some o => h.cache.cacheObj o | none => h.cache
  let c2 := match v with | some v => c1.cacheOvr v | none => c1
  ({ h with cache := c2 } : EphS).useKeys
    ((o.toList.map fun o => ((ObjRec.ofWords o.obj).oid, none)) ++ v.toList.map fun v => (v.oid, some v.group))
/-- Drops the override entry of a span's group (R420). -/
def PMap.dropOvr (m : PMap) (oid : BitVec 40) (span : Nat) : PMap :=
  { m with ovrs := m.ovrs.filter fun p => !(p.oid == oid && p.group == span / 8) }

/-- A map with one slot of a group's override entry set; an entry none of whose slots is VALID or PINNED goes (R415). -/
def PMap.setSlot (m : PMap) (oid : BitVec 40) (span : Nat) (f : OvrSlot → OvrSlot) : PMap :=
  let old := (m.ovr oid span).getD { oid := oid, group := span / 8 }
  let i : Fin 8 := Fin.ofNat 8 span
  let new := { old with slots := old.slots.set i (f old.slots[i]) }
  let rest := (m.dropOvr oid span).ovrs
  { m with ovrs := if new.slots.toList.any fun t => t.valid || t.pinned then rest ++ [new] else rest }

/-- A map in which a span's home is h (R416, R437): a home at the default needs no VALID slot. -/
def PMap.setHome (m : PMap) (oid : BitVec 40) (span : Nat) (h : HomeAt) : PMap :=
  let dflt := (m.obj oid).map fun o => o.home span
  m.setSlot oid span fun t =>
    if dflt == some h then { t with valid := false, slice := 0, block := 0 }
    else { t with valid := true, slice := BitVec.ofNat 5 h.slice.val, block := h.block }

/-- The home to which a span has moved from this block (R437). -/
def EphS.movedTo (h : EphS) (oid : BitVec 40) (span : Nat) : Option HomeAt :=
  (h.moved.find? fun e => e.1 == oid && e.2.1 == span).map fun e => e.2.2

/-- The home of a span as this block knows it; none where a LOOKUP is needed (R420). An entry that names this block for a
span it does not serve is stale, as a NOT_HOME of its own would show (R419). -/
def State.homeOf (s : State) (oid : BitVec 40) (span : Nat) : Option HomeAt :=
  match (s.eph.serves oid span).slice? with
  | some p => some { block := s.block, slice := p }
  | none =>
    match s.eph.cache.home oid span with
    | some h => if h.block != s.block then some h else s.eph.movedTo oid span
    | none => none

/-- The record of an object as this block knows it; none where a query is needed. -/
def State.recordOf (s : State) (oid : BitVec 40) : Option ObjRec :=
  match s.eph.dir.find? fun e => e.obj.oid == oid with
  | some e => some e.obj
  | none =>
    match (if s.actsFor (domainOf oid) then s.eph.map else s.eph.cache).obj oid with
    | some o => some (ObjRec.ofWords o.obj)
    | none => (s.eph.queried.find? fun w => (ObjRec.ofWords w).oid == oid).map ObjRec.ofWords

/-- The home word of a home. -/
def HomeAt.word (h : HomeAt) : HomeWord := { valid := true, slice := BitVec.ofNat 5 h.slice.val, block := h.block }

/-- The home word in which a NOT_HOME answer names a span's new home, where this block knows it from a move away (R419, R437, R438). -/
def State.newHome (s : State) (oid : BitVec 40) (span : Nat) : HomeWord :=
  match s.eph.movedTo oid span with | some h => h.word | none => noHome

/-- Whether a LOOKUP for a span's group is outstanding. -/
def State.lookupOut (s : State) (oid : BitVec 40) (span : Nat) : Bool :=
  s.reqs.any fun r => r.ptype == ptLookup && r.oid == oid && r.idx.toNat / 8 == span / 8

/-- Sends a LOOKUP unless one for the group is outstanding; false where the manager's entry is not valid (R414, R420). -/
def State.lookup (s : State) (oid : BitVec 40) (span : Nat) : Bool × State :=
  match s.managerOf (domainOf oid) with
  | none => (false, s)
  | some m =>
    if s.lookupOut oid span then (true, s)
    else
      let e : EphS := { s.eph with lookedUp := (s.eph.lookedUp.filter (· != (oid, span / 8))) ++ [(oid, span / 8)] }
      (true, (({ s with eph := e } : State).request {
        unit := unitEph, tid := 0, ptype := ptLookup, dest := m, dunit := unitEph, oid := oid, idx := BitVec.ofNat 24 span
        why := .lookup }).bump ephIsl ephLookups)

/-- The keys of the cache's entries that give a span's home: its group's override entry, and the object's where no slot there is VALID
(R420). -/
def EphS.keysFor (h : EphS) (oid : BitVec 40) (span : Nat) : List (BitVec 40 × Option Nat) :=
  if (h.serves oid span).slice?.isSome then []
  else match h.cache.ovr oid span with
    | some v => (oid, some (span / 8)) :: if v.slots[Fin.ofNat 8 span].valid then [] else [(oid, none)]
    | none => if (h.cache.obj oid).isSome then [(oid, none)] else []

/-- An access has found its home (R447): counted, unless it is the one whose LOOKUP has just been answered; the cache's entries for it
have been used. -/
def State.foundHome (s0 : State) (oid : BitVec 40) (span : Nat) : State :=
  let s : State := { s0 with eph := s0.eph.useKeys (s0.eph.keysFor oid span) }
  if s.eph.lookedUp.contains (oid, span / 8) then
    { s with eph := { s.eph with lookedUp := s.eph.lookedUp.filter (· != (oid, span / 8)) } }
  else s.bump ephIsl ephCacheHits

/-- What a NOT_HOME answer does to the cache (R420): the override entry goes; where the home that the rest of the cache names is
the one that has answered, the object entry goes too, so that the manager is asked. -/
def State.forgetHome (s : State) (oid : BitVec 40) (span : Nat) (b : BitVec 12) : State :=
  let c := s.eph.cache.dropOvr oid span
  let stale := (c.home oid span).map (·.block) == some b
  let c1 := if stale then { c with objs := c.objs.filter fun o => (ObjRec.ofWords o.obj).oid != oid } else c
  let use := s.eph.cacheUse.filter fun k => k != (oid, some (span / 8)) && !(stale && k == (oid, none))
  { s with eph := { s.eph with cache := c1, cacheUse := use } }

/-! Frames (R166, R417, R418, R421). -/

/-- Takes n extents from a free run list at its run number i. -/
def takeRun (l : List FreeRun) (i n : Nat) : List FreeRun :=
  (l.zipIdx.map fun e =>
    if e.2 = i then { first := e.1.first + n, count := e.1.count - n : FreeRun } else e.1).filter fun r => r.count != 0

/-- Takes n extents at a given place, if they are free. -/
def takeAt (l : List FreeRun) (first n : Nat) : Option (List FreeRun) :=
  match l.find? fun r => r.first ≤ first && first + n ≤ r.first + r.count with
  | none => none
  | some r => some ((l.flatMap fun q =>
      if q = r then [{ first := r.first, count := first - r.first : FreeRun },
        { first := first + n, count := r.first + r.count - (first + n) : FreeRun }] else [q]).filter fun q => q.count != 0)

/-- A run put back in order and merged with the runs it touches (R421). -/
def mergeRun (l : List FreeRun) (r : FreeRun) : List FreeRun :=
  let before := l.filter fun q => q.first < r.first
  let after := l.filter fun q => r.first < q.first
  let b := before.getLast?
  let joinB := match b with | some q => q.first + q.count == r.first | none => false
  let joinA := match after with | q :: _ => r.first + r.count == q.first | [] => false
  let first := if joinB then (b.map (·.first)).getD r.first else r.first
  let stop := if joinA then (after.head?.map fun q => q.first + q.count).getD (r.first + r.count) else r.first + r.count
  (if joinB then before.dropLast else before) ++ [{ first := first, count := stop - first : FreeRun }] ++
    (if joinA then after.drop 1 else after)

/-- Whether a freed run joins a run of the list. -/
def joinsRun (l : List FreeRun) (r : FreeRun) : Bool :=
  l.any fun q => q.first + q.count == r.first || r.first + r.count == q.first

/-- Runs of all devices together: the run table holds 131,072 (R421). -/
def EphS.runCount (h : EphS) : Nat := (h.free.toList.map (·.length)).sum

/-- A frame claimed on a slice: at `at_` where that place is named and free, else in a free run that is long enough,
which one being free (R417, log entry 1). Answers the base extent. -/
def State.claim (s : State) (p : SliceNo) (n : Nat) (at_ : Option Nat) : Option Nat × State :=
  let l := s.eph.free[p]
  let set (fr : List FreeRun) (t : State) : State := { t with eph := { t.eph with free := t.eph.free.set p fr } }
  match at_.bind fun a => (takeAt l a n).map fun fr => (a, fr) with
  | some r => (some r.1, set r.2 s)
  | none =>
    let fits := l.zipIdx.filter fun e => n ≤ e.1.count
    if fits.isEmpty then (none, s)
    else
      let f := s.freeNat
      let e := fits.getD (f.1 % fits.length) default
      (some e.1.first, set (takeRun l e.2 n) f.2)

/-- A frame given back (R421): merged, or put in the overflow where the run table is full. -/
def State.release (s : State) (p : SliceNo) (base n : Nat) : State :=
  if n = 0 then s
  else
    let r : FreeRun := { first := base, count := n }
    let l := s.eph.free[p]
    let eph1 :=
      if joinsRun l r || s.eph.runCount < 131072 then { s.eph with free := s.eph.free.set p (mergeRun l r) }
      else { s.eph with overflow := s.eph.overflow ++ [(p, r)] }
    let forget (lo hi : Nat) (sl : Slice) : Slice :=
      { sl with home := { sl.home with touched := sl.home.touched.filter fun e => !(lo ≤ e && e < hi) } }
    let s1 : State := { s with eph := eph1 }
    if s.isJoint p then (s1.onSlice (s.portLine p 0).1 (forget base (base + n))).onSlice (s.portLine p 1).1 (forget base (base + n))
    else s1.onSlice p (forget (2 * base) (2 * (base + n)))

/-- The entries of a directory after a span leaves its RUN or SPAN entry (R418). -/
def dirRemove (dir : List DirEnt) (oid : BitVec 40) (span : Nat) : List DirEnt :=
  dir.flatMap fun e =>
    if e.obj.oid != oid then [e]
    else match e.kind with
      | .span _ t _ => if t = span && !e.incoming then [] else [e]
      | .run sl s0 count base =>
        if (e.frameOf span).isNone then [e]
        else
          let ic := max 1 e.icount
          let pos := (span - s0) / ic
          let keep (k : DirKind) := { e with kind := k }
          if count = 1 then []
          else if pos + 1 = count then [keep (.run sl s0 (count - 1) base)]
          else if pos = 0 then [keep (.run sl (s0 + ic) (count - 1) (base + e.extents))]
          else [keep (.run sl s0 pos base), keep (.run sl (span + ic) (count - pos - 1) (base + (pos + 1) * e.extents))]
      | _ => [e]

/-- Whether the directory has room for what a span's leaving its entry makes of it, with n entries more: a split that finds no entry
free waits (R418). -/
def EphS.leaveFits (h : EphS) (oid : BitVec 40) (span n : Nat) : Bool := (dirRemove h.dir oid span).length + n ≤ 131072

/-- The RUN that a span written first on its default home extends (R417). -/
def EphS.runBefore (h : EphS) (obj : ObjRec) (p : SliceNo) (span ext : Nat) : Option DirEnt :=
  h.dir.find? fun e => e.obj.oid == obj.oid && e.extents == ext &&
    match e.kind with | .run sl s0 count _ => sl == p && s0 + count * max 1 e.icount == span | _ => false

/-- The extent right after a RUN's last frame. -/
def DirEnt.runEnd (e : DirEnt) : Nat := match e.kind with | .run _ _ count base => base + count * e.extents | _ => 0

/-- Makes the entry of a span whose frame was just claimed (R417). -/
def EphS.addFrame (h : EphS) (obj : ObjRec) (p : SliceNo) (span base ext : Nat) (asRun : Bool) (now : Ctr) : EphS :=
  match h.objectEnt obj.oid, h.runBefore obj p span ext with
  | some o, some r =>
    if asRun && r.runEnd = base then
      { h with dir := h.dir.map fun e => if e = r then
          (match e.kind with | .run sl s0 c b => { e with kind := .run sl s0 (c + 1) b, stamp := now } | _ => e) else e }
    else { h with dir := h.dir ++ [{ obj := obj, extents := ext, stamp := now, icount := o.icount, islice := o.islice
                                     kind := if asRun then .run p span 1 base else .span p span base }] }
  | some o, none =>
    { h with dir := h.dir ++ [{ obj := obj, extents := ext, stamp := now, icount := o.icount, islice := o.islice
                                kind := if asRun then .run p span 1 base else .span p span base }] }
  | none, _ => { h with dir := h.dir ++ [{ obj := obj, extents := ext, stamp := now, kind := .span p span base }] }

/-- A directory change reaches MIR's copy as it is made (R461, log entry 15). -/
def State.mirDir (s : State) : State :=
  if s.awake mirIsl then { s with eph := { s.eph with mirDir := s.eph.dir } } else s

/-- Stamps the entry that covers a span with the EPH cycle count (R417). -/
def State.touchSpan (s : State) (oid : BitVec 40) (span : Nat) : State :=
  { s with eph := { s.eph with
    dir := s.eph.dir.map fun e => if e.obj.oid == oid && (e.frameOf span).isSome then { e with stamp := s.now ephIsl } else e } }

/-! Written, poisoned and lost plates (R159, R255, R472). -/

def EphS.isWritten (h : EphS) (oid : BitVec 40) (k : Nat) : Bool := h.written.contains (oid, k)
def EphS.isPoisoned (h : EphS) (oid : BitVec 40) (k : Nat) : Bool := h.poisoned.contains (oid, k)
def EphS.isLost (h : EphS) (oid : BitVec 40) (k : Nat) : Bool := h.lostPlates.contains (oid, k)

/-- A plate has been written: it is no longer lost, and is recorded as poisoned or not (R159, R255, R472). -/
def EphS.markWritten (h : EphS) (oid : BitVec 40) (k : Nat) (poisoned : Bool) : EphS :=
  { h with
    written := if h.isWritten oid k then h.written else h.written ++ [(oid, k)]
    lostPlates := h.lostPlates.filter (· != (oid, k))
    poisoned := if poisoned then (if h.isPoisoned oid k then h.poisoned else h.poisoned ++ [(oid, k)])
      else h.poisoned.filter (· != (oid, k)) }

/-- A plate is as one never written, recorded as poisoned or not. -/
def EphS.markUnwritten (h : EphS) (oid : BitVec 40) (k : Nat) (poisoned : Bool) : EphS :=
  let h1 := h.markWritten oid k poisoned
  { h1 with written := h1.written.filter (· != (oid, k)) }

/-- Forgets the plates of a span (R440, R437). -/
def EphS.forgetSpan (h : EphS) (oid : BitVec 40) (span : Nat) : EphS :=
  let keep (e : BitVec 40 × Nat) : Bool := !(e.1 == oid && e.2 / 64 == span)
  { h with
    written := h.written.filter keep, poisoned := h.poisoned.filter keep, lostPlates := h.lostPlates.filter keep
    badIndex := h.badIndex.filter (· != (oid, span)) }

/-! Halts and dark plates (R454, R455, R468). -/

/-- Whether a domain is halted on this block. -/
def State.isHalted (s : State) (d : Nat) : Bool := s.eph.halted.getLsbD d

/-- Halts a domain (R468): the halt is recorded, and its FATAL record raises attn. -/
def State.haltDomain (s : State) (d : Nat) (byHand : Bool) : State :=
  if s.isHalted d then s
  else
    ({ s with eph := { s.eph with halted := setBit s.eph.halted d true, haltCmdReset := false, haltEphReset := false } }).emit
      ephIsl { code := 0x0008, sev := sevFatal, arg := packW [put d 0, flag byHand 8] }

/-- Consistent mode (R464), by the configuration in force in an island. -/
def State.consistent (s : State) : Bool := match s.anyConf with | some c => c.consistent | none => false

/-- Whether a plate is dark here. -/
def EphS.isDark (h : EphS) (oid : BitVec 40) (k : BitVec 24) : Bool := h.dark.any fun d => d.oid == oid && d.plate == k

/-- Marks a plate dark (R454): a plate already dark is not entered again; with the table full, Progress mode makes a
record, and Consistent mode halts the object's domain. -/
def State.darken (s : State) (oid : BitVec 40) (k : BitVec 24) (p : SliceNo) (index : Bool := false) : State :=
  if s.eph.isDark oid k then s
  else if s.eph.dark.length < 4096 then
    { s with eph := { s.eph with
      dark := s.eph.dark ++ [{ oid := oid, plate := k, slice := p, index := index, obj := s.recordOf oid }] } }
  else if s.consistent then s.haltDomain (domainOf oid) false
  else s.emit ephIsl { code := 0x0006, sev := sevLasting, oid := oid, plate := k }

/-- Step 7 ends other than by its bound, if `b` holds and it has not ended (R500, R508, R512). -/
def State.endStep7 (s : State) (b : Bool) : State :=
  if b && !s.eph.step7 then { s with eph := { s.eph with step7 := true }, cfg := { s.cfg with mgrAbsent := false } } else s

/-- Parks a request for a dark plate (R455). A request of this block's own that finds the table full, and a read that fails only after it was
taken, wait behind its 4,096 entries in order (log entry 136). -/
def State.parkReq (s : State) (oid : BitVec 40) (k : BitVec 24) (who : Parked) : State :=
  { s with eph := { s.eph with park := s.eph.park ++ [{ oid := oid, plate := k, who := who }] } }

/-- Whether the park table is full. -/
def State.parkFull (s : State) : Bool := 4096 ≤ s.eph.park.length

end Sys2Proof.Machine
end

