-- ==== Sys2Proof/Machine/Home.lean ====
section
/-! DEFINITION. Home duties, the shared operations: reading and writing the lines of plates at their home slice (R166-R172,
R206, R251, R419, R454, R455). -/

namespace Sys2Proof.Machine

/-! Completion statuses (R358). -/
def stOk : BitVec 8 := 0x00
def stBadDescriptor : BitVec 8 := 0x01
def stStaleEntry : BitVec 8 := 0x02
def stHostLost : BitVec 8 := 0x03
def stHostError : BitVec 8 := 0x04
def stWindow : BitVec 8 := 0x05
def stNoObject : BitVec 8 := 0x06
def stMismatch : BitVec 8 := 0x07
def stKeyInvalid : BitVec 8 := 0x08
def stMasterInvalid : BitVec 8 := 0x09
def stTableNotLive : BitVec 8 := 0x0A
def stNoFreeSlot : BitVec 8 := 0x0B
def stTableInvalid : BitVec 8 := 0x0C
def stTableHeld : BitVec 8 := 0x0D
def stTableAborted : BitVec 8 := 0x0E
def stSpillExhausted : BitVec 8 := 0x0F
def stStageTooLarge : BitVec 8 := 0x10
def stStoreLost : BitVec 8 := 0x11
def stPortTimeout : BitVec 8 := 0x12
def stImportFormat : BitVec 8 := 0x13
def stNotCompute : BitVec 8 := 0x14
def stUnreachable : BitVec 8 := 0x15
def stNoSpace : BitVec 8 := 0x16
def stPinned : BitVec 8 := 0x17
def stHalted : BitVec 8 := 0x18
def stAborted : BitVec 8 := 0x19

/-- The command status of an answer's status code (R429). -/
def statusOf (f : BitVec 4) : BitVec 8 :=
  match f.toNat with
  | 0 => stOk | 2 => stNoObject | 3 => stNoSpace | 4 => stNotCompute | 5 => stPinned | 7 => stHalted | 8 => stMismatch
  | _ => stUnreachable

/-- Changes the command with an identifier. -/
def State.onRun (s : State) (id : Nat) (f : CmdRun → CmdRun) : State :=
  { s with cmd := { s.cmd with runs := mapIf (fun r => r.id == id) f s.cmd.runs } }
/-- The command with an identifier. -/
def State.findRun (s : State) (id : Nat) : Option CmdRun := s.cmd.runs.find? fun r => r.id == id
/-- A failure of a command: the first status counts, and it generates no further work (R333, R356). -/
def CmdRun.fail (r : CmdRun) (st : BitVec 8) : CmdRun :=
  { r with status := if r.status = 0 then st else r.status, stopped := true, work := [] }
def State.failRun (s : State) (run : Option Nat) (st : BitVec 8) : State :=
  match run with | some id => s.onRun id fun r => r.fail st | none => s

/-- An identifier for a job, a stream or a run (log entry 1). -/
def State.newId (s : State) : Nat × State := (s.nextId, { s with nextId := s.nextId + 1 })

/-! Lines of plates. -/

/-- The tweak fields of a line of segment sg for plate k (R171). -/
def lineId (o : ObjRec) (k : Nat) (sg : Segment) (line : Nat) : LineId :=
  { oid := o.oid, plate := BitVec.ofNat 24 (64 * spanOf k + segTweakPos sg (posOf k)), seg := sg, line := line, key := o.key }

/-- The scale line of a plate, where its code and format have one. -/
def scalePlan (o : ObjRec) (n base k : Nat) : List (Nat × LineId) :=
  if scaleLines o n = 0 then [] else [(base + segLine o n .scale (posOf k), lineId o k .scale 0)]

/-- The lines of a plate that is not ZFC: header, scale, body (R166, R167). -/
def readPlan (o : ObjRec) (n base k : Nat) : List (Nat × LineId) :=
  (if headerLines o n = 0 then [] else [(base + segLine o n .header (posOf k), lineId o k .header 0)]) ++
    scalePlan o n base k ++
    (List.range (bodyLines o)).map fun m => (base + segLine o n .body (posOf k) + m, lineId o k .body m)

/-- The lines of a ZFC plate at `off` in the packed region: scale, packed lines (R248). -/
def zfcPlan (o : ObjRec) (n base k off lines : Nat) : List (Nat × LineId) :=
  scalePlan o n base k ++
    (List.range lines).map fun m => (base + segStart o n .packed + off + m, lineId o k .packed m)

/-- The two index lines of a span (R248). -/
def indexPlan (o : ObjRec) (n base span : Nat) : List (Nat × LineId) :=
  (List.range 2).map fun m => (base + segStart o n .index + m, lineId o (64 * span) .index m)

/-- The plates of a span that share the line of plate k in a segment (R166). -/
def sharedPlates (sg : Segment) (k : Nat) : List Nat :=
  let per := match sg with | .header => 8 | .almanac => 16 | _ => 1
  (List.range per).map fun i => 64 * spanOf k + posOf k / per * per + i

/-! Requests to the memory port. -/

/-- A request joins the requests that wait at a port. -/
def State.portReq (s : State) (p : SliceNo) (r : MemReq) : State :=
  s.onSlice p fun sl => { sl with mp := { sl.mp with waiting := sl.mp.waiting ++ [{ r with since := s.now (psIsl p) }] } }

/-- The slice that does the duties of home p: its twin, once that serves the device (R294). -/
def State.duty (s : State) (p : SliceNo) : SliceNo := if (s.slice p).mp.bridged then twinOf p else p

/-- The words of a packet that carries bytes; at least one. -/
def queueWords (b : List Byte) : List PWord := plain (if b.isEmpty then [0] else bytesWords b)

/-- A slice's packet on its data queue. -/
def dataPkt (p : SliceNo) (words : List PWord) (c : Cargo) : OutPkt :=
  { quad := quadOf (psIsl p), queue := BitVec.ofNat 16 (queueFrom (psIsl p) 2), words := words, cargo := c }

/-- A request for a line of the device on which home p lies: in a joint device, of the port that holds the line (R291). It crosses the
pair bridge where the twin's port holds the line; the request then waits at the port until its packet has come (R290). -/
def State.memReq (s : State) (p : SliceNo) (r : MemReq) : State :=
  let q := s.portLine p r.addr.toNat
  let r1 := { r with addr := BitVec.ofNat 32 q.2, home := p }
  let d := s.duty p
  if d = q.1 then s.portReq q.1 r1
  else
    let i := s.newId
    (i.2.portReq q.1 { r1 with crossing := some i.1 }).send (psIsl d)
      (dataPkt d (queueWords (if r.wr then fit 512 r.data else [])) (.bridgeReq q.1 i.1))

/-- The stored form that the latest write of a line still under way will leave in it. -/
def State.pendingData (s : State) (p : SliceNo) (a : Nat) : Option (List Byte) :=
  let q := s.portLine p a
  let sl := s.slice q.1
  let addr := q.2
  (((sl.mp.tags ++ sl.mp.ahead).map (·.req) ++ sl.mp.waiting).filter fun r => r.wr && r.addr.toNat == addr).getLast?.map (·.data)

/-! Heals of the Survey, as reads and writes tell them (R456, R457). -/

/-- Changes the heal of a plate. -/
def State.onHeal (s : State) (oid : BitVec 40) (k : BitVec 24) (f : Heal → Heal) : State :=
  { s with svy := { s.svy with heals := mapIf (fun h => h.oid == oid && h.plate == k) f s.svy.heals } }

/-- A heal that the Survey runs has stored its plate, or has not (R456, R457). -/
def State.healStored (s : State) (oid : BitVec 40) (k : BitVec 24) (ok : Bool) : State :=
  s.onHeal oid k fun h => { h with st := if ok then .healed else .failed }

/-- The header of plate q has been read for a heal: none where it is unreadable or fails the checks of R207 (R456). -/
def State.healHeader (s : State) (oid : BitVec 40) (k : BitVec 24) (q : Nat) (hdr : Option (List Byte)) : State :=
  s.onHeal oid k fun h =>
    let ok := match h.obj, hdr with | some o, some b => frcHdrOk o.rate b | _, _ => false
    { h with hdrs := h.hdrs ++ [(q, if ok then hdr else none)], asked := false }

/-- A line of the packed region has come for the rebuilding of an index (R457). -/
def State.healLine (s : State) (oid : BitVec 40) (k : BitVec 24) (ix : Nat) (cipher : Option (List Byte)) : State :=
  s.onHeal oid k fun h => { h with left := h.left - 1, lines := match cipher with | some b => KMap.put h.lines ix b | none => h.lines }

/-! Reads at home. -/

/-- What this block knows of an object. -/
inductive Known where
  | yes (o : ObjRec)
  /-- A manager has answered, or would answer, with this status (R429). -/
  | no (st : BitVec 4)
  | unknown
deriving DecidableEq, Repr

/-- What this block knows of an object (R414, R420). -/
def State.known (s : State) (oid : BitVec 40) : Known :=
  if oid = 0 then .no fsNoObject
  else match s.recordOf oid with
    | some o => .yes o
    | none =>
      if s.actsFor (domainOf oid) then .no fsNoObject
      else match s.eph.refused.find? fun e => e.1 == oid with
        | some e => .no e.2
        | none => if (s.managerOf (domainOf oid)).isNone then .no fsUnreachable else .unknown

/-- Whether records agree in shape: plate counts and edges. -/
def sameShape (a b : ObjRec) : Bool := a.prows == b.prows && a.pcols == b.pcols && a.edgeR == b.edgeR && a.edgeC == b.edgeC

/-- Whether an object may be the master of an FRC object (R201). -/
def ObjRec.isMasterOf (m d : ObjRec) : Bool := m.code == 0 && 2 ≤ m.fmt && sameShape m d

/-- Asks the manager for the record of an object, unless that has been done (R201, R422). -/
def State.queryRecord (s : State) (oid : BitVec 40) : State :=
  match s.managerOf (domainOf oid) with
  | none => s
  | some m =>
    if s.reqs.any fun r => r.ptype == ptObjReq && r.oid == oid then s
    else s.request { unit := unitEph, tid := 0, ptype := ptObjReq, dest := m, dunit := unitEph, oid := oid, why := .object 0 }

/-- Whether a commit waits for the claim of a frame (R260, R261). -/
def Commit.claims (m : Commit) : Bool := !m.failed && (m.st == .claiming || (m.st == .held && m.closed))

/-- What a home read yields. -/
structure Content where
  body : List Byte := []
  header : List Byte := []
  scale : List Byte := []
  lines : Nat := 0
  failed : Bool := false
  marked : Bool := false
  unwritten : Bool := false
  absent : Bool := false
  keyBad : Bool := false
deriving DecidableEq, Repr, Inhabited

/-- The command for which a slice's Eyepiece awaits plate `id`. -/
def Eye.runOf (e : Eye) (id : Nat) : Option Nat :=
  (e.streams.find? fun st => st.asked.any fun w => w.id == id).map (·.run)

/-- A request that meets a dark plate is parked (R455). -/
def State.parkFor (s : State) (oid : BitVec 40) (k : BitVec 24) (dest : RDest) : State :=
  match dest with
  | .eye sl id => s.parkReq oid k (.eye sl id)
  | .fabric r => s.parkReq oid k (.fabric r)
  | _ => s

/-- The index cache of a slice: the packed lines and entries of a span, if held (R251). -/
def Home.index (h : Home) (oid : BitVec 40) (span : Nat) : Option (Nat × List IdxEntry) :=
  (h.icache.find? fun e => e.1 == oid && e.2.1 == span).map fun e => (e.2.2.1, e.2.2.2)
/-- The index of a span that the cache holds has been used (R251). -/
def Home.useIndex (h : Home) (oid : BitVec 40) (span : Nat) : Home :=
  let hit := h.icache.filter fun e => e.1 == oid && e.2.1 == span
  { h with icache := hit ++ h.icache.filter fun e => !(e.1 == oid && e.2.1 == span) }
/-- An index put in the cache as its most recently used of 64 (R251). -/
def Home.putIndex (h : Home) (oid : BitVec 40) (span packed : Nat) (es : List IdxEntry) : Home :=
  let rest := h.icache.filter fun e => !(e.1 == oid && e.2.1 == span)
  { h with icache := ((oid, span, packed, es) :: rest).take 64 }

/-- A part of a moving frame goes to its new home as MV_DATA (R427, R437); the source goes on with the next part. -/
def State.moveData (s : State) (p : SliceNo) (no : Nat) (o : ObjRec) (k : BitVec 24) (seg line : Nat) (d : PlateWords) : State :=
  match s.eph.srcs.find? fun m => m.no.toNat == no with
  | none => s
  | some m =>
    let next (m : MvSrc) : MvSrc := { m with send := m.send.drop 1, asked := false }
    let t : State := { s with eph := { s.eph with srcs := mapIf (fun m => m.no.toNat == no) next s.eph.srcs } }
    t.postData m.toHome.block (unitPs p) ptMvData (transWord 0 (unitPs m.toHome.slice) (unitPs p) 0 0)
      [word2 o.oid k, packW [put line 16, put seg 0]] d

/-- A part of a moving frame cannot be read: the move is to be aborted (R439). -/
def State.moveFails (s : State) (no : Nat) : State :=
  { s with eph := { s.eph with srcs := mapIf (fun m => m.no.toNat == no) (fun m => { m with failed := true }) s.eph.srcs } }

/-- The stored form in which a plate travels that has no lines of its own in memory (R159, R271): a plate of zeros; for ZFC the synthetic
plate. FRC has no such form, since each plate names a live table slot: it travels with no content (DESIGN CHOICE, log entry 113). -/
def emptyForm (o : ObjRec) (k : BitVec 24) : PlateWords :=
  let scale := List.replicate (if (o.code = 0 || o.code = 2) && hasScale o.format then 512 else 0) 0
  match o.code with
  | 1 => { body := [] }
  | 2 => { body := syntheticPlate o.oid k o.format, scale := scale }
  | 0 => { body := List.replicate (denseSize o.format) 0, scale := scale }
  | _ => { body := List.replicate 32768 0 }

/-- The stored form in which what a home read yields travels (R18, R154, R271). -/
def Content.form (c : Content) (o : ObjRec) (k : BitVec 24) : PlateWords :=
  if c.absent || c.unwritten then { emptyForm o k with poison := c.marked }
  else { body := c.header ++ c.body, scale := c.scale, poison := c.marked }

/-- Slice p sends a plate to slice q over its data queue, its scale line ahead of it as a packet of its own (R16-R18, R154). -/
def State.sendPlate (s : State) (p q : SliceNo) (d : PlateWords) (id : Nat) (c : Cargo) : State :=
  let s1 := if d.scale.isEmpty then s else s.send (psIsl p) (dataPkt p (queueWords (fit 512 d.scale)) (.scale q id))
  s1.send (psIsl p) (dataPkt p (queueWords d.body) c)

/-- A plate reaches the Eyepiece that awaits it. -/
def State.arrive (s : State) (q : SliceNo) (a : Arrived) : State :=
  s.onSlice q fun x => { x with eye := { x.eye with arrived := x.eye.arrived ++ [{ a with at_ := s.now (psIsl q) }] } }

/-- A plate read at slice p goes to the Eyepiece of slice q: at once where it is its own, else over the crossing queues (R17, R18). -/
def State.giveEye (s : State) (p q : SliceNo) (o : ObjRec) (k : BitVec 24) (id : Nat) (c : Content) : State :=
  let none_ := c.unwritten || c.absent
  if p = q then s.arrive q {
    id := id, body := c.body, scale := c.scale, header := c.header, badLine := c.failed, marked := c.marked, unwritten := none_
    lines := c.lines }
  else
    let d := c.form o k
    s.sendPlate p q d id (.plate q id (o.code == 1 && !none_) (!d.scale.isEmpty) c.failed c.marked none_ c.lines)

/-- The sixteen entries of an Almanac line, for the engine choice of a slice; those that cannot be had predict dense (R267, R268). -/
def State.takeAlmanac (s : State) (p : SliceNo) (isA : Bool) (k : BitVec 24) (bad : Bool) (line : List Byte) : State :=
  let m (q : Nat) : BitVec 256 := if bad then BitVec.allOnes 256
    else BitVec.ofNat 256 (leNat ((line.drop (32 * (posOf q % 16))).take 32))
  s.onSlice p fun x =>
    { x with dpe := { x.dpe with maps := x.dpe.maps ++ (sharedPlates .almanac k.toNat).map fun q => ((isA, q), m q) } }

/-- Hands a plate read at slice p to whom it is for. -/
def State.deliver (s : State) (p : SliceNo) (o : ObjRec) (k : BitVec 24) (dest : RDest) (c : Content) : State :=
  match dest with
  | .eye sl id =>
    if ((s.slice sl).eye.runOf id).isNone then s
    else if c.keyBad then
      match ((s.slice sl).eye.streams.flatMap (·.asked)).find? fun w => w.id == id with
      | some w => (match w.use with
        | .heal o k => s.healStored o k false
        | _ => s.failRun ((s.slice sl).eye.runOf id) stKeyInvalid)
      | none => s
    else s.giveEye p sl o k id c
  | .fabric r =>
    if c.keyBad then
      s.post (unitPs p) ptRdRsp (fabWords ptRdRsp r.block s.block
        (transWord r.tid r.unit (unitPs p) fsUnreachable 0) [word2 o.oid k, homeWord noHome])
    else if c.failed && !c.marked then s.parkReq o.oid k (.fabric r)
    else s.postData r.block (unitPs p) ptRdRsp (transWord r.tid r.unit (unitPs p) fsOk 0) [word2 o.oid k] (c.form o k)
  | .commit id =>
    s.onSlice p fun x => { x with store := { x.store with commits := mapIf (fun m => m.id == id) (fun m =>
      { m with
        copy := m.copy.filter (· != k.toNat)
        plates := if c.absent || c.unwritten then m.plates else m.plates ++ [{
          plate := k, data := c.body, scale := c.scale, header := c.header, poisoned := c.marked, copied := true
          map := if o.code = 2 then observedMap o.format c.body c.scale
            else fieldMap o.format (unpackElems o.format c.body) c.scale }] }) x.store.commits } }
  | .move no => if c.failed || c.keyBad then s.moveFails no else
      s.moveData p no o k (if o.code = 2 then 5 else 0)
        (match (s.slice p).home.index o.oid (spanOf k.toNat) with
          | some ix => (match locate o k.toNat ix.2 with | some ol => ol.1 | none => 0) | none => 0)
        { body := c.header ++ c.body, scale := c.scale }
  | .moveLine no sg line => if (c.failed && sg != .almanac) || c.keyBad then s.moveFails no else
      s.moveData p no o k sg.code line { body := if c.failed then List.replicate 512 0xFF else c.body }
  | .sum =>
    -- a contribution whose plate could not be read waits for its heal
    let upd (e : SumAdd) : SumAdd := if c.failed || c.keyBad then { e with asked := false }
      else { e with old := some (if c.unwritten then [] else c.body, c.marked) }
    s.onSlice p fun x => { x with home := { x.home with
      sums := mapIf (fun e => e.obj.oid == o.oid && e.plate == k && e.asked && e.old.isNone) upd x.home.sums } }
  | .heal _ _ => s
  | .index => s
  | .almanac sl isA =>
    let bad := c.failed || c.keyBad || c.unwritten
    if p = sl then s.takeAlmanac sl isA k bad c.body
    else s.sendPlate p sl { body := fit 512 c.body } 0 (.almanac sl isA k bad)

/-- The requests of a read job's lines. -/
def State.askLines (s : State) (p : SliceNo) (j : RJob) : State :=
  j.plan.zipIdx.foldl (fun s e => s.memReq p {
    wr := false, addr := BitVec.ofNat 32 e.1.1, why := .read j.id e.2, id := e.1.2 }) s

/-- Puts a read job in place of the one with its identifier. -/
def State.putJob (s : State) (p : SliceNo) (j : RJob) : State :=
  s.onSlice p fun x => { x with home := { x.home with
    reads := if x.home.reads.any (·.id == j.id) then mapIf (fun i => i.id == j.id) (fun _ => j) x.home.reads
      else x.home.reads ++ [j] } }
def State.dropJob (s : State) (p : SliceNo) (id : Nat) : State :=
  s.onSlice p fun x => { x with home := { x.home with reads := x.home.reads.filter fun i => i.id != id } }

/-- Whether the ports of home p hold a key slot: in a joint device both (R173, R180). -/
def State.keyLoaded (s : State) (p : SliceNo) (slot : Nat) : Bool :=
  let held (q : SliceNo) : Bool := (s.slice q).keys[Fin.ofNat 16 slot].isSome
  held p && (!s.isJoint p || held (twinOf p))

/-- Starts a read of a ZFC plate whose span's index is at hand: an absent plate issues no request (R251, R271). -/
def State.readPacked (s : State) (p : SliceNo) (j : RJob) (es : List IdxEntry) : State :=
  let o := j.obj
  let k := j.plate.toNat
  if j.dest = .index then s.dropJob p j.id else
  match locate o k es with
  | none => (s.dropJob p j.id).deliver p o j.plate j.dest { absent := true, marked := s.eph.isPoisoned o.oid k }
  | some ol =>
    let j1 := { j with indexPhase := false, started := true, lines := ol.2
                       plan := zfcPlan o (spanPlates o (spanOf k)) j.base k ol.1 ol.2, got := [] }
    (s.putJob p j1).askLines p j1

/-- Starts a read job: its index lines first where the span's index is not held, then the plate's lines (R251). -/
def State.beginJob (s : State) (p : SliceNo) (j : RJob) : State :=
  let o := j.obj
  let k := j.plate.toNat
  let n := spanPlates o (spanOf k)
  if !s.keyLoaded p o.key then (s.dropJob p j.id).deliver p o j.plate j.dest { keyBad := true }
  else if (match j.dest with | .almanac .. => true | _ => false) then
    let j1 := { j with started := true, plan := [(j.base + segLine o n .almanac (posOf k), lineId o k .almanac 0)] }
    (s.putJob p j1).askLines p j1
  else if o.code = 2 then
    match (s.slice p).home.index o.oid (spanOf k) with
    | none =>
      let j1 := { j with indexPhase := true, started := true, plan := indexPlan o n j.base (spanOf k), got := [] }
      (s.putJob p j1).askLines p j1
    | some ix => (s.onSlice p fun x => { x with home := x.home.useIndex o.oid (spanOf k) }).readPacked p j ix.2
  else
    let j1 := { j with started := true, plan := readPlan o n j.base k }
    (s.putJob p j1).askLines p j1

/-- Whether a write is kept within a commit: of ZFC objects, and in Consistent mode of every object (R257, R465). -/
def State.usesCommit (s : State) (o : ObjRec) : Bool := o.code == 2 || s.consistent

/-- Whether an in-place write of a plate is under way at its home slice (R206). -/
def State.writeUnderWay (s : State) (p : SliceNo) (oid : BitVec 40) (k : BitVec 24) : Bool :=
  let h := (s.slice p).home
  (h.inq.any fun w => w.obj.oid == oid && w.plate == k && !s.usesCommit w.obj) ||
    h.writes.any fun w => w.oid == oid && w.plate == k && !w.fresh

/-- A read of plate k that waits for no write (R159, R454, R455, R472): a plate never written is delivered as such; a dark plate's
request is parked; a lost plate is marked dark. -/
def State.readPlate (s : State) (p : SliceNo) (base : Nat) (o : ObjRec) (k : BitVec 24) (dest : RDest) : State :=
  let poisoned := s.eph.isPoisoned o.oid k.toNat
  let lost := s.eph.isLost o.oid k.toNat
  if !lost && !s.eph.isWritten o.oid k.toNat then s.deliver p o k dest { unwritten := true, marked := poisoned }
  else if s.eph.isDark o.oid k then s.parkFor o.oid k dest
  else if lost && poisoned then s.deliver p o k dest { unwritten := true, marked := true }
  else if lost then (s.darken o.oid k p).parkFor o.oid k dest
  else
    let i := s.newId
    i.2.beginJob p { id := i.1, obj := o, plate := k, dest := dest, base := base }

/-- A read of plate k for `dest` reaches its home (R206, R419): it waits while a write of the plate is under way. NOT_HOME is the
caller's to answer. -/
def State.readHome (s : State) (o : ObjRec) (k : BitVec 24) (dest : RDest) : State :=
  let at_ (s0 : State) (p : SliceNo) (base : Nat) : State :=
    if s.writeUnderWay p o.oid k then
      let i := s0.newId
      i.2.putJob p { id := i.1, obj := o, plate := k, dest := dest, base := base }
    else s0.readPlate p base o k dest
  match s.eph.serves o.oid (spanOf k.toNat) with
  | .notHome => s
  | .unwritten p _ => at_ s p 0
  | .at p base _ => at_ (s.touchSpan o.oid (spanOf k.toNat)) p base

/-- A stream of an Eyepiece asks again for a plate that it awaits. -/
def Eye.askAgain (e : Eye) (id : Nat) : Eye :=
  { e with streams := e.streams.map fun t =>
      { t with wants := t.asked.filter (fun w => w.id == id) ++ t.wants, asked := t.asked.filter fun w => w.id != id } }

/-- A read that has waited at a slice finds its span gone from this block: its reader asks again, or is answered NOT_HOME (R419). -/
def State.readAway (s : State) (p : SliceNo) (o : ObjRec) (k : BitVec 24) (dest : RDest) : State :=
  match dest with
  | .eye sl id => s.onSlice sl fun x => { x with eye := x.eye.askAgain id }
  | .fabric r =>
    s.post (unitPs p) ptRdRsp (fabWords ptRdRsp r.block s.block
      (transWord r.tid r.unit (unitPs p) fsNotHome 0) [word2 o.oid k, homeWord (s.newHome o.oid (spanOf k.toNat))])
  | _ => s

/-- The lines a read job has got, in the order of its plan. -/
def RJob.lineAt (j : RJob) (i : Nat) : GotLine := KMap.getD j.got i { data := [], failed := true }

/-- The lines of a plate copied into a new frame: the ciphertext is copied, and one answered with a failure code is taken as zero
bytes of it (R53, R260). -/
def RJob.copied (j : RJob) (key : List Byte) : RJob :=
  { j with got := j.got.map fun e => match j.plan[e.1]? with
      | some (_, id) =>
        if e.2.failed && e.2.data.isEmpty && id.seg != .header then
          (e.1, { e.2 with data := xts false key (xtsTweak id.oid id.plate id.seg.code id.line) (fit 512 []) })
        else e
      | none => e }

/-- The content of a read job whose lines have all come (R166): a line that failed its guard as it was decrypted (R169, R537), one
answered with a failure code as zeros (R53, R537). -/
def RJob.content (j : RJob) (marked : Bool) : Content :=
  let n := spanPlates j.obj (spanOf j.plate.toNat)
  let l := (List.range j.plan.length).map j.lineAt
  let bytes (g : GotLine) : List Byte := fit 512 g.data
  let h := if j.obj.code = 1 then 1 else 0
  let sc := if scaleLines j.obj n = 0 then 0 else 1
  { header := if h = 1 then ((bytes (l.getD 0 default)).drop (64 * (posOf j.plate.toNat % 8))).take 64 else []
    -- scales whose line was answered with a failure code cannot be read
    scale := if sc = 1 && !(l.getD h default).data.isEmpty then bytes (l.getD h default) else []
    body := (l.drop (h + sc)).flatMap bytes
    lines := j.lines
    failed := l.any (·.failed)
    marked := marked }

/-- Every read of a span whose index fails is refused, counted, and its plate marked dark; a commit's read of the index starts the
heal through a stored plate of the span (R269, R270). -/
def State.indexFail (s : State) (p : SliceNo) (j : RJob) : State :=
  let oid := j.obj.oid
  let s1 := ((s.bump (psIsl p) psZfcIdxErr).emit (psIsl p)
    { code := 0x0004, sev := sevTransient, oid := oid, plate := j.plate, arg := 6 }).dropJob p j.id
  let first := ((List.range 64).map fun i => 64 * spanOf j.plate.toNat + i).find? (s.eph.isWritten oid)
  let k := if j.dest = .index then BitVec.ofNat 24 (first.getD j.plate.toNat) else j.plate
  (s1.darken oid k p true).parkFor oid j.plate j.dest

/-- A read job whose lines have all come: the index is checked and the plate read, or the plate is delivered. -/
def State.jobDone (s : State) (p : SliceNo) (j : RJob) : State :=
  if j.indexPhase then
    let o := j.obj
    let span := spanOf j.plate.toNat
    let n := spanPlates o span
    let b := (fit 512 (j.lineAt 0).data) ++ fit 512 (j.lineAt 1).data
    if (j.lineAt 0).failed || (j.lineAt 1).failed || !indexOk o span n b then s.indexFail p j
    else
      let ix := indexOf o span n b
      -- a read that began under a frame the span has left uses that frame's index, which is held no more (R262)
      let now := match s.eph.serves o.oid span with | .at _ base _ => base == j.base | _ => false
      (if now then s.onSlice p fun x => { x with home := x.home.putIndex o.oid span ix.1 ix.2 } else s).readPacked p j ix.2
  else
    match j.dest with
    | .almanac .. =>
      let g := j.lineAt 0
      let s1 := if g.failed then s.bump (psIsl p) psAlmPoison else s
      (s1.dropJob p j.id).deliver p j.obj j.plate j.dest { body := fit 512 g.data, failed := g.failed }
    | .moveLine .. =>
      let g := j.lineAt 0
      (s.dropJob p j.id).deliver p j.obj j.plate j.dest { body := fit 512 g.data, failed := g.failed }
    | .heal oid k =>
      let g := j.lineAt 0
      (s.dropJob p j.id).healHeader oid k j.plate.toNat
        (if g.failed then none else some (((fit 512 g.data).drop (64 * (posOf j.plate.toNat % 8))).take 64))
    | _ =>
      let key := ((s.slice p).keys[Fin.ofNat 16 j.obj.key]).getD []
      let j1 := match j.dest with | .commit _ => j.copied key | _ => j
      (s.dropJob p j.id).deliver p j.obj j.plate j.dest (j1.content (s.eph.isPoisoned j.obj.oid j.plate.toNat))

/-- Starts the reads of a plate that waited for its writes (R206). -/
def State.wakeReads (s : State) (p : SliceNo) (oid : BitVec 40) (k : BitVec 24) : State :=
  if s.writeUnderWay p oid k then s
  else ((s.slice p).home.reads.filter fun j => !j.started && j.obj.oid == oid && j.plate == k).foldl (fun s j =>
    let t := s.dropJob p j.id
    match s.eph.serves oid (spanOf k.toNat) with
    | .notHome => t.readAway p j.obj k j.dest
    | _ => t.readHome j.obj k j.dest) s

/-! Writes at home. -/

/-- The lines of a plate write into a frame that is not ZFC: header, almanac entry, scale, body (R166, R168, R266). -/
def writeLines (n base : Nat) (w : PWrite) : List WLine :=
  let o := w.obj
  let k := w.plate.toNat
  let j := posOf k
  (if headerLines o n = 0 then [] else [{
    addr := base + segLine o n .header j, id := lineId o k .header 0, data := fit 64 w.header
    mergeAt := some (64 * (j % 8)) }]) ++
  (if almanacLines o n = 0 then [] else [{
    addr := base + segLine o n .almanac j, id := lineId o k .almanac 0, data := mapBytes w.map
    mergeAt := some (32 * (j % 16)) }]) ++
  (if scaleLines o n = 0 then [] else [{
    addr := base + segLine o n .scale j, id := lineId o k .scale 0, data := fit 512 w.scale }]) ++
  (if o.code = 2 then [] else (List.range (bodyLines o)).map fun m =>
    { addr := base + segLine o n .body j + m, id := lineId o k .body m, data := fit 512 ((w.body.drop (512 * m)).take 512) })

/-- What stands in a shared line for the entries of other plates where the line cannot be read (R168). -/
def sharedFill (sg : Segment) : List Byte := List.replicate 512 (if sg == .almanac then 0xFF else 0)

/-- Whether plate q of a shared line has an entry there: it has been written, or a write of it has been answered for that line. -/
def State.hasEntry (s : State) (p : SliceNo) (oid : BitVec 40) (q : Nat) : Bool :=
  s.eph.isWritten oid q || (s.slice p).home.writes.any fun w => w.oid == oid && w.plate.toNat == q && !w.move && !w.fresh
/-- Whether a shared line holds the entry of another plate. -/
def State.sharedOthers (s : State) (p : SliceNo) (id : LineId) (k : Nat) : Bool :=
  (sharedPlates id.seg k).any fun q => q != k && s.hasEntry p id.oid q

/-- Puts the write of a line in the queue of the port. -/
def State.askWrite (s : State) (p : SliceNo) (job : Nat) (l : WLine) (data : List Byte) : State :=
  s.memReq p { wr := true, addr := BitVec.ofNat 32 l.addr, why := .write job, id := l.id, data := fit 512 data }

/-- Starts a write job: whole lines are asked for at once; a shared line is merged into what it already holds, which is
read first unless the slice holds it or no other entry of it was ever written (R168, log entry 16). -/
def State.startWrite (s : State) (p : SliceNo) (j : WJob) (lines : List WLine) : State :=
  let needsRead (l : WLine) : Bool :=
    l.mergeAt.isSome && s.sharedOthers p l.id j.plate.toNat && (s.pendingData p l.addr).isNone
  -- another write waits for the same line: its read serves this one too
  let asked (l : WLine) : Bool := (s.slice p).home.writes.any fun w => w.merging.any fun m => m.addr == l.addr
  let mer := lines.filter needsRead
  let now := lines.filter fun l => !needsRead l
  let s1 := s.onSlice p fun x => { x with home := { x.home with
    writes := x.home.writes ++ [{ j with merging := mer, left := lines.length }] } }
  let s2 := now.foldl (fun s l => s.askWrite p j.id l (match l.mergeAt with
    | none => l.data
    | some off => splice ((s.pendingData p l.addr).getD (sharedFill l.id.seg)) off l.data)) s1
  (mer.filter fun l => !asked l).foldl (fun s l => s.memReq p {
    wr := false, addr := BitVec.ofNat 32 l.addr, why := .merge j.id l.addr, id := l.id }) s2

/-- The read of a shared line has come for a write job: its entry is merged and the line written (R168). -/
def State.mergeOne (s : State) (p : SliceNo) (job addr : Nat) (g : GotLine) : State :=
  match (s.slice p).home.writes.find? fun w => w.id == job with
  | none => s
  | some j =>
    match j.merging.find? fun l => l.addr == addr with
    | none => s
    | some l =>
      let held := s.pendingData p addr
      let base := match held with | some d => d | none => if g.failed then sharedFill l.id.seg else g.data
      let s1 := s.onSlice p fun x => { x with home := { x.home with
        writes := mapIf (fun w => w.id == job) (fun w => { w with merging := w.merging.filter (· != l) }) x.home.writes } }
      let s2 := if g.failed && held.isNone && l.id.seg == .header then
          (sharedPlates .header j.plate.toNat).foldl (fun s q =>
            if q != j.plate.toNat && s.hasEntry p j.oid q then s.darken j.oid (BitVec.ofNat 24 q) p else s) s1
        else s1
      s2.askWrite p job l (splice (fit 512 base) (l.mergeAt.getD 0) l.data)

/-- The read of a shared line has come: the entries of all the writes that wait for it are merged, in order (R168). -/
def State.mergeDone (s : State) (p : SliceNo) (addr : Nat) (g : GotLine) : State :=
  ((s.slice p).home.writes.filter fun w => w.merging.any fun l => l.addr == addr).foldl (fun s w => s.mergeOne p w.id addr g) s

/-- Lowers slice p's count of a slot (R212). -/
def State.leaveSlot (s : State) (p : SliceNo) (n : Nat) : State :=
  s.onSlice p fun x =>
    let t := Fin.ofNat 64 n
    { x with slots := x.slots.set t { x.slots[t] with inUse := x.slots[t].inUse - 1 } }

/-- The plate that a slice has encoded through a slot is in encoding no more (R203, R212). -/
def State.releaseSlot (s : State) (sl : Option (SliceNo × Fin 64)) : State :=
  match sl with
  | none => s
  | some (p, t) => (s.leaveSlot p t.val).onSlice p fun x => { x with store := { x.store with encoding := x.store.encoding - 1 } }

/-- The FRC plates that a dropped commit has not written are discarded (R212). -/
def State.leavePlates (s : State) (m : Commit) : State :=
  (m.plates.filter fun q => !q.sent).foldl (fun s q => match q.slot with | some t => s.leaveSlot t.1 t.2.val | none => s) s

/-- A new-frame commit is abandoned (R263): its frame is freed, the old one stays in force, and its command has lost
the plates written through it. -/
def State.abandonCommit (s : State) (p : SliceNo) (m : Commit) : State :=
  let s1 := (s.leavePlates m).onSlice p fun x => { x with
    store := { x.store with commits := x.store.commits.filter fun c => c.id != m.id }
    home := { x.home with reads := x.home.reads.filter fun j => j.dest != .commit m.id } }
  let s2 := (s1.release m.target (m.base / 16) m.extents).bump (psIsl p) psStAbandon
  let s3 := if m.run.isNone && m.src.isNone then m.plates.foldl (fun s q => s.healStored m.obj.oid q.plate false) s2 else s2
  m.answers.foldl (fun s a => s.ackTo a.1 (unitPs p) fsUnreachable m.obj.oid a.2) (s3.failRun m.run stStoreLost)

/-- The commit of slice p with an identifier. -/
def State.findCommit (s : State) (id : Nat) : Option (SliceNo × Commit) :=
  (List.finRange 32).findSome? fun p => ((s.slice p).store.commits.find? fun m => m.id == id).map fun m => (p, m)

/-- Abandons a commit of which a write has failed, once every write of it has been answered. -/
def State.abandonIfLost (s : State) (c : Nat) : State :=
  match s.findCommit c with
  | some (p, m) => if m.failed && m.left = 0 && m.st != .inPlace then s.abandonCommit p m else s
  | none => s

/-- Copy-done goes to the source of a span that is on its way here, once every line has been answered (R437 step 3, R439);
where the copy has failed, what was allocated for it is freed. -/
def State.copyDoneIfAll (s : State) (oid : BitVec 40) (span : Nat) : State :=
  match s.eph.dsts.find? fun d => d.obj.oid == oid && d.span.toNat == span with
  | none => s
  | some d =>
    if d.left != 0 || d.told || !(d.last || d.failed) then s
    else
      let here (e : DirEnt) : Bool := e.incoming && e.obj.oid == oid && match e.kind with | .span _ t _ => t == span | _ => false
      let dsts := mapIf (fun e => e.obj.oid == oid && e.span == d.span)
        (fun e => { e with told := true, extents := if d.failed then 0 else e.extents }) s.eph.dsts
      let dir := if d.failed then s.eph.dir.filter (fun e => !here e) else s.eph.dir
      let t : State := { s with eph := { s.eph with dsts := dsts, dir := dir } }
      (if d.failed then t.release d.slice d.base d.extents else t).ackTo d.src (unitPs d.slice)
        (if d.failed then fsUnreachable else fsOk) oid (BitVec.ofNat 24 span)
        { valid := true, slice := BitVec.ofNat 5 d.slice.val, block := s.block } d.written.length 1

/-- A write job has ended: every line of it has been answered (R206, R212, R258, R446). -/
def State.writeDone (s : State) (p : SliceNo) (j : WJob) : State :=
  let s1 := s.onSlice p fun x => { x with home := { x.home with writes := x.home.writes.filter fun w => w.id != j.id } }
  let s2 := match j.commit, j.slot with
    | some _, some t => s1.leaveSlot t.1 t.2.val
    | _, _ => s1.releaseSlot j.slot
  let s3 := match j.commit with
    | none => if j.move || j.fresh then s2 else { s2 with eph := s2.eph.markWritten j.oid j.plate.toNat j.poisoned }
    | some c =>
      let upd (m : Commit) : Commit := { m with left := m.left - 1, failed := m.failed || (j.fresh && j.failed) }
      let inSlice (x : Slice) : Slice :=
        { x with store := { x.store with commits := mapIf (fun m => m.id == c) upd x.store.commits } }
      let t : State := { s2 with slices := s2.slices.map inSlice }
      if j.fresh then t.abandonIfLost c else { t with eph := t.eph.markWritten j.oid j.plate.toNat j.poisoned }
  let s4 := match j.run with
    | some r => if j.fresh then s3 else s3.onRun r fun r => { r with plates := r.plates + 1, poisoned := r.poisoned || j.poisoned }
    | none => s3
  let s5 := match j.answer with
    | some r => if j.move then s4 else s4.ackTo r (unitPs p) fsOk j.oid j.plate
    | none => s4
  let s6 := if j.move then
      let upd (d : MvDst) : MvDst := { d with left := d.left - 1, failed := d.failed || j.failed }
      let dsts := mapIf (fun d => d.obj.oid == j.oid && d.span.toNat == spanOf j.plate.toNat) upd s5.eph.dsts
      ({ s5 with eph := { s5.eph with dsts := dsts } } : State).copyDoneIfAll j.oid (spanOf j.plate.toNat)
    else s5
  let s7 := if j.heal then s6.healStored j.oid j.plate (!j.failed) else s6
  s7.wakeReads p j.oid j.plate

/-- Whether a plate that is recorded as poisoned has no other record of it than the Ephemeris's: it is delivered poisoned without
a new heal (R255, R458). -/
def State.poisonKept (s : State) (oid : BitVec 40) (k : BitVec 24) : Bool :=
  s.eph.isPoisoned oid k.toNat && match s.recordOf oid with | some o => o.code == 0 || o.code == 3 | none => false

/-- Every stored plate of a span is marked dark, for its index (R270, R533). -/
def State.darkenSpan (s : State) (p : SliceNo) (oid : BitVec 40) (span : Nat) : State :=
  let ks := (List.range 64).map fun i => 64 * span + i
  (ks.filter (s.eph.isWritten oid)).foldl (fun s q => s.darken oid (BitVec.ofNat 24 q) p true) s

/-- The plates that a line read or written (`wr`) with a failure darkens (R52, R533). -/
def State.darkenLine (s : State) (p : SliceNo) (id : LineId) (wr : Bool) : State :=
  match id.seg with
  | .body | .packed | .scale => if !wr && s.poisonKept id.oid id.plate then s else s.darken id.oid id.plate p
  | .header => (sharedPlates .header id.plate.toNat).foldl (fun s q =>
      if s.eph.isWritten id.oid q then s.darken id.oid (BitVec.ofNat 24 q) p else s) s
  | .almanac => s
  | .index => s.darkenSpan p id.oid (spanOf id.plate.toNat)

/-- A write of a job has been answered (R52). A line of a frame that a move brings here darkens nothing: the move fails, and its
source stays home (DESIGN CHOICE, log entry 115). -/
def State.lineWritten (s : State) (p : SliceNo) (job : Nat) (id : LineId) (failed : Bool) : State :=
  let arriving := (s.slice p).home.writes.any fun w => w.id == job && w.move
  let s0 := if failed && !arriving then s.darkenLine p id true else s
  match (s0.slice p).home.writes.find? fun w => w.id == job with
  | none => s0
  | some j =>
    let j1 := { j with left := j.left - 1, failed := j.failed || failed }
    let s1 := s0.onSlice p fun x => { x with home := { x.home with
      writes := mapIf (fun w => w.id == job) (fun _ => j1) x.home.writes } }
    if j1.left = 0 then s1.writeDone p j1 else s1

end Sys2Proof.Machine
end

