-- ==== Sys2Proof/Machine/LogInj.lean ====
section
/-! DEFINITION. The Logbook, injection and snapshots (R482-R499). -/

namespace Sys2Proof.Machine

/-- The eight words of a record (R482); `lost` is LOG_LOST when it was appended. -/
def Report.words (r : Report) (lost : BitVec 32) : List W64 :=
  let w := [
    packW [put r.code.toNat 48, put r.island.toNat 42, put r.sev.toNat 40, flag r.injected 39, flag r.poisoned 38,
      put r.inst.toNat 16, put r.resets.toNat 0],
    put r.cycle.toNat 0,
    packW [put r.seq.toNat 32, put r.count.toNat 0],
    packW [put r.oid.toNat 24, put r.plate.toNat 0],
    r.arg, put lost.toNat 32, put r.lastCycle.toNat 0]
  let last := put r.lastSeq.toNat 32
  w ++ [last ||| put (crc16 (wordsBytes (w ++ [last]))).toNat 0]

/-- The packet in which an island sends a report (R482, R486): a record's words but for what LOG adds, on the control queue to its
quadrant, a link group's report queue, or, from a quadrant's own logic, the queue that leads towards LOG. Its words are poisoned where the
island's memory delivered one so. -/
def reportPkt (k : IslandNo) (poisoned : Bool) (r : Report) : OutPkt :=
  let x := quadOf k
  let d : QuadNo × Nat := if 48 ≤ k.val && k.val < 52 then
      (match legTo x logIsl 0 with | .queue y q => (y, q) | _ => (x, 0x208F)) else (x, queueFrom k 0)
  { quad := d.1, queue := BitVec.ofNat 16 d.2, words := (r.words 0).map fun w => { w := w, poison := poisoned }, cargo := .report r }

/-- Whether a packet to be sent holds a report. -/
def OutPkt.isReport (p : OutPkt) : Bool := match p.cargo with | .report _ => true | _ => false

/-- REPORT_SEND (R482, R486): an island sends the oldest report of its buffer towards LOG, once the one before has gone into its queue. -/
def execReportSend (k : IslandNo) (poisoned : Bool) (s : State) : Outcome :=
  match (s.isl k).reports with
  | [] => .next s
  | r :: rest =>
    guarded ((s.isl k).live && !((s.isl k).outbox.any OutPkt.isReport)) s
      (s.onIsl k fun i => { i with reports := rest, outbox := i.outbox ++ [reportPkt k poisoned r] })

/-- The CAUSE class of a FATAL report (R491, R536). -/
def fatalClass (r : Report) : Nat :=
  if r.code = 8 then 0
  else match r.arg.toNat with | 53 => 2 | 54 => 3 | 52 => 4 | 56 => 5 | _ => 1

/-- What LOG keeps for a code. -/
def LogS.code (l : LogS) (c : Nat) : CodeStat := KMap.getD l.codes c {}

/-- First and last record of a code, updated as a record is appended or lost; a record of which no report was taken since SEEN was
cleared is none of them (R490). -/
def LogS.keep (l : LogS) (c : Nat) (w : List W64) : LogS :=
  let st := l.code c
  if st.seen then { l with codes := KMap.put l.codes c { st with first := if st.first.isEmpty then w else st.first, last := w } } else l

/-- Whether LOG can append a record now (R489). -/
def State.logRoom (s : State) : Bool :=
  ((s.quad 0).queue 0x2110).packets.length < 4096 && s.canOpen 0 0x2110 1

/-- A record is appended to the Logbook, or lost and counted (R489, R490). -/
def State.appendRecord (s : State) (r : Report) : State :=
  let w := r.words (((s.isl logIsl).count logLost).setWidth 32)
  let s1 := { s with log := s.log.keep r.code.toNat w }
  if s.logRoom then
    (s1.onQuad 0 fun d => d.enqueue 0x2110 (pktOf (plain w) 0 false .words)).bump logIsl logAppended
  else
    let s2 := (s1.bump logIsl logLost).bump logIsl logLostReports r.count.toNat
    { s2 with log := { s2.log with lostSeen := true } }

/-- The staged record, if there is one, is appended (R488). -/
def State.flushStaged (s : State) : State :=
  match s.log.staged with
  | none => s
  | some (r, _) => let s1 := s.appendRecord r; { s1 with log := { s1.log with staged := none } }

/-- The sticky bits and counts of a report taken (R490). -/
def LogS.note (l : LogS) (r : Report) : LogS :=
  let c := r.code.toNat
  let st := l.code c
  let sev2 := r.sev == sevLasting || r.sev == sevFatal
  { l with
    codes := KMap.put l.codes c { st with
      seen := true, lastingSeen := st.lastingSeen || sev2, injectedSeen := st.injectedSeen || r.injected
      reports := st.reports + r.count.setWidth 48 }
    fatalSeen := l.fatalSeen || r.sev == sevFatal
    lastingSeen := l.lastingSeen || r.sev == sevLasting
    transientSeen := l.transientSeen || r.sev == sevTransient
    islands := setBit l.islands r.island.toNat true }

/-- A FATAL report: its CAUSE bit, its LOG_FATAL slot if empty, and its record at once (R488, R491). -/
def State.takeFatal (s : State) (r : Report) : State :=
  let c := fatalClass r
  let w := r.words (((s.isl logIsl).count logLost).setWidth 32)
  let s1 := { s with log := { s.log with
    cause := setBit s.log.cause c true
    fatal := if (s.log.fatal.toList.getD c []).isEmpty then s.log.fatal.setIfInBounds c w else s.log.fatal } }
  s1.appendRecord r

/-- A report that LOG takes is noted and counted. -/
def State.noteTaken (s : State) (r : Report) : State := ({ s with log := s.log.note r }).bump logIsl logTaken

/-- LOG_REPORT_TAKE (R488, R490): LOG takes the next report and folds, stages or appends it. -/
def execLogReportTake (s : State) : Outcome :=
  match s.log.arriving with
  | [] => .next s
  | r :: rest =>
    guarded (s.awake logIsl) s
      (let s1 := { s with log := { s.log with arriving := rest } }
      let stage (s2 : State) : State := { s2 with log := { s2.log with staged := some (r, s.now logIsl) } }
      if r.sev = sevFatal then (s1.flushStaged.noteTaken r).takeFatal r
      else match s.log.staged with
        | some (st, t) =>
          if st.foldsWith r then
            let s2 := s1.noteTaken r
            ({ s2 with log := { s2.log with staged := some (st.fold r, t) } }).bump logIsl logFolded
          else stage (s1.flushStaged.noteTaken r)
        | none => stage (s1.noteTaken r))

/-- STAGED_APPEND (R488): 256 LOG cycles after it was staged, the staged record is appended. -/
def execStagedAppend (s : State) : Outcome :=
  match s.log.staged with
  | none => .next s
  | some (_, t) => guarded (s.awake logIsl && 256 ≤ elapsed (s.now logIsl) t) s s.flushStaged

/-- What a word-by-word read of a queue by software delivers: the word, whether poisoned, and the queue after it; an
empty read repeats the last word and sets UNDERRUN (R36). So does a read of a wedged queue, though a packet in it may still be
visible: the manual says only that nothing more is delivered (R35; DESIGN CHOICE, log entry 112). A packet of n words is gone after
its last word. `bad`: the word fails parity. -/
def CQueue.readWord (c : CQueue) (bad : Bool) : W64 × Bool × CQueue :=
  match c.packets with
  | [] => (c.lastWord, false, { c with underrun := true })
  | p :: r =>
    if !p.visible || c.wedged then (c.lastWord, false, { c with underrun := true })
    else
      let w := p.words.getD c.readPos { w := 0 }
      let poison := w.poison || bad
      let c1 := { c with lastWord := w.w, paritySeen := c.paritySeen || poison }
      (w.w, poison,
        if c.readPos + 1 ≥ p.words.length then { c1 with packets := r, readPos := 0 }
        else { c1 with readPos := c.readPos + 1 })

/-- What a read of one word is told of the parity of its cell: the length word, which is read with word 0 (R492), and the word at `pos`. -/
def wordObs (o : ParityObs) (pos : Nat) : ParityObs :=
  { (if pos = 0 then o else { o with lenBytes := 0, lenXor := 0 }) with words := o.words.filter (· == pos) }

/-- Whether an island answers register requests (R22, R81, R501): it is out of reset with its clock running, and CFG's self-test
has not failed. -/
def State.answers (s : State) (k : IslandNo) : Bool := (s.isl k).live && s.cfg.selfTest != some false

/-- What a request answers and does, given how it and its answer crossed the queues (R33, R81): a poisoned request is not
performed, and a poisoned answer is POISONED. -/
def State.crossed (s : State) (via : Crossing) (r : BitVec 2 × State) : BitVec 2 × State :=
  match via with
  | .clean => r
  | .request => (ansPoisoned, s)
  | .answer => (ansPoisoned, r.2)

/-- The parity check of a read of one word of queue q of XQ0: whether the word fails, and the state after it, the queue wedged where
its length word or link could not be recovered (R33-R35). An empty read checks nothing. -/
def State.wordCheck (s : State) (q : Nat) (o : ParityObs) : Bool × State :=
  let c := (s.quad 0).queue q
  match c.packets with
  | [] => (false, s)
  | p :: _ =>
    if !p.visible || c.wedged then (false, s)
    else
      let r := s.poolCheck 0 (wordObs o c.readPos) c.readPos p
      if (lengthTaken r.1 p.lengthWord).isNone then (false, r.2.wedge 0 q) else (r.1.words.contains c.readPos, r.2)

/-- A read of a read-consuming register over queue q of XQ0 (R33, R36, R81, R492). -/
def State.readQueueWord (s : State) (tag : BitVec 4) (k : IslandNo) (q : Nat) (o : ParityObs) : State :=
  if !s.answers k then s.answer tag ansNoResponse
  else
    let t := s.wordCheck q o
    let r := ((t.2.quad 0).queue q).readWord t.1
    (t.2.onQuad 0 fun d => (d.setQueue q r.2.2).settle).answer tag (if r.2.1 then ansPoisoned else ansOk) r.1

/-- LOG_READ (R492): software reads the next word of the Logbook. -/
def execLogRead (tag : BitVec 4) (parity : ParityObs) (s : State) : Outcome :=
  guarded (s.reqReady tag) s (s.readQueueWord tag logIsl 0x2110 parity)

/-- The selected code with the bits of a write to LOG_CODE_STAT cleared; clearing SEEN empties its first and last record (R490). -/
def LogS.clearCode (l : LogS) (seen lasting injected : Bool) : LogS :=
  let st := l.code l.codeSel.toNat
  { l with codes := KMap.put l.codes l.codeSel.toNat { st with
      seen := st.seen && !seen, lastingSeen := st.lastingSeen && !lasting, injectedSeen := st.injectedSeen && !injected
      first := if seen then [] else st.first, last := if seen then [] else st.last } }

/-- LOG_CODE_SEEN_CLEAR (R490): clearing SEEN of the selected code empties its first and last record. -/
def execLogCodeSeenClear (s : State) : Outcome :=
  guarded (s.isl logIsl).live s { s with log := s.log.clearCode true false false }

/-- CAUSE bits cleared, each with the LOG_FATAL slot of its class (R104, R499). -/
def LogS.clearCause (l : LogS) (mask : BitVec 16) : LogS :=
  { l with
    cause := l.cause &&& ~~~mask
    fatal := l.fatal.mapIdx fun i w => if mask.getLsbD i then [] else w }

/-- ATTN_CAUSE_CLEAR (R104, R499). -/
def execAttnCauseClear (mask : BitVec 16) (s : State) : Outcome :=
  guarded (s.isl logIsl).live s { s with log := s.log.clearCause mask }

/-! Injection. -/

/-- Target fields of INJ_TARGET. -/
def injIsland (w : W64) : Nat := fld w 63 58
def injCode (w : W64) : Nat := fld w 47 32
def injInst (w : W64) : Nat := fld w 31 16

/-- Whether island k holds instance `inst` of detector `code` (R450). -/
def State.hasInst (s : State) (k : IslandNo) (code inst : Nat) : Bool :=
  match detRow code with
  | some r => r.inIsland k (match s.conf k with | some c => c.role | none => 0) && inst < r.insts
  | none => false

/-- Whether an arming is refused (R494). -/
def State.armRefused (s : State) (target : W64) : Bool :=
  let n := injIsland target
  let k : IslandNo := Fin.ofNat 60 n
  !(match s.conf injIsl with | some c => c.injectAllowed (injCode target) | none => false) ||
  60 ≤ n || !s.hasInst k (injCode target) (injInst target) || !(s.isl k).live || s.inj.armedAt.isSome

/-- ARM written (R494): the target of INJ_TARGET is armed, or the write is refused; the response code. An INJ whose shutter is closed
starts nothing (R451; log entry 119). -/
def State.arm (s : State) (count : BitVec 16) (spacing : BitVec 32) : BitVec 2 × State :=
  let t := s.inj.target
  if s.armRefused t then
    (ansDenied, ({ s with inj := { s.inj with refusedSeen := true } }).emit injIsl { code := 0x000B, sev := sevInfo, arg := t })
  else if (s.isl injIsl).state == .shut then (ansOk, s)
  else
    let k : IslandNo := Fin.ofNat 60 (injIsland t)
    (ansOk, ({ s with inj := { s.inj with armedAt := some k } }).onIsl k fun i => { i with armed := some {
      code := BitVec.ofNat 16 (injCode t), inst := BitVec.ofNat 16 (injInst t),
      remaining := if count = 0 then 1 else count, spacing := spacing } })

/-- INJ_ARM (R494). -/
def execInjArm (tag : BitVec 4) (count : BitVec 16) (spacing : BitVec 32) (via : Crossing) (s : State) : Outcome :=
  guarded s.chanUp s
    (if !s.answers injIsl then s.answer tag ansNoResponse
    else let r := s.crossed via (s.arm count spacing); r.2.answer tag r.1)

/-- The arming in force ends, if there is one (R496). -/
def State.cancelArm (s : State) : State :=
  match s.inj.armedAt with
  | none => s
  | some k => ({ s with inj := { s.inj with armedAt := none, cancelSeen := true } }).onIsl k fun i => { i with armed := none }

/-- INJ_CANCEL (R496): the remaining injections end. -/
def execInjCancel (s : State) : Outcome := guarded (s.isl injIsl).live s s.cancelArm

/-! Snapshots. -/

/-- FREEZE written at an island (R497): setting it latches, clearing it shows running values again. -/
def Island.snap (i : Island) (freeze : Bool) : Island :=
  if freeze then { i.latch with freeze := true } else { i with freeze := false }

/-- ISLAND_SNAP (R497). -/
def execIslandSnap (k : IslandNo) (freeze : Bool) (s : State) : Outcome :=
  guarded (s.isl k).live s (s.onIsl k fun i => i.snap freeze)

/-- FREEZE written to every island out of reset (R498). -/
def State.snapAll (s : State) (freeze : Bool) : State := s.onIslands fun _ i => if i.inReset then i else i.snap freeze

/-- PRAUX_SNAP (R498): FREEZE of every island out of reset. -/
def execPrauxSnap (freeze : Bool) (s : State) : Outcome := guarded s.chanUp s (s.snapAll freeze)

end Sys2Proof.Machine
end

