-- ==== Sys2Proof/Machine/CmdQ.lean ====
section
/-! DEFINITION. Command queues: descriptors, doorbells, fetching, completion records (R325-R341, R358-R377). -/

namespace Sys2Proof.Machine

/-! Queues and entries. -/

/-- Queue q. -/
def State.cq (s : State) (q : Fin 64) : CmdQ := s.cmd.queues[q]
/-- The state with queue q changed by f. -/
def State.onCq (s : State) (q : Fin 64) (f : CmdQ → CmdQ) : State :=
  { s with cmd := { s.cmd with queues := s.cmd.queues.set q (f s.cmd.queues[q]) } }

/-- Whether CMD fetches entries and starts commands: in RUN and not asked to quiesce (R143, R509). -/
def State.cmdActive (s : State) : Bool := s.begins cmdIsl

/-- The ring size (R325). -/
def CmdQ.size (c : CmdQ) : Nat := 2 ^ c.sizeLog

/-- Fields of word 0 of a descriptor (R329). -/
def Entry.word (e : Entry) (i : Nat) : W64 := e.words.getD i 0
def Entry.opcode (e : Entry) : Nat := fld (e.word 0) 63 56
def Entry.seq (e : Entry) : BitVec 16 := e.idx.setWidth 16
def Entry.phase (e : Entry) : Bool := e.idx.getLsbD 16
def Entry.hcq (e : Entry) : Bool := bitAt (e.word 0) 38
def Entry.quiet (e : Entry) : Bool := bitAt (e.word 0) 37
def Entry.slice (e : Entry) : SliceNo := Fin.ofNat 32 (fld (e.word 0) 36 32)
def Entry.slot (e : Entry) : Fin 64 := Fin.ofNat 64 (fld (e.word 0) 29 24)

/-- Whether the CHECK of an entry or record holds (R330, R359). -/
def checkHolds (ws : List W64) : Bool := xorBytes (wordsBytes ws) == 0xA5

/-- Whether an entry read at a ring index is accepted (R338). -/
def entryFits (idx : BitVec 17) (ws : List W64) : Bool :=
  fld (ws.getD 0 0) 55 40 == idx.toNat % 65536 && bitAt (ws.getD 0 0) 39 == idx.getLsbD 16 && checkHolds ws

/-! The local entry store (R326). -/

/-- The byte at an address of the entry store. -/
def storeByte (m : List Host.Cell) (a : Nat) : Byte :=
  match m.find? fun c => c.1 == a with | some c => c.2 | none => storeDefault

/-- Writes one byte, keeping the canonical form. -/
def storePut (m : List Host.Cell) (a : Nat) (b : Byte) : List Host.Cell :=
  match m with
  | [] => if b = storeDefault then [] else [(a, b)]
  | c :: r =>
    if c.1 < a then c :: storePut r a b
    else if c.1 = a then (if b = storeDefault then r else (a, b) :: r)
    else if b = storeDefault then c :: r else (a, b) :: c :: r

/-- Writes bytes from an address on. -/
def storePuts (m : List Host.Cell) (a : Nat) : List Byte → List Host.Cell
  | [] => m
  | b :: r => storePuts (storePut m a b) (a + 1) r

/-- A word of the store: word w of CMD_ENTRY. -/
def CmdS.entryWord (c : CmdS) (w : Nat) : W64 := leWord ((List.range 8).map fun i => storeByte c.store (8 * w + i))
/-- The state of CMD with a word of the store written. -/
def CmdS.setEntryWord (c : CmdS) (w : Nat) (v : W64) : CmdS :=
  { c with store := storePuts c.store (8 * w) (leBytes 8 v.toNat) }

/-- The eight words of store entry e. -/
def CmdS.storeEntry (c : CmdS) (e : Nat) : List W64 := (List.range 8).map fun i => c.entryWord (8 * (e % 2048) + i)

/-! Completion records. -/

/-- The four words of a completion record (R359). -/
def recordWords (q : Fin 64) (seq : BitVec 16) (phase : Bool) (epoch : BitVec 8) (opcode : Nat) (r : CmdRun) (hcqLost : Bool)
    (cycle : Ctr) : List W64 :=
  let w := [
    packW [put q.val 58, put seq.toNat 42, put epoch.toNat 34, put (opcode % 256) 26, put r.status.toNat 18, flag phase 17],
    packW [put (sat 32 r.dropped) 32, put (sat 32 r.redispatch) 0],
    packW [put (sat 24 r.plates) 40, flag r.poisoned 31, flag r.trimmed 30, flag r.approx 29, flag r.bfailRow 28,
      flag r.bfailCol 27, flag hcqLost 26, flag r.joinDeclined 25, flag r.spilled 24],
    put cycle.toNat 0]
  match w with
  | w0 :: rest => (w0 ||| put (0xA5 ^^^ (xorBytes (wordsBytes w)).toNat) 0) :: rest
  | [] => []

/-- Whether any flag of a record is set. -/
def CmdRun.anyFlag (r : CmdRun) (hcqLost : Bool) : Bool :=
  r.poisoned || r.trimmed || r.approx || r.bfailRow || r.bfailCol || hcqLost || r.joinDeclined || r.spilled

/-- The completion queue of a command queue (R136). -/
def State.cqFor (s : State) (q : Fin 64) : Fin 16 :=
  Fin.ofNat 16 (match s.conf cmdIsl with | some c => c.cqOf q.val | none => 0)

/-- A record goes to its completion queue as one packet, or is held behind those already held (R361, R365). -/
def State.postRecord (s : State) (q : Fin 64) (ws : List W64) : State :=
  let c := s.cqFor q
  let n := 0x2100 + c.val
  if !(s.cmd.held.any fun h => h.cq == c) && s.canOpen 0 n 1 then
    s.onQuad 0 fun d => d.enqueue n (pktOf (plain ws) 0 false .words)
  else { s with cmd := { s.cmd with held := s.cmd.held ++ [{ cq := c, words := ws }] } }

/-- The record of an entry that completes with no run: ABORTED or STALE_ENTRY (R363, R368, R371). -/
def State.bareRecord (s : State) (q : Fin 64) (seq : BitVec 16) (phase : Bool) (epoch : BitVec 8) (opcode : Nat)
    (st : BitVec 8) (hcqLost : Bool) : State :=
  let r : CmdRun := { id := 0, q := q, entry := default, status := st }
  let s1 := s.postRecord q (recordWords q seq phase epoch opcode r hcqLost (s.now cmdIsl))
  if hcqLost then s1.bump cmdIsl cmdHcqLost else s1

/-- Every entry of a queue accepted and not started completes ABORTED (R370, R374, R376). -/
def State.abortAccepted (s : State) (q : Fin 64) : State :=
  let c := s.cq q
  c.accepted.foldl (fun s e => ((s.bareRecord q e.seq e.phase e.epoch e.opcode stAborted (c.host && c.hcqEn && e.hcq)).bump
      cmdIsl cmdAborted).bump cmdIsl cmdCompleted)
    (s.onCq q fun c => { c with accepted := [] })

/-! Host windows. -/

/-- Whether a host range lies wholly within an enabled window (R93, R333 order 8). -/
def NwWin.admits (w : NwWin) (addr len : Nat) : Bool :=
  w.en && w.base.toNat ≤ w.limit.toNat && w.base.toNat * 4096 ≤ addr && addr + len ≤ (w.limit.toNat + 1) * 4096
def CmdS.winAdmits (c : CmdS) (w : BitVec 4) (addr len : Nat) : Bool := (c.wins[Fin.ofNat 16 w.toNat]).admits addr len

/-- A host access waits to be issued. -/
def State.hostAccess (s : State) (a : NwAcc) : State :=
  { s with cmd := { s.cmd with nwWaiting := s.cmd.nwWaiting ++ [a] } }

/-- Whether a host access may be issued now: the path up, and a host queue armed under its epoch (R357, R368). -/
def CmdS.mayIssue (c : CmdS) (a : NwAcc) : Bool :=
  c.pathUp && match a.queue with
    | none => true
    | some (q, e) => let k := c.queues[q]; !k.host || (k.armed && k.epoch == e)

/-! Doorbells. -/

/-- A doorbell applied to a queue (R336, R373), and the counters it raises. -/
def CmdQ.doorbell (c : CmdQ) (w : W64) : CmdQ × List (Nat × Nat) :=
  let tail := fld w 57 42
  let epoch := bits 8 w 34
  let rearm := c.host && !c.armed && epoch == c.epoch + 1
  let restart := rearm && bitAt w 33
  let skip := (tail + 65536 - c.head.toNat % 65536) % 65536
  let head := if restart then c.head + BitVec.ofNat 17 skip else c.head
  let dNew := (tail + 65536 - head.toNat % 65536) % 65536
  let dCur := if restart then 0 else (c.tail.toNat + 131072 - head.toNat) % 65536
  if !c.en || fld w 32 0 != 0 || c.size ≤ dNew then (c, [(cmdDbBad, 1)])
  else if c.host && !rearm && (!c.armed || epoch != c.epoch) then (c, [(cmdDbEpoch, 1)])
  else
    let c1 := if rearm then { c with armed := true, epoch := epoch, head := head, stale := if restart then none else c.stale } else c
    let c2 := if restart then { c1 with tail := head } else c1
    let counts := if restart then [(cmdQSkipped, skip)] else []
    if dNew < dCur then (c2, (cmdDbOld, 1) :: counts)
    else ({ c2 with tail := head + BitVec.ofNat 17 dNew }, counts)

/-- CMD acts on one doorbell (R336, R373). -/
def State.ringOne (s : State) (data : W64) : State :=
  let q : Fin 64 := Fin.ofNat 64 (fld data 63 58)
  let r := (s.cq q).doorbell data
  r.2.foldl (fun s e => s.bump cmdIsl e.1 e.2) (s.onCq q fun _ => r.1)

/-- CMD acts on every doorbell in its buffer, in the order accepted (R84). -/
def State.ringAll (s : State) : State :=
  s.cmd.doorbells.foldl State.ringOne { s with cmd := { s.cmd with doorbells := [] } }

/-- cp_db_ready (R84): while CMD takes work, the doorbell buffer has room; before it is enabled and while it is quiesced, always; never
while CMD is in reset. DESIGN CHOICE (log entry 119): a CMD whose shutter is closed discards doorbells as a quiesced one does. -/
def State.dbReady (s : State) : Bool := (s.isl cmdIsl).live && (!s.cmdActive || decide (s.cmd.doorbells.length < 64))

/-- DOORBELL (R83, R84, R336, R373): a doorbell transfers where cp_db_ready is high. While CMD takes work it joins the doorbell buffer,
on which CMD acts at once (`act`) or later; else it is counted and discarded. -/
def execDoorbell (bell : Bell) (s : State) : Outcome :=
  guarded s.dbReady s
    (if !s.cmdActive then s.bump cmdIsl cmdDbDropped
    else
      let s1 := { s with cmd := { s.cmd with doorbells := s.cmd.doorbells ++ [bell.word] } }.bump cmdIsl cmdDbAccepted
      if bell.act then s1.ringAll else s1)

/-! Fetching. -/

/-- The queue's stale entry has not become good after eight re-fetches (R339): it halts, and its STALE_ENTRY record is
written, after the host's where one is due. -/
def State.staleHalt (s : State) (q : Fin 64) : State :=
  let c := s.cq q
  let s1 := ((s.onCq q fun c => { c with halted := 1, stale := none }).bump cmdIsl cmdStale).bump cmdIsl cmdCompleted
  let epoch := if c.host then c.epoch else 0
  if c.host && c.hcqEn && c.armed && s.cmd.pathUp then
    let r : CmdRun := { id := 0, q := q, entry := default, status := stStaleEntry }
    s1.hostAccess {
      why := .staleRecord q, wr := true, win := c.win, addr := c.hcq.toNat * 4096 + 64 * (c.head.toNat % c.size), len := 64
      data := fit 64 (wordsBytes (recordWords q (c.head.setWidth 16) (c.head.getLsbD 16) epoch 0 r false (s.now cmdIsl)))
      queue := some (q, epoch) }
  else s1.bareRecord q (c.head.setWidth 16) (c.head.getLsbD 16) epoch 0 stStaleEntry (c.host && c.hcqEn)

/-- An entry read at HEAD is accepted, or is stale (R338, R339). -/
def State.takeEntry (s : State) (q : Fin 64) (ws : List W64) : State :=
  let c := s.cq q
  if entryFits c.head ws then
    (s.onCq q fun c => { c with
      head := c.head + 1, stale := none
      accepted := c.accepted ++ [{
        idx := c.head, words := ws, epoch := if c.host then c.epoch else 0, after := s.cmd.runs.map (·.id) }] }).bump
      cmdIsl cmdAccepted
  else
    let k := match c.stale with | some e => e.1 | none => 0
    if 8 ≤ k then s.staleHalt q
    else s.onCq q fun c => { c with stale := some (k, s.now cmdIsl) }

/-- Entries of a host fetch taken in order, up to a stale one (R338). -/
def State.takeEntries (s : State) (q : Fin 64) : List (List W64) → State
  | [] => s
  | e :: r =>
    let s1 := s.takeEntry q e
    if (s1.cq q).stale.isSome || (s1.cq q).halted != 0 then s1 else s1.takeEntries q r

/-- Sends the read of n entries of a host ring from HEAD on, or halts the queue where the ring lies outside its window
(R337, R340). -/
def State.fetchHost (s : State) (q : Fin 64) (n : Nat) (again : Bool) : State :=
  let c := s.cq q
  let addr := c.ring.toNat * 4096 + 64 * (c.head.toNat % c.size)
  if !s.cmd.winAdmits c.win addr (64 * n) then s.onCq q fun c => { c with halted := 3, stale := none }
  else
    (({ s with nextId := s.nextId + 1 } : State).onCq q fun c =>
      { c with fetch := some { id := s.nextId, first := c.head, count := n, again := again } }).hostAccess {
      why := .fetch q s.nextId, wr := false, win := c.win, addr := addr, len := 64 * n, queue := some (q, c.epoch) }

/-- Whether a queue may fetch: enabled, not halted, no fetch outstanding; a host queue armed with the path up. -/
def State.mayFetch (s : State) (q : Fin 64) : Bool :=
  let c := s.cq q
  s.cmdActive && c.en && c.halted == 0 && c.fetch.isNone && c.accepted.length < 16 && c.head != c.tail &&
    (!c.host || (c.armed && s.cmd.pathUp))

/-- ENTRY_FETCH (R337, R338, R340). -/
def execEntryFetch (q : Fin 64) (s : State) : Outcome :=
  let c := s.cq q
  guarded (s.mayFetch q && c.stale.isNone) s
    (if c.host then
      let n := min (8 - c.head.toNat % 8) (min ((c.tail - c.head).toNat) (16 - c.accepted.length))
      s.fetchHost q n false
    else s.takeEntry q (s.cmd.storeEntry (c.lbase.toNat + c.head.toNat % c.size)))

/-- STALE_REFETCH (R339): attempt k, 2^k × 256 CMD cycles after the answer before it. -/
def execStaleRefetch (q : Fin 64) (s : State) : Outcome :=
  let c := s.cq q
  match c.stale with
  | none => .next s
  | some (k, t) =>
    guarded (s.mayFetch q && 2 ^ k * 256 ≤ elapsed (s.now cmdIsl) t) s
      (let s1 := (s.onCq q fun c => { c with stale := some (k + 1, t) }).bump cmdIsl cmdRefetch
      if c.host then s1.fetchHost q 1 true
      else s1.takeEntry q (s.cmd.storeEntry (c.lbase.toNat + c.head.toNat % c.size)))

/-! Queue registers. -/

/-- The byte offset that a register address names (cp_req_addr carries bits 23:3). -/
def regByte (addr : BitVec 21) : Nat := 8 * addr.toNat

/-- The queue and the register within its 64 bytes that an address of the CMD region's queue registers names. -/
def queueReg (addr : BitVec 21) : Option (Fin 64 × Nat) :=
  let off := regByte addr - 0xD44000
  if 0xD44000 ≤ regByte addr && off < 0x1000 then some (Fin.ofNat 64 (off / 64), off % 64) else none

/-- CMD_Q_CFG as it reads. -/
def CmdQ.cfgWord (c : CmdQ) : W64 :=
  packW [flag c.en 63, flag c.host 62, flag c.hcqEn 61, put c.sizeLog 51, put c.win.toNat 40, put c.lbase.toNat 0]

/-- Whether a ring size is in the range of its kind (R375). -/
def sizeOk (host : Bool) (n : Nat) : Bool := 3 ≤ n && n ≤ (if host then 16 else 10)

/-- A write to CMD_Q_CFG (R369, R374, R375): denied, or the queue configured; clearing EN aborts what has not started. -/
def State.writeQueueCfg (s : State) (q : Fin 64) (w : W64) : Option State :=
  let c := s.cq q
  let n := { c with
    en := bitAt w 63, host := bitAt w 62, hcqEn := bitAt w 61, sizeLog := fld w 55 51, win := bits 4 w 40, lbase := bits 11 w 0 }
  let same := c.host == n.host && c.hcqEn == n.hcqEn && c.sizeLog == n.sizeLog && c.win == n.win && c.lbase == n.lbase
  if (c.en && !same) || !sizeOk n.host n.sizeLog then none
  else if n.en && !c.en then
    some (s.onCq q fun _ => { n with
      head := 0, tail := 0, epoch := 0, armed := n.host, halted := 0, stale := none, fetch := none, accepted := [] })
  else if c.en && !n.en then some ((s.onCq q fun _ => { n with fetch := none, stale := none }).abortAccepted q)
  else some (s.onCq q fun _ => n)

/-- A write to a register of a queue's configuration; none where it is denied. -/
def State.writeQueueReg (s : State) (q : Fin 64) (r : Nat) (w : W64) : Option State :=
  let c := s.cq q
  match r with
  | 0x00 => s.writeQueueCfg q w
  | 0x08 => if c.en && c.ring != bits 52 w 12 then none else some (s.onCq q fun c => { c with ring := bits 52 w 12 })
  | 0x10 => if c.en && c.hcq != bits 52 w 12 then none else some (s.onCq q fun c => { c with hcq := bits 52 w 12 })
  | _ => some s

/-- QUEUE_CONFIG_WRITE (R325, R369, R374, R375). -/
def execQueueConfigWrite (tag : BitVec 4) (addr : BitVec 21) (data : W64) (via : Crossing) (s : State) : Outcome :=
  match queueReg addr with
  | none => .next s
  | some (q, r) =>
    guarded (s.reqReady tag && (r == 0 || r == 8 || r == 16)) s
      (if !s.answers cmdIsl then s.answer tag ansNoResponse
      else
        let t := s.crossed via (match s.writeQueueReg q r data with | some t => (ansOk, t) | none => (ansDenied, s))
        t.2.answer tag t.1)

/-- RESUME (R339, R342): a halted queue runs again; a stale re-fetch starts at k = 0. -/
def CmdQ.resume (c : CmdQ) : CmdQ := if c.halted = 0 then c else { c with halted := 0, stale := none }

/-- HALT (R376): cause software. -/
def CmdQ.halt (c : CmdQ) : CmdQ := if c.halted = 0 then { c with halted := 2 } else c

/-- RESET, and HALT and RESUME of the same write after it (R376). -/
def State.queueReset (s : State) (q : Fin 64) (newHead : BitVec 17) (halt resume : Bool) : State :=
  (s.abortAccepted q).onCq q fun c =>
    let c1 := { c with head := newHead, tail := newHead, stale := none, fetch := none }
    let c2 := if halt then c1.halt else c1
    if resume then c2.resume else c2

/-- QUEUE_RESET (R376). -/
def execQueueReset (q : Fin 64) (newHead : BitVec 17) (halt resume : Bool) (s : State) : Outcome :=
  guarded (s.isl cmdIsl).live s (s.queueReset q newHead halt resume)

/-- QUEUE_HALT (R376), with a RESUME of the same write after it. -/
def execQueueHalt (q : Fin 64) (resume : Bool) (s : State) : Outcome :=
  guarded (s.isl cmdIsl).live s (s.onCq q fun c => if resume then c.halt.resume else c.halt)

/-- QUEUE_RESUME (R339, R342, R376). -/
def execQueueResume (q : Fin 64) (s : State) : Outcome := guarded (s.isl cmdIsl).live s (s.onCq q CmdQ.resume)

/-! Completion queues. -/

/-- CQ_READ (R36, R81, R362). -/
def execCqRead (tag : BitVec 4) (cq : Fin 16) (parity : ParityObs) (s : State) : Outcome :=
  guarded (s.reqReady tag) s (s.readQueueWord tag cmdIsl (0x2100 + cq.val) parity)

/-- CQ_RECORD_HELD_WRITE (R365): the oldest record held for a completion queue is written once it can open a packet. -/
def execCqRecordHeldWrite (cq : Fin 16) (s : State) : Outcome :=
  let n := 0x2100 + cq.val
  match s.cmd.held.find? fun h => h.cq == cq with
  | none => .next s
  | some h =>
    guarded (s.awake cmdIsl && s.canOpen 0 n 1) s
      (({ s with cmd := { s.cmd with held := s.cmd.held.erase h } }).onQuad 0 fun d => d.enqueue n (pktOf (plain h.words) 0 false .words))

/-! WAIT. -/

/-- Whether a WAIT's value is reached (R351). -/
def waitMet (counter value : BitVec 32) : Bool := (counter - value).toNat < 2 ^ 31

/-- WAIT_RELEASE (R351): the counter has reached the value; the WAIT completes and its queue goes on. -/
def execWaitRelease (q : Fin 64) (s : State) : Outcome :=
  match (s.cq q).wait with
  | none => .next s
  | some (run, c, v) =>
    guarded (s.awake cmdIsl && waitMet s.cmd.sig[Fin.ofNat 256 c] v) s
      ((s.onCq q fun c => { c with wait := none }).onRun run fun r => { r with waiting := false })

end Sys2Proof.Machine
end

