-- ==== Sys2Proof/Machine/Commit.lean ====
section
/-! DEFINITION. Plate writes on their way to their home, and commits: opening, filling, closing, copying, swinging
(R257-R263, R422, R441, R465). -/

namespace Sys2Proof.Machine

/-! The way of a stored plate to its home. -/

/-- Whether a command has to register its new object before it writes (R422). -/
def State.mustRegister (s : State) (run : Option Nat) : Bool :=
  match run.bind s.findRun with | some r => r.newRec.isSome && !r.registered | none => false

/-- Sends REGISTER, once, for a command about to write the first plate of a new object (R422); with no free directory
entry the command completes NO_SPACE. -/
def State.registerObject (s : State) (run : Option Nat) : State :=
  match run.bind s.findRun with
  | none => s
  | some r =>
    match r.newRec with
    | none => s
    | some w =>
      let o := ObjRec.ofWords w
      if s.reqs.any fun q => q.why == .register r.id w then s
      else if s.eph.dirFree = 0 then s.failRun run stNoSpace
      else match s.managerOf (domainOf o.oid) with
        | none => s.failRun run stUnreachable
        | some m => s.request {
            unit := unitEph, tid := 0, ptype := ptRegister, dest := m, dunit := unitEph, oid := o.oid
            rest := [w.w0, w.w1], why := .register r.id w }

/-- A plate write reaches its home slice p (R206). -/
def State.receiveWrite (s : State) (p : SliceNo) (w : PWrite) : State :=
  s.onSlice p fun x => { x with home := { x.home with inq := x.home.inq ++ [w] } }

/-- The words of a plate write as they travel: an absent ZFC plate as its synthetic form (R271, log entry 17). -/
def PWrite.travel (w : PWrite) : PlateWords :=
  let body := if w.obj.code = 2 && w.body.isEmpty then syntheticPlate w.obj.oid w.plate w.obj.format else w.header ++ w.body
  { body := body, scale := w.scale, poison := w.poisoned }

/-- A plate write of storing slice p reaches its home slice q: at once where that is p, else over the crossing queues (R17, R18, R252). -/
def State.passWrite (s : State) (p q : SliceNo) (w : PWrite) : State :=
  if p = q then s.receiveWrite q w
  else
    let i := s.newId
    i.2.sendPlate p q w.travel i.1 (.write q i.1 { w with body := [], header := [], scale := [], map := 0 })

/-- Sends a stored plate to a home on another block (R18, R427). -/
def State.sendWrite (s : State) (p : SliceNo) (h : HomeAt) (w : PWrite) : State :=
  s.request {
    unit := unitPs p, tid := 0, ptype := ptWrReq, dest := h.block, dunit := unitPs h.slice, oid := w.obj.oid
    idx := w.plate, data := w.travel, why := .write w.run w.slot w.poisoned, tries := w.tries }

/-- Where a plate write of storing slice p goes: to its home, or a LOOKUP first; false while the home is not known. -/
def State.homeWrite (s : State) (p : SliceNo) (w : PWrite) : Bool × State :=
  if s.isHalted (domainOf w.obj.oid) && w.run.isSome then (true, (s.failRun w.run stHalted).releaseSlot w.slot)
  else match s.homeOf w.obj.oid (spanOf w.plate.toNat) with
  | some h =>
    let s0 := s.foundHome w.obj.oid (spanOf w.plate.toNat)
    (true, if h.block = s.block then
        if s.meets (psIsl p) (psIsl h.slice) then s0.passWrite p h.slice w else (s0.failRun w.run stUnreachable).releaseSlot w.slot
      else s0.sendWrite p h w)
  | none =>
    let l := s.lookup w.obj.oid (spanOf w.plate.toNat)
    if l.1 then (false, l.2) else (true, (s.failRun w.run stUnreachable).releaseSlot w.slot)

/-! Commits. -/

/-- Replaces the commit with the same identifier. -/
def State.putCommit (s : State) (p : SliceNo) (m : Commit) : State :=
  s.onSlice p fun x => { x with store := { x.store with commits := mapIf (fun c => c.id == m.id) (fun _ => m) x.store.commits } }

/-- Whether a commit belongs to the writer of a plate: the command, or the unit elsewhere. -/
def Commit.isOf (m : Commit) (w : PWrite) : Bool :=
  m.run == w.run && m.src.map (fun r => (r.block, r.unit)) == w.src.map (fun r => (r.block, r.unit))

/-- The plates of a span that are stored, from its index or the record of written plates. -/
def State.storedPlates (s : State) (o : ObjRec) (span : Nat) (es : List IdxEntry) : List Nat :=
  if o.code = 2 then es.map fun e => e.row * o.pcols + e.col
  else (s.eph.written.filter fun w => w.1 == o.oid && w.2 / 64 == span).map (·.2)

/-- The lines a stored plate takes in its frame's body or packed segment. -/
def PWrite.lineCount (w : PWrite) : Nat := if w.obj.code = 2 then w.body.length / 512 else bodyLines w.obj

/-- The body lines of a plate at their place in a frame. -/
def bodyWLines (o : ObjRec) (n base k first : Nat) (data : List Byte) : List WLine :=
  if o.code = 2 then (List.range (data.length / 512)).map fun i =>
    { addr := base + segStart o n .packed + first + i, id := lineId o k .packed i, data := (data.drop (512 * i)).take 512 }
  else (List.range (bodyLines o)).map fun i =>
    { addr := base + segLine o n .body (posOf k) + i, id := lineId o k .body i, data := fit 512 ((data.drop (512 * i)).take 512) }

/-- Writes the lines of packed plates of a commit into its new frame, through the port of the frame's slice. -/
def State.writePacked (s : State) (m : Commit) (ps : List Packed) : State :=
  let n := spanPlates m.obj m.span
  ps.foldl (fun s q =>
    let lines := bodyWLines m.obj n m.base q.plate.toNat q.first q.data
    if lines.isEmpty then s
    else
      let i := s.newId
      i.2.startWrite m.target {
        id := i.1, run := m.run, oid := m.obj.oid, plate := q.plate, commit := some m.id, poisoned := q.poisoned
        slot := q.slot, fresh := true, left := 0 } lines) s

/-- Gives every packed plate of a commit in a new frame that has no place yet its place, and writes it (R260 step 1). -/
def State.flushPlates (s : State) (p : SliceNo) (m : Commit) : State :=
  let todo := m.plates.filter fun q => !q.sent
  let placed := todo.foldl (fun (a : Nat × List Packed) q =>
    (a.1 + q.lines, a.2 ++ [{ q with first := a.1, sent := true }])) (m.used, [])
  let writes := (placed.2.filter fun q => 0 < q.lines).length
  let m1 := { m with
    plates := (m.plates.filter (·.sent)) ++ placed.2, used := placed.1, left := m.left + writes }
  (s.putCommit p m1).writePacked m1 placed.2

/-- A plate of a commit, packed. -/
def PWrite.packed (w : PWrite) : Packed :=
  { plate := w.plate, data := w.body, scale := w.scale, map := w.map, header := w.header, poisoned := w.poisoned,
    lines := w.lineCount, slot := w.slot }

/-- A commit whose first plate has come; its old frame is the span's, or the new frame of an earlier commit of the same
command that awaits its swing (R257, R465). -/
def State.newCommit (s : State) (p : SliceNo) (w : PWrite) (span : Nat) : Nat × Commit × State :=
  let i := s.newId
  let prev := ((s.slice p).store.commits.filter fun m =>
    m.obj.oid == w.obj.oid && m.span == span && m.isOf w && m.st == .ready).getLast?
  let m0 : Commit := {
    id := i.1, run := w.run, src := w.src, obj := w.obj, target := p, span := span
    st := if s.consistent then .claiming else .inPlace }
  let m := match prev with
    | some q => { m0 with
        hasOld := true, oldSlice := q.target, oldBase := q.base, oldExtents := q.extents, oldEntries := q.entries
        chained := true }
    | none =>
      match s.eph.serves w.obj.oid span with
      | .at sl base e => if e.noFrame then { m0 with st := .claiming } else { m0 with
          hasOld := true, oldSlice := sl, oldBase := base, oldExtents := e.extents
          st := if s.eph.badIndex.contains (w.obj.oid, span) then .claiming else m0.st
          oldEntries := match (s.slice p).home.index w.obj.oid span with | some ix => ix.2 | none => [] }
      | _ => { m0 with st := .claiming }
  (i.1, m, i.2)

/-- The line count of a plate in the commit's old frame; none where a new frame is due whatever the count. -/
def Commit.oldPlace (m : Commit) (k : Nat) : Option (Nat × Nat) :=
  if m.hasOld then some ((locate m.obj k m.oldEntries).getD (0, 0)) else none

/-- A plate joins its commit (R259, R260): in place where its line count is the old one, else the commit takes a new
frame and the plate goes there. -/
def State.commitAdd (s : State) (p : SliceNo) (m : Commit) (w : PWrite) : State :=
  let k := w.plate.toNat
  let n := spanPlates m.obj m.span
  -- the plate is in encoding no more, and counts against its slot until its writes are answered (R203, R212)
  let e := match w.slot with
    | some t => s.onSlice t.1 fun x => { x with store := { x.store with encoding := x.store.encoding - 1 } } | none => s
  let s0 := match w.run with
    | some r => e.onRun r fun r => { r with stored := r.stored ++ [(w.obj.oid, k)] } | none => e
  let answers := match w.src with | some r => m.answers ++ [(r, w.plate)] | none => m.answers
  match (if m.st = .inPlace then m.oldPlace k else none) with
  | some old =>
    if old.2 = w.lineCount then
      let i := s0.newId
      let m1 := { m with left := m.left + 1 }
      (i.2.putCommit p m1).startWrite p {
          id := i.1, run := w.run, oid := w.obj.oid, plate := w.plate, commit := some m.id, answer := w.src
          poisoned := w.poisoned, heal := w.heal, left := 0 }
        (bodyWLines m.obj n m.oldBase k old.1 w.body ++ writeLines n m.oldBase w)
    else s0.putCommit p { m with st := .claiming, plates := m.plates ++ [w.packed], answers := answers }
  | none =>
    let m1 := { m with
      st := if m.st = .inPlace then .claiming else m.st
      -- a later store of the same plate takes the place of the earlier one
      plates := (m.plates.filter fun q => q.plate != w.plate) ++ [w.packed], answers := answers }
    if m1.st = .newFrame then s0.flushPlates p m1 else s0.putCommit p m1

/-- Whether a commit's old index is at hand (R251), or none is needed. -/
def State.indexKnown (s : State) (p : SliceNo) (o : ObjRec) (span : Nat) : Bool :=
  o.code != 2 || s.eph.badIndex.contains (o.oid, span) || match s.eph.serves o.oid span with
    | .at _ _ e => e.noFrame || ((s.slice p).home.index o.oid span).isSome | _ => true

/-- Whether two plate writes have one writer: a command, or a unit elsewhere. -/
def PWrite.sameWriter (q w : PWrite) : Bool :=
  (w.run.isSome || w.src.isSome) && q.run == w.run && q.src.map (fun r => (r.block, r.unit)) == w.src.map (fun r => (r.block, r.unit))

/-- Whether the plate write at a place of the queue may go now (R206, R257, R258): earlier writes of the plate have gone,
reads begun earlier have their lines; a write kept within a commit goes in the order in which its writer's plates came, and finds
its commit, or may open one. -/
def State.mayWrite (s : State) (p : SliceNo) (i : Nat) (w : PWrite) : Bool :=
  let x := s.slice p
  let span := spanOf w.plate.toNat
  let earlier := (x.home.inq.take i).any fun q =>
    (q.obj.oid == w.obj.oid && q.plate == w.plate) || (s.usesCommit w.obj && s.usesCommit q.obj && q.sameWriter w)
  let busy := (x.home.reads.any fun j => j.started && j.obj.oid == w.obj.oid && j.plate == w.plate && j.dest != .index) ||
    x.home.writes.any fun j => j.oid == w.obj.oid && j.plate == w.plate && !j.fresh
  let mine := x.store.commits.any fun m => m.obj.oid == w.obj.oid && m.span == span && m.isOf w
  -- a span in motion takes only writes of writers whose commits on it have not ended (R437 step 2, R438)
  let held := (s.eph.srcs.any fun m => m.oid == w.obj.oid && m.span.toNat == span) && !mine
  !earlier && !busy && !held &&
  if s.usesCommit w.obj then
    let here := x.store.commits.filter fun m => m.obj.oid == w.obj.oid && m.span == span && !(m.st == .ready && m.isOf w)
    s.indexKnown p w.obj span &&
      match here.find? fun m => m.isOf w && !m.closed with
      | some _ => true
      | none => here.isEmpty && x.store.commits.length < 64
  else match s.eph.serves w.obj.oid span with | .at _ _ e => !e.noFrame | _ => false

/-- Whether a plate write carries no content: a copy of an FRC plate that was never written (log entry 113). -/
def PWrite.isNothing (w : PWrite) : Bool := w.obj.code == 1 && w.body.isEmpty

/-- The copy of an FRC plate that was never written leaves the plate as its source is (R159; log entry 113). -/
def State.storeNothing (s : State) (p : SliceNo) (w : PWrite) : State :=
  let s1 : State := { s with eph := s.eph.markUnwritten w.obj.oid w.plate.toNat w.poisoned }
  let s2 := match w.run with
    | some r => s1.onRun r fun r => { r with
        stored := r.stored ++ [(w.obj.oid, w.plate.toNat)], plates := r.plates + 1, poisoned := r.poisoned || w.poisoned }
    | none => s1
  let s3 := match w.src with | some r => s2.ackTo r (unitPs p) fsOk w.obj.oid w.plate | none => s2
  s3.wakeReads p w.obj.oid w.plate

/-- A plate write goes (R206, R257-R260). -/
def State.goWrite (s : State) (p : SliceNo) (i : Nat) (w : PWrite) : State :=
  let span := spanOf w.plate.toNat
  let s0 := s.onSlice p fun x => { x with home := { (x.home.useIndex w.obj.oid span) with inq := x.home.inq.eraseIdx i } }
  if s.usesCommit w.obj then
    match (s0.slice p).store.commits.find? fun m =>
        m.obj.oid == w.obj.oid && m.span == span && m.isOf w && !m.closed && m.st != .ready with
    | some m => s0.commitAdd p m w
    | none =>
      -- the command's open commit on another span of this slice closes
      let s1 := s0.onSlice p fun x => { x with store := { x.store with
        commits := mapIf (fun m => m.isOf w && !m.closed) (fun m => { m with closed := true }) x.store.commits } }
      let c := s1.newCommit p w span
      let s2 := c.2.2.onSlice p fun x => { x with store := { x.store with commits := x.store.commits ++ [c.2.1] } }
      s2.commitAdd p c.2.1 w
  else match s0.eph.serves w.obj.oid span with
    | .at sl base _ =>
      if w.isNothing then s0.storeNothing p w else
      let j := s0.newId
      let s1 := match w.run with
        | some r => j.2.onRun r fun r => { r with stored := r.stored ++ [(w.obj.oid, w.plate.toNat)] } | none => j.2
      s1.startWrite sl {
        id := j.1, run := w.run, oid := w.obj.oid, plate := w.plate, answer := w.src, slot := w.slot
        poisoned := w.poisoned, heal := w.heal, left := 0 } (writeLines (spanPlates w.obj span) base w)
    | _ => s0

/-- Whether a commit closes (R257): the next plate of its writer that waits here lies in another span; or none waits, and its command
has stored every plate of the span it writes, or generates no more work, or the writer is elsewhere (log entry 18). -/
def State.commitCloses (s : State) (p : SliceNo) (m : Commit) : Bool :=
  match (s.slice p).home.inq.find? fun w => m.isOf w && s.usesCommit w.obj with
  | some w => !(w.obj.oid == m.obj.oid && spanOf w.plate.toNat == m.span)
  | none => match m.run.bind s.findRun with
    | some r => r.stopped || r.done ||
        (r.dests.filter fun d => d.1 == m.obj.oid && d.2 / 64 == m.span).all fun d => r.stored.contains d
    | none => true

/-- Reads the plates of the old frame that the new one takes over (R260 step 2). -/
def State.copyReads (s : State) (m : Commit) (ks : List Nat) : State :=
  let o := m.obj
  let n := spanPlates o m.span
  ks.foldl (fun s k =>
    let loc := (locate o k m.oldEntries).getD (0, 0)
    let plan := if o.code = 2 then zfcPlan o n m.oldBase k loc.1 loc.2 else readPlan o n m.oldBase k
    let i := s.newId
    let j : RJob := {
      id := i.1, obj := o, plate := BitVec.ofNat 24 k, dest := .commit m.id, base := m.oldBase, plan := plan
      started := true, lines := loc.2 }
    (i.2.putJob m.oldSlice j).askLines m.oldSlice j) s

/-- The lines of the header, almanac and scale segments of a new frame (R260 step 3, R266): an entry for every plate
the commit holds; the map of a plate that has been written and is absent is all zeros, that of one never written predicts dense. -/
def State.tableLines (s : State) (m : Commit) : List WLine :=
  let o := m.obj
  let n := spanPlates o m.span
  let at_ (k : Nat) : Option Packed := m.plates.find? fun q => q.plate.toNat == k
  let ks := (List.range n).map fun i => 64 * m.span + i
  ((List.range (headerLines o n)).map fun l => {
    addr := m.base + segStart o n .header + l, id := lineId o (64 * m.span + 8 * l) .header 0
    data := (List.range 8).flatMap fun i => fit 64 (match at_ (64 * m.span + 8 * l + i) with | some q => q.header | none => []) }) ++
  ((List.range (almanacLines o n)).map fun l => {
    addr := m.base + segStart o n .almanac + l, id := lineId o (64 * m.span + 16 * l) .almanac 0
    data := (List.range 16).flatMap fun i => match at_ (64 * m.span + 16 * l + i) with
      | some q => mapBytes q.map
      | none => List.replicate 32 (if s.eph.isWritten o.oid (64 * m.span + 16 * l + i) then 0 else 0xFF) }) ++
  (if scaleLines o n = 0 then [] else (ks.filter fun k => (at_ k).isSome).map fun k => {
    addr := m.base + segLine o n .scale (posOf k), id := lineId o k .scale 0
    data := fit 512 (match at_ k with | some q => q.scale | none => []) })

/-- The index entries of a commit's new frame (R249, R250). -/
def Commit.newEntries (m : Commit) : List IdxEntry :=
  (m.plates.filter fun q => 0 < q.lines).foldl (fun es q => insertEntry {
    row := q.plate.toNat / m.obj.pcols, col := q.plate.toNat % m.obj.pcols, lines := q.lines, offset := q.first } es) []

/-- Writes lines of a commit's new frame as one write job of it. -/
def State.commitLines (s : State) (p : SliceNo) (m : Commit) (lines : List WLine) : State :=
  if lines.isEmpty then s
  else
    let i := s.newId
    (i.2.putCommit p { m with left := m.left + 1 }).startWrite m.target {
      id := i.1, run := m.run, oid := m.obj.oid, plate := BitVec.ofNat 24 (64 * m.span), commit := some m.id
      fresh := true, left := 0 } lines

/-- A commit on a span whose index could not be rebuilt stores every other plate of the span that has been written as a poisoned
plate with an empty field map (R270). -/
def State.poisonRest (s : State) (p : SliceNo) (m : Commit) : State :=
  let o := m.obj
  let mine := m.plates.map (·.plate.toNat)
  let rest := ((s.eph.written.filter fun w => w.1 == o.oid && w.2 / 64 == m.span).map (·.2)).filter fun k => !mine.contains k
  let form (k : Nat) : Packed :=
    let body := poisonedZeros o.oid (BitVec.ofNat 24 k) o.format
    { plate := BitVec.ofNat 24 k, data := body, scale := List.replicate (if hasScale o.format then 512 else 0) 0, map := 0
      poisoned := true, copied := true, lines := body.length / 512 }
  let s1 := s.flushPlates p { m with plates := m.plates ++ rest.map form, st := .tables }
  match (s1.slice p).store.commits.find? fun c => c.id == m.id with
  | some m2 => s1.commitLines p m2 (s.tableLines m2)
  | none => s1

/-- The next thing a commit does without being asked, if there is one: it closes; an in-place commit ends; a closed new
frame takes the other plates of the old one and then its tables; in Consistent mode it awaits its swing (R257-R260,
R465). -/
def State.advanceCommit (s : State) (p : SliceNo) (m : Commit) : Option State :=
  if !m.closed then
    (if s.commitCloses p m then some (s.putCommit p { m with closed := true }) else none)
  else match m.st with
    | .inPlace =>
      if m.left = 0 then
        some ((s.onSlice p fun x => { x with store := { x.store with commits := x.store.commits.filter fun c => c.id != m.id } }).bump
          (psIsl p) psStInplace)
      else none
    | .newFrame =>
      -- the old frame is read once what was written in place there has been answered
      if m.failed || (s.slice p).home.writes.any (fun w => w.commit == some m.id && !w.fresh) then none
      else if s.eph.badIndex.contains (m.obj.oid, m.span) then some (s.poisonRest p m)
      else
        let mine := m.plates.map (·.plate.toNat)
        let ks := if m.hasOld then (s.storedPlates m.obj m.span m.oldEntries).filter fun k => !mine.contains k else []
        some ((s.putCommit p { m with st := .copying, copy := ks }).copyReads m ks)
    | .copying =>
      if m.copy.isEmpty && !m.failed then
        let m1 := { m with plates := mapIf (fun q => q.copied && !q.sent) (fun q =>
          { q with lines := if m.obj.code = 2 then q.data.length / 512 else bodyLines m.obj }) m.plates }
        let s1 := s.flushPlates p { m1 with st := .tables }
        (match (s1.slice p).store.commits.find? fun c => c.id == m.id with
        | some m2 => some (s1.commitLines p m2 (s.tableLines m2))
        | none => some s1)
      else none
    | .tables =>
      if m.left = 0 && !m.failed && m.obj.code != 2 then
        some (s.putCommit p { m with st := .ready })
      else none
    | .index => if m.left = 0 && !m.failed then some (s.putCommit p { m with st := .ready }) else none
    | _ => none

/-- The first commit of a slice that can go on, gone on. -/
def State.advanceAny (s : State) (p : SliceNo) : Option State :=
  (s.slice p).store.commits.findSome? fun m => s.advanceCommit p m

/-- Swings a span to the new frame of its commit (R260 steps 5-7, R417, R418): the directory entry, the unused tail, the
old frame to be freed, the record of written plates, and the answers. -/
def State.swing (s : State) (p : SliceNo) (m : Commit) : State :=
  let n := spanPlates m.obj m.span
  let ext := if m.obj.code = 2 then frameExtents m.obj n m.used else frameExtents m.obj n 0
  let now := s.now ephIsl
  let e0 := { s.eph with dir := dirRemove s.eph.dir m.obj.oid m.span }
  let e1 := e0.addFrame m.obj m.target m.span (m.base / 16) ext false now
  let e2 := m.plates.foldl (fun e q => if q.copied then e
    else if m.obj.code == 1 && q.data.isEmpty then e.markUnwritten m.obj.oid q.plate.toNat q.poisoned
    else e.markWritten m.obj.oid q.plate.toNat q.poisoned) e1
  let e3 := if m.hasOld then
    { e2 with freeing := e2.freeing ++ [(m.oldSlice, m.oldBase / 16, m.oldExtents, m.obj.oid, m.span)] } else e2
  let s1 : State := { s with eph := { e3 with badIndex := e3.badIndex.filter (· != (m.obj.oid, m.span)) } }
  let s2 := s1.release m.target (m.base / 16 + ext) (m.extents - ext)
  let fix (x : Slice) : Slice := { x with store := { x.store with
    commits := x.store.commits.filter fun c => c.id != m.id } }
  let s3 := (s2.onSlice p fix).onSlice m.target fun x => { x with
    home := if m.obj.code = 2 then x.home.putIndex m.obj.oid m.span m.used m.newEntries else x.home }
  let mine := m.plates.filter fun q => !q.copied
  let s4 := match m.run with
    | some r => s3.onRun r fun r => { r with
        plates := r.plates + mine.length, poisoned := r.poisoned || mine.any (·.poisoned) }
    | none => s3
  let s5 := if m.run.isNone && m.src.isNone then mine.foldl (fun s q => s.healStored m.obj.oid q.plate true) s4 else s4
  (m.answers.foldl (fun s a => s.ackTo a.1 (unitPs p) fsOk m.obj.oid a.2) (s5.bump (psIsl p) psStNewframe)).mirDir

/-- Whether the directory has room for the entries a swing adds (R418). -/
def State.swingFits (s : State) (m : Commit) : Bool :=
  s.eph.leaveFits m.obj.oid m.span 1

end Sys2Proof.Machine
end

