-- ==== Sys2Proof/Machine/SpgOps.lean ====
section
/-! DEFINITION. Streams of the Eyepiece as commands open them, and the slots as SPG keeps them: the shared operations
(R210-R220, R228). -/

namespace Sys2Proof.Machine

/-! Streams. -/

/-- Whether a slice's datapath can be used: enabled, its island in RUN, its shutter open (R346, R451). -/
def State.sliceWorks (s : State) (p : SliceNo) : Bool :=
  s.running (psIsl p) && !(s.slice p).dataShut && match s.conf (psIsl p) with | some c => c.sliceEn p.val | none => false

/-- Whether slice p does work of a command now: while the pair is joined under its twin, commands for it wait (R292); heals do not. -/
def Slice.takesRun (x : Slice) (run : Nat) : Bool := !x.pair.joined || x.pair.lead || x.pair.run == some run || run == 0

/-- The slice through whose store path the plates homed on a slice go: its own; its twin's where that serves the port end
(R294); where neither works, that of the first slice that does (log entry 19). -/
def State.storeOf (s : State) (p : SliceNo) : SliceNo :=
  let dead := (s.slice p).dataShut || match s.conf (psIsl p) with | some c => !c.sliceEn p.val | none => false
  if !dead then p
  else if (s.slice (twinOf p)).pair.serving && !(s.slice (twinOf p)).dataShut then twinOf p
  else ((List.finRange 32).find? s.sliceWorks).getD p

/-- The slice whose store path stores plate k of an object: its home slice on this block, else the slice at which the
block's own interleave has the span (R162, R331; log entry 19). -/
def State.encSlice (s : State) (o : ObjRec) (k : Nat) : SliceNo :=
  let own : SliceNo := Fin.ofNat 32 (defaultSlice s.ephConf.islice s.ephConf.icount o.oid (spanOf k))
  s.storeOf (match s.homeOf o.oid (spanOf k) with
  | some h => if h.block = s.block then h.slice else own
  | none => own)

/-- Opens a stream on slice p for a command: the plates in order, each with its use (R228). -/
def State.openStream (s : State) (p : SliceNo) (run : Nat) (o : ObjRec) (items : List (Nat × Use)) (fmt : Option Fmt)
    (xpose : Bool) : State :=
  if items.isEmpty then s
  else
    let id := s.nextId
    let wants := items.zipIdx.map fun e => {
      id := id + 1 + e.2, obj := o, plate := BitVec.ofNat 24 e.1.1, use := e.1.2, fmt := fmt, xpose := xpose : Want }
    ({ s with nextId := id + 1 + items.length } : State).onSlice p fun x =>
      { x with eye := { x.eye with streams := x.eye.streams ++ [{ id := id, run := run, wants := wants }] } }

/-- The pairs of a range that a slice stores. -/
def State.pairsOf (s : State) (o : ObjRec) (ps : List PairIdx) (p : SliceNo) : List PairIdx :=
  ps.filter fun q => s.encSlice o q.dst == p

/-- The slices that store some pair of a range. -/
def State.encSlices (s : State) (o : ObjRec) (ps : List PairIdx) : List SliceNo :=
  (List.finRange 32).filter fun p => ps.any fun q => s.encSlice o q.dst == p

/-- Opens one stream on each encoding slice (R331). -/
def State.openPerSlice (s : State) (run : Nat) (src dst : ObjRec) (ps : List PairIdx) (use : PairIdx → Use) (fmt : Option Fmt) : State :=
  (s.encSlices dst ps).foldl (fun t p =>
    t.openStream p run src ((s.pairsOf dst ps p).map fun q => (q.src, use q)) fmt false) s

/-! Slots. -/

/-- Slot n as SPG holds it. -/
def State.slot (s : State) (n : Fin 64) : SpgSlot := s.spg.slots[n]
def State.onSlot (s : State) (n : Fin 64) (f : SpgSlot → SpgSlot) : State :=
  { s with spg := { s.spg with slots := s.spg.slots.set n (f s.spg.slots[n]) } }

/-- Whether slice p takes part in slot changes: it is enabled, out of reset, and not SHUT (R217, R218). -/
def State.sliceIn (s : State) (p : SliceNo) : Bool :=
  (s.isl (psIsl p)).live && (s.isl (psIsl p)).state != .shut && !(s.slice p).dataShut &&
  match s.conf (psIsl p) with | some c => c.sliceEn p.val | none => false

/-- Whether slice p takes images: it takes part and is in RUN, asked to quiesce or not (R214, R219; log entry 128). -/
def State.takesImages (s : State) (p : SliceNo) : Bool := s.sliceIn p && s.awake (psIsl p)

/-- Changes every copy of a slot that takes part. -/
def State.onCopies (s : State) (n : Fin 64) (f : SlotCopy → SlotCopy) : State :=
  { s with slices := s.slices.mapIdx fun i x =>
      if s.sliceIn (Fin.ofNat 32 i) then { x with slots := x.slots.set n (f x.slots[n]) } else x }

/-- Whether every participating slice's count of a slot is zero. -/
def State.slotUnused (s : State) (n : Fin 64) : Bool :=
  (List.finRange 32).all fun p => !s.sliceIn p || (s.slice p).slots[n].inUse == 0

/-- Whether a slot is reserved (R210). -/
def State.slotReserved (s : State) (n : Fin 64) : Bool :=
  match s.conf spgIsl with | some c => c.slotReserved n.val | none => false

/-- A slot command has ended: its command goes on, or has failed (R214). -/
def State.slotCmdEnd (s : State) (run : Nat) (st : BitVec 8) : State :=
  s.onRun run fun r => let r1 := { r with waiting := false }; if st = 0 then r1 else r1.fail st

/-- A slot becomes LOADING at a generation (R214). -/
def State.slotLoading (s : State) (n : Fin 64) (gen : BitVec 8) : State :=
  let s1 := (s.onSlot n fun x => { x with st := .loading, gen := gen, draining := false, built := false }).onCopies n fun c =>
    { c with st := .loading, gen := gen, draining := false, reported := false }
  { s1 with spg := { s1.spg with freeOrder := s1.spg.freeOrder.filter (· != n) } }

/-- SPG sends slice p the image of slot n as one packet (R219). -/
def State.sendImage (s : State) (n : Fin 64) (p : SliceNo) : State :=
  s.send spgIsl {
    quad := quadOf spgIsl, queue := BitVec.ofNat 16 (queueFrom spgIsl 2), words := queueWords (s.slot n).image
    cargo := .image p n (s.slot n).gen }

/-- SPG sends an image to every slice that takes part and runs (R219). -/
def State.installImage (s : State) (n : Fin 64) (img : List Byte) : State :=
  ((List.finRange 32).filter s.takesImages).foldl (fun t p => t.sendImage n p)
    (s.onSlot n fun x => { x with image := img, built := true })

/-- An image reaches slice p, which checks every CBCRC; a copy that fails the check is asked for again (R219). -/
def State.takeImage (s : State) (p : SliceNo) (n : Fin 64) (gen : BitVec 8) (img : List Byte) (poison : Bool) : State :=
  let c := (s.slice p).slots[n]
  if c.st != .loading || c.gen != gen then s
  else if poison || !crcsHold img then
    s.send (psIsl p) {
      quad := quadOf (psIsl p), queue := BitVec.ofNat 16 (queueFrom (psIsl p) 0), words := plain [0], cargo := .imageAgain p n gen }
  else s.onSlice p fun x => { x with slots := x.slots.set n { x.slots[n] with image := img } }

/-- A slice asks for an image again (R219): SPG sends it while it is still being installed. -/
def State.imageAgain (s : State) (p : SliceNo) (n : Fin 64) (gen : BitVec 8) : State :=
  let x := s.slot n
  if x.st = .loading && x.built && x.gen = gen then s.sendImage n p else s

/-- A slot becomes FREE, last in the order of those that are (R214, R215). -/
def State.slotFree (s : State) (n : Fin 64) : State :=
  let s1 := (s.onSlot n fun x => { x with st := .free, draining := false, built := false }).onCopies n fun c =>
    { c with st := .free, draining := false, reported := false }
  { s1 with spg := { s1.spg with freeOrder := s1.spg.freeOrder.filter (· != n) ++ [n] } }

/-- A slot becomes RETIRING (R214). -/
def State.slotRetiring (s : State) (n : Fin 64) : State :=
  (s.onSlot n fun x => { x with st := .retiring }).onCopies n fun c => { c with st := .retiring, reported := false }

/-! Histograms (R222, R223). -/

/-- The build of a command. -/
def State.buildOf (s : State) (run : Nat) : Option Build := s.spg.builds.find? fun b => b.run == run
def State.onBuild (s : State) (run : Nat) (f : Build → Build) : State :=
  { s with spg := { s.spg with builds := mapIf (fun b => b.run == run) f s.spg.builds } }
def State.dropBuild (s : State) (run : Nat) : State :=
  { s with spg := { s.spg with builds := s.spg.builds.filter fun b => b.run != run } }

/-- The slot that a COMPRESS which names none takes: the unreserved one that has been FREE longest (R215). -/
def State.freeSlot (s : State) : Option (Fin 64) :=
  s.spg.freeOrder.find? fun n => !s.slotReserved n && (s.slot n).st == .free && (s.slot n).cur.isNone && (s.slot n).queue.isEmpty

/-- The first pass of a COMPRESS is about to begin (R215): the slot it names is its own by now; where it names none, it takes one, or
ends NO_FREE_SLOT and reads nothing. None: it waits. -/
def State.histSlot (s : State) (b : Build) : Option State :=
  match b.slot with
  | some n => if (match (s.slot n).cur with | some c => c.run == b.run | none => false) then some s else none
  | none =>
    if !s.begins spgIsl then none
    else match s.freeSlot with
      | none => some ((s.dropBuild b.run).slotCmdEnd b.run stNoFreeSlot)
      | some n =>
        let gen := (s.slot n).gen + 1
        let s1 := (s.onBuild b.run fun b => { b with slot := some n }).onSlot n fun x => { x with cur := some { run := b.run, act := .compress gen } }
        some ((s1.onRun b.run fun r => { r with encSlot := n }).slotLoading n gen)

/-- Slice p's histogram unit counts the slice's share of a command's source. -/
def State.histBegin (s : State) (p : SliceNo) (run : Nat) (ks : List Nat) : State :=
  let s1 := s.onSlice p fun x => { x with hist := { x.hist with run := some run, hist := Hist.empty, left := ks.length } }
  match (s.findRun run).bind (·.src) with
  | some o => s1.openStream p run o (ks.map fun k => (k, Use.hist)) (some .f32) false
  | none => s1

/-- The first passes that wait for the unit, in order: those given up are passed over, and the first that may begin does. -/
def State.histGo (p : SliceNo) : List (Nat × List Nat) → State → State
  | [], s => s.onSlice p fun x => { x with hist := { x.hist with queue := [] } }
  | (run, ks) :: rest, s =>
    match s.buildOf run with
    | none => State.histGo p rest s
    | some b =>
      match s.histSlot b with
      | none => s.onSlice p fun x => { x with hist := { x.hist with queue := (run, ks) :: rest } }
      | some t =>
        if (t.buildOf run).isSome then
          (t.histBegin p run ks).onSlice p fun x => { x with hist := { x.hist with queue := rest } }
        else State.histGo p rest t

/-- A slice's histogram unit takes up the next first pass that waits for it (R143, R222, R223). -/
def State.histNext (s : State) (p : SliceNo) : State :=
  if (s.slice p).hist.run.isSome || !s.begins (psIsl p) then s else State.histGo p (s.slice p).hist.queue s

/-- The same in every slice. -/
def State.histAll (s : State) : State := (List.finRange 32).foldl State.histNext s

/-- Whether R216 refuses a load of a slot at a generation, its image apart. -/
def State.loadRefused (s : State) (n : Fin 64) (gen : BitVec 8) : Bool :=
  let x := s.slot n
  (!s.slotReserved n && x.st != .free) || (x.st != .free && x.gen == gen)

/-- A load or a COMPRESS takes its slot from LIVE or FREE (R214). -/
def State.takeSlot (s : State) (n : Fin 64) (gen : BitVec 8) (img : Option (List Byte)) : State :=
  let fill (t : State) : State := match img with | some i => t.installImage n i | none => t
  if (s.slot n).st = .free || s.slotUnused n then fill (s.slotLoading n gen)
  else (s.onSlot n fun x => { x with draining := true, holdAt := s.now spgIsl }).onCopies n fun c =>
    { c with draining := true, reported := false }

/-- SPG goes on with the commands of a slot, one at a time (R214), while it begins work (R143). A load waits for its image; one whose
image is not valid fails in its turn (R216). -/
def State.spgGo (n : Fin 64) : Nat → State → State
  | 0, s => s
  | k + 1, s =>
    let x := s.slot n
    if x.cur.isSome || !s.begins spgIsl then s
    else match x.queue with
      | [] => s
      | c :: rest =>
        let s1 := s.onSlot n fun x => { x with queue := rest }
        let hold := s1.onSlot n fun x => { x with cur := some c }
        match c.act with
        | .retire =>
          (match x.st with
          | .free => State.spgGo n k (s1.slotCmdEnd c.run stOk)
          | .live => hold.slotRetiring n
          | _ => hold)
        | .load _ none => s
        | .load gen (some img) =>
          if x.st = .retiring && s.slotReserved n then s
          else if s.loadRefused n gen || !imageValid img then
            State.spgGo n k ((s1.slotCmdEnd c.run stTableInvalid).bump spgIsl spgInvalid)
          else hold.takeSlot n gen (some img)
        | .compress gen =>
          if x.st = .retiring && s.slotReserved n then s
          else if s.loadRefused n gen then State.spgGo n k ((s1.dropBuild c.run).slotCmdEnd c.run stTableInvalid)
          else (hold.takeSlot n gen none).histAll

/-- SPG goes on with every command that waits for slot n. -/
def State.slotGo (s : State) (n : Fin 64) : State := State.spgGo n ((s.slot n).queue.length + 1) s

/-- A slot command reaches SPG (R214); one that finds SPG shut completes TABLE_ABORTED (R471). -/
def State.slotCommand (s : State) (n : Fin 64) (c : SlotCmd) : State :=
  if (s.isl spgIsl).state = .shut then s.slotCmdEnd c.run stTableAborted
  else (s.onSlot n fun x => { x with queue := x.queue ++ [c] }).slotGo n

/-- The build or load of a slot fails (R214, R223): the slot is FREE again and the next command goes on. -/
def State.slotFails (s : State) (n : Fin 64) (st : BitVec 8) : State :=
  match (s.slot n).cur with
  | none => s
  | some c =>
    (((s.onSlot n fun x => { x with cur := none }).slotFree n).slotCmdEnd c.run st).slotGo n

/-- The image of a TABLE_LOAD is at hand (R216): SPG checks it when the command's turn comes; a poisoned one is not valid. -/
def State.tableImage (s : State) (run : Nat) (img : List Byte) (poisoned : Bool) : State :=
  match s.findRun run with
  | none => s
  | some r =>
    let n : Fin 64 := Fin.ofNat 64 (fld (r.entry.words.getD 1 0) 63 58)
    let give (c : SlotCmd) : SlotCmd := match c.act with
      | .load gen _ => { c with act := .load gen (some (if poisoned then [] else img)) }
      | _ => c
    ((s.onRun run fun r => { r with poisoned := r.poisoned || poisoned }).onSlot n fun x =>
      { x with queue := mapIf (fun c => c.run == run) give x.queue }).slotGo n

end Sys2Proof.Machine
end

