-- ==== Sys2Proof/Machine/Store.lean ====
section
/-! DEFINITION. The store path, the FRC encoder, frames and their placement (R203-R206, R213, R252-R268, R417, R421,
R441, R442, R465). -/

namespace Sys2Proof.Machine

/-! The store path. -/

/-- Plates that the store path of a slice holds: those waiting and those whose import is under way (R252). -/
def Slice.storeHeld (x : Slice) : Nat :=
  x.store.queue.length + x.store.imports.length + (x.xp.streams.filter fun t => t.beats != 0).length

/-- The import buffer after the store path has taken rows from its front for some half cycles (R75). -/
def drainBeats : Nat → List BufBeat → List BufBeat
  | _, [] => []
  | c, b :: rest => if b.left ≤ c then drainBeats (c - b.left) rest else { b with left := b.left - c } :: rest

/-- The import buffer as it has drained into the store path by now (R75): while the store path has room it takes one row a cycle
(DESIGN CHOICE, log entry 117: rows of engine results take none of those cycles). -/
def Slice.importBuf (x : Slice) (now : Ctr) : List BufBeat :=
  if x.storeHeld ≤ 16 then drainBeats (2 * elapsed now x.xp.drainAt) x.xp.buf else x.xp.buf
def State.importDrain (s : State) (p : SliceNo) : State :=
  let now := s.now (psIsl p)
  s.onSlice p fun x => { x with xp := { x.xp with buf := x.importBuf now, drainAt := now } }

/-- Whether every beat of an import plate has left the import buffer (R75). -/
def Xp.drained (x : Xp) (e : StoreIn) : Bool := !(x.buf.any fun b => some b.run == e.run && b.plate == e.plate)

/-- The plate the store path takes next: import plates, once they have left the import buffer, and others in turn where both wait
(R75). -/
def Slice.storeNext (x : Slice) : Option (StoreIn × StoreP) :=
  let t := x.store
  match t.queue, (t.imports.head?.filter x.xp.drained) with
  | [], none => none
  | e :: r, none => some (e, { t with queue := r, lastImport := false })
  | [], some e => some (e, { t with imports := t.imports.drop 1, lastImport := true })
  | e :: r, some i => if t.lastImport then some (e, { t with queue := r, lastImport := false })
      else some (i, { t with imports := t.imports.drop 1, lastImport := true })

/-- A plate in the format of its destination, padding zero (R253). -/
def toDest (o : ObjRec) (k : Nat) (q : Plate) : List Nat × List Byte :=
  let c := if q.fmt = o.format then (q.codes, q.scales)
    else convertTo o.format (plateF32 o k q.fmt q.codes q.scales)
  (c.1.zipIdx.map fun e => if isPadding o k (e.2 / 128) (e.2 % 128) then 0 else e.1, c.2)

/-- Flags that a plate's storing leaves on its command (R255, R265, R315). -/
def CmdRun.flags (r : CmdRun) (poisoned trimmed : Bool) (bf : Bool × Bool) : CmdRun :=
  { r with
    poisoned := r.poisoned || poisoned, trimmed := r.trimmed || trimmed
    bfailRow := r.bfailRow || bf.1, bfailCol := r.bfailCol || bf.2 }

/-- What the store path makes of a plate that is not FRC (R254): the plate write, its bound failures, and the counters
it raises. -/
def storeForm (e : StoreIn) : PWrite × (Bool × Bool) × List (Nat × Nat) :=
  let o := e.obj
  let k := e.plate.toNat
  if o.code = 3 then
    ({ obj := o, plate := e.plate, body := e.data.codes.map (BitVec.ofNat 8), poisoned := e.data.poison, run := e.run
       heal := e.heal }, (false, false), [])
  else
    let c := toDest o k e.data
    let map := fieldMap o.format c.1 c.2
    let nf := popcount map
    let bf := if o.code = 2 then checkBound map e.bound else (false, false)
    let absent := nf = 0 && !e.data.poison
    let body := if o.code = 0 then packElems o.format c.1
      else if absent then []
      else zfcPack o.oid e.plate o.format c.1 map {
        poisoned := e.data.poison, trimmed := e.trimmed, bound := e.bound, bfailRow := bf.1, bfailCol := bf.2 }
    let counts := (psZfcFields, nf) :: (if o.code = 0 then [] else
      [(psZfcBoundRow, bf.1.toNat), (psZfcBoundCol, bf.2.toNat),
        (if absent then psZfcAbsent else if zfcRaw o.format nf then psZfcRaw else psZfcPlates, 1)])
    ({ obj := o, plate := e.plate, body := body, scale := c.2, map := map, poisoned := e.data.poison, run := e.run
       heal := e.heal }, bf, counts)

/-- The bytes of a host range that have come, from an offset on, if all n have. -/
def landed (l : List (Nat × Nat × List Byte)) (run : Nat) : Nat → Nat → Nat → Option (List Byte)
  | 0, _, n => if n = 0 then some [] else none
  | k + 1, off, n =>
    if n = 0 then some []
    else match l.find? fun e => e.1 == run && e.2.1 ≤ off && off < e.2.1 + e.2.2.length with
      | none => none
      | some e =>
        let piece := (e.2.2.drop (off - e.2.1)).take n
        (landed l run k (off + piece.length) (n - piece.length)).map (piece ++ ·)

/-- Bytes of one plate in host memory (R352). -/
def hostUnit (o : ObjRec) : Nat :=
  if o.code = 3 then 32768 else denseSize o.format + if hasScale o.format then 512 else 0

/-- The plate that bytes from host memory spell (R352). -/
def hostPlate (o : ObjRec) (b : List Byte) : Plate :=
  if o.code = 3 then { fmt := .p8, codes := b.map (·.toNat), scales := [], map := 0, poison := false }
  else { fmt := o.format, codes := unpackElems o.format (b.take (denseSize o.format)), scales := b.drop (denseSize o.format)
         map := 0, poison := false }

/-- Plates of a HOST_READ all of whose bytes have come go to the store path of their home, as import plates, while it has room for them
(R252, R353). -/
def State.hostReadStore (s : State) (run : Nat) : State :=
  match s.findRun run with
  | none => s
  | some r =>
    match r.dst with
    | none => s
    | some o =>
      let u := hostUnit o
      r.work.foldl (fun s q =>
        match landed s.cmd.landing run 64 (q.src * u) u with
        | none => s
        | some b =>
          if 16 ≤ (s.slice (s.encSlice o q.dst)).storeHeld then s else
          let e : StoreIn := {
            run := some run, obj := o, plate := BitVec.ofNat 24 q.dst, data := hostPlate o b, bound := r.bound, master := r.master
            slot := r.encSlot }
          ((s.onSlice (s.encSlice o q.dst) fun x => { x with store := { x.store with imports := x.store.imports ++ [e] } }).onRun
            run fun r => { r with work := r.work.filter fun t => t != q })) s

/-- Host plates that waited for room in a store path go on (R252, R353). -/
def State.hostReadsGo (s : State) : State :=
  (s.cmd.landing.map (·.1)).eraseDups.foldl State.hostReadStore s

/-- Whether a plate may be stored at all: its command still runs and has not failed. -/
def State.storeLive (s : State) (run : Option Nat) : Bool :=
  match run with | none => true | some id => match s.findRun id with | some r => !r.stopped | none => false

/-- STORE_PLATE (R253-R255, R265): the store path takes a plate that is not FRC and gives its stored form to its home.
The first plate of a new object waits for the object's registration (R422). -/
def execStorePlate (p : SliceNo) (s : State) : Outcome :=
  let sd := s.importDrain p
  match (sd.slice p).storeNext with
  | none => .next sd
  | some (e, t) =>
    guarded (s.running (psIsl p) && !(s.slice p).dataShut && e.obj.code != 1) s
      (let s0 := (sd.onSlice p fun x => { x with store := t }).hostReadsGo
      if !s.storeLive e.run then s0
      else if s.mustRegister e.run then s.registerObject e.run
      else
        let f := storeForm e
        let r := s0.homeWrite p f.1
        if !r.1 then { r.2 with slices := s.slices }
        else
          let s1 := f.2.2.foldl (fun s c => s.bump (psIsl p) c.1 c.2) r.2
          match e.run with
          | some id => s1.onRun id fun r => r.flags e.data.poison e.trimmed f.2.1
          | none => s1)

/-- What the reference of a plate to its master allows: to go on, to wait for the master's record, or nothing (R201). -/
inductive MasterIs where
  | good | wait
  | fails (st : BitVec 8)
deriving DecidableEq, Repr, Inhabited

/-- The check of a master that a plate's source header names (R200, R201): the object record comes first, from the manager where it is not
at hand. A reference known at the start of a command was checked there (DEDUCED, log entry 125). -/
def State.masterStatus (s : State) (e : StoreIn) : MasterIs :=
  match e.run.bind s.findRun with
  | none => .good
  | some r =>
    if !r.masterOfSrc || e.master = 0 then .good
    else match s.known e.master with
      | .yes m => if m.isMasterOf e.obj then .good else .fails stMasterInvalid
      | .no st => .fails (if st = fsNoObject then stMasterInvalid else statusOf st)
      | .unknown => .wait

/-- FRC_ENCODE (R203-R205, R212, R213): the encoder takes a plate through a LIVE slot that is not draining, holds it while
the slot drains or loads, and fails its command where the slot is FREE or RETIRING. -/
def execFrcEncode (p : SliceNo) (s : State) : Outcome :=
  let sd := s.importDrain p
  match (sd.slice p).storeNext with
  | none => .next sd
  | some (e, t) =>
    guarded (s.running (psIsl p) && !(s.slice p).dataShut && e.obj.code == 1 && decide ((s.slice p).store.encoding < 8)) s
      (let s0 := (sd.onSlice p fun x => { x with store := t }).hostReadsGo
      let c := (s.slice p).slots[e.slot]
      if !s.storeLive e.run then s0
      else if s.mustRegister e.run then s.registerObject e.run
      else match s.masterStatus e with
      | .wait => s.queryRecord e.master
      | .fails st => s0.failRun e.run st
      | .good => match c.st with
        | .loading => s
        | .free | .retiring => if e.heal then s0.healStored e.obj.oid e.plate false else s0.failRun e.run stTableNotLive
        | .live =>
          if c.draining then s
          else
            let f := frcEncodePlate (tableOf c.image) e.slot.val c.gen.toNat e.obj.rate e.obj.fmt e.master e.plate
              e.data.poison (plateF32 e.obj e.plate.toNat e.data.fmt e.data.codes e.data.scales)
            let up (x : Slice) : Slice :=
              { x with
                slots := x.slots.set e.slot { x.slots[e.slot] with inUse := x.slots[e.slot].inUse + 1 }
                store := { x.store with encoding := x.store.encoding + 1 } }
            let r := (s0.onSlice p up).homeWrite p {
              obj := e.obj, plate := e.plate, body := f.body, header := f.header, poisoned := e.data.poison
              run := e.run, slot := some (p, e.slot), heal := e.heal }
            if !r.1 then { r.2 with slices := s.slices }
            else
              let s1 := (((r.2.bump (psIsl p) psFrcEncPlates).bump (psIsl p) psFrcFloorSubs f.floorSubs).bump
                (psIsl p) psFrcMoves f.moves).bump (psIsl p) psFrcNonfinite f.replaced
              match e.run with
              | some id => s1.onRun id fun r => r.flags e.data.poison false (false, false)
              | none => s1)

/-! Frames and their placement. -/

/-- The end of the RUN that a new span extends (R417). -/
def State.runPlace (s : State) (p : SliceNo) (o : ObjRec) (span ext : Nat) : Option Nat :=
  (s.eph.runBefore o p span ext).map (·.runEnd)

/-- The first write waiting at slice p for a frame of a span, outside commits. -/
def Slice.frameWanted (x : Slice) (oid : BitVec 40) (span : Nat) : Option PWrite :=
  x.home.inq.find? fun w => w.obj.oid == oid && spanOf w.plate.toNat == span

/-- The commit of a slice that needs a frame: its worst case, or its exact size when held and closed (R260, R261). -/
def State.frameCommit (s : State) (p : SliceNo) (oid : BitVec 40) (span : Nat) : Option Commit :=
  (s.slice p).store.commits.find? fun m =>
    m.obj.oid == oid && m.span == span && m.claims

/-- The extents a commit claims (R260, R261, R465): a held commit's plates, and the span's other stored plates, which are poisoned ones
where its index could not be rebuilt (R270). -/
def State.commitNeed (s : State) (m : Commit) : Nat :=
  let n := spanPlates m.obj m.span
  if m.obj.code != 2 then frameExtents m.obj n 0
  else if m.st = .held then
    let mine := m.plates.map (·.plate.toNat)
    let rest := if s.eph.badIndex.contains (m.obj.oid, m.span) then
        ((s.eph.written.filter fun w => w.1 == m.obj.oid && w.2 / 64 == m.span && !mine.contains w.2).map fun _ =>
          zfcLines m.obj.format 0 true).sum
      else ((m.oldEntries.filter fun e => !mine.contains (e.row * m.obj.pcols + e.col)).map (·.lines)).sum
    frameExtents m.obj n ((m.plates.map (·.lines)).sum + rest)
  else worstExtents m.obj n

/-- A commit gets its frame, on slice t (R260 step 1). -/
def State.frameGranted (s : State) (p : SliceNo) (m : Commit) (t : SliceNo) (base ext : Nat) : State :=
  s.flushPlates p { m with st := .newFrame, target := t, base := 16 * base, extents := ext, used := 0 }

/-- The other slices of the block in interleave order after p (R441): the configured list, round from p. -/
def State.slicesAfter (s : State) (p : SliceNo) : List SliceNo :=
  let l := s.ephConf.islice.map (Fin.ofNat 32)
  let i := (l.idxOf p) + 1
  ((l.drop i) ++ (l.take i)).filter fun q => q != p && !s.eph.gone.getLsbD q.val

/-- The victim of a capacity eviction on a slice (R442): of the entries with a span that is unpinned, not in motion and
not moving, the one with the oldest last-use stamp; of a RUN its last span. -/
def State.victim (s : State) (p : SliceNo) : Option (BitVec 40 × Nat) :=
  let last (e : DirEnt) : Option Nat := match e.kind with
    | .run sl s0 c _ => if sl = p then some (s0 + (c - 1) * max 1 e.icount) else none
    | .span sl t _ => if sl = p then some t else none
    | _ => none
  let ok : List (Ctr × BitVec 40 × Nat) := s.eph.dir.filterMap fun e => (last e).bind fun t =>
    if e.pinned || e.inMotion || (s.eph.moves ++ s.eph.movesWait).any (fun m => m.oid == e.obj.oid && m.span.toNat == t) ||
      s.eph.srcs.any (fun m => m.oid == e.obj.oid && m.span.toNat == t) then none
    else some (e.stamp, e.obj.oid, t)
  (ok.foldl (fun (a : Option (Ctr × BitVec 40 × Nat)) v => match a with
    | some b => if v.1 < b.1 then some v else a | none => some v) none).map (·.2)

/-- EVICT_REQ to the manager of an object (R427, R441). -/
def State.askEvict (s : State) (oid : BitVec 40) (span : Nat) (tier : Nat) (why : ReqWhy) : Option State :=
  (s.managerOf (domainOf oid)).map fun m => s.request {
    unit := unitEph, tid := 0, ptype := ptEvictReq, dest := m, dunit := unitEph, oid := oid
    idx := BitVec.ofNat 24 span, rest := [put tier 0], why := why }

/-- The commit of a placement at the manager, as R437 step 5 commits a move (R441). -/
def State.askPlace (s : State) (oid : BitVec 40) (span : Nat) (t : SliceNo) : State :=
  match s.managerOf (domainOf oid) with
  | none => s
  | some m => s.request {
      unit := unitEph, tid := 0, ptype := ptCommit, dest := m, dunit := unitEph, oid := oid, idx := BitVec.ofNat 24 span
      rest := [homeWord { valid := true, slice := BitVec.ofNat 5 t.val, block := s.block }], why := .place oid span }

/-- Changes the placement of a span. -/
def State.onPlace (s : State) (oid : BitVec 40) (span : Nat) (f : Place → Place) : State :=
  { s with eph := { s.eph with places := mapIf (fun q => q.obj.oid == oid && q.span == span) f s.eph.places } }
def State.dropPlace (s : State) (oid : BitVec 40) (span : Nat) : State :=
  { s with eph := { s.eph with places := s.eph.places.filter fun q => !(q.obj.oid == oid && q.span == span) } }

/-- Every step of R441 has failed: the commands that wait for the frame complete NO_SPACE. -/
def State.placeFailed (s : State) (p : SliceNo) (oid : BitVec 40) (span : Nat) : State :=
  let x := s.slice p
  let hit (w : PWrite) : Bool := w.obj.oid == oid && spanOf w.plate.toNat == span
  let lost := x.home.inq.filter hit
  let s1 := s.onSlice p fun x => { x with home := { x.home with inq := x.home.inq.filter fun w => !hit w } }
  let s2 := lost.foldl (fun s w =>
    let t := (s.failRun w.run stNoSpace).releaseSlot w.slot
    (match w.src with | some r => t.ackTo r (unitPs p) fsNoSpace oid w.plate | none => t).wakeReads p oid w.plate) s1
  let s3 : State := match s.frameCommit p oid span with
    | none => s2
    | some m =>
      let drop (x : Slice) : Slice := { x with store := { x.store with
        commits := x.store.commits.filter fun c => c.id != m.id } }
      let t : State := (s2.leavePlates m).onSlice p drop
      m.answers.foldl (fun (s : State) a => s.ackTo a.1 (unitPs p) fsNoSpace oid a.2) (t.failRun m.run stNoSpace)
  s3.dropPlace oid span

/-- Puts a placement on another slice of the block (R441 step 1): a new span's commit at the manager is asked for before
the first write; a held commit goes on in the new frame. -/
def State.placeOn (s : State) (p : SliceNo) (q : Place) (t : SliceNo) (base : Nat) : State :=
  let s1 := s.bump ephIsl ephPlacedAway
  match s1.frameCommit p q.obj.oid q.span with
  | some m =>
    if m.hasOld then (s1.dropPlace q.obj.oid q.span).frameGranted p m t base q.need
    else (s1.onPlace q.obj.oid q.span fun q => { q with target := t, base := base, asked := true }).askPlace q.obj.oid q.span t
  | none => (s1.onPlace q.obj.oid q.span fun q => { q with target := t, base := base, asked := true }).askPlace q.obj.oid q.span t

/-- The entry of a span whose frame was just claimed; that of a span on a lost device gives way (R417, R472). -/
def State.newFrameAt (s : State) (o : ObjRec) (p : SliceNo) (span base need : Nat) (asRun : Bool) : State :=
  let e : EphS := { s.eph with dir := dirRemove s.eph.dir o.oid span }
  { s with eph := e.addFrame o p span base need asRun (s.now ephIsl) }

/-- The frame of a placement or claim is on the wanted slice itself. -/
def State.frameHere (s : State) (p : SliceNo) (o : ObjRec) (span base need : Nat) : State :=
  match s.frameCommit p o.oid span with
  | some m => s.frameGranted p m p base need
  | none => (s.newFrameAt o p span base need true).mirDir

/-- The destination of a span move has its frame (R437 step 3): a SPAN entry marked in motion, which serves no access yet. -/
def State.startIncoming (s : State) (o : ObjRec) (span : Nat) (p : SliceNo) (base ext : Nat) (src : Requester) : State :=
  let e : DirEnt := {
    obj := o, kind := .span p span base, stamp := s.now ephIsl, inMotion := true, incoming := true, extents := ext }
  let d : MvDst := { obj := o, span := BitVec.ofNat 18 span, slice := p, src := src, base := base, extents := ext }
  ({ s with eph := { s.eph with dir := s.eph.dir ++ [e], dsts := s.eph.dsts ++ [d] } } : State).mirDir

/-- The destination of a span move cannot take it: copy-done tells the source so (R437, R439). -/
def State.refuseMove (s : State) (p : SliceNo) (src : Requester) (oid : BitVec 40) (span : Nat) (st : BitVec 4) : State :=
  s.ackTo src (unitPs p) st oid (BitVec.ofNat 24 span) noHome 0 1

/-- One try of R441 for a span that obtained no frame. -/
def State.placeTry (s : State) (p : SliceNo) (q : Place) : State :=
  let full := s.eph.dirFree = 0
  match q.step with
  | 1 =>
    let try_ (t : SliceNo) : Option (SliceNo × Nat × State) :=
      let c := s.claim t q.need none
      c.1.map fun b => (t, b, c.2)
    (match (if full then none else (s.slicesAfter p).findSome? try_) with
    | some r => (match q.incoming with
      | some src => ((r.2.2.dropPlace q.obj.oid q.span).bump ephIsl ephPlacedAway).startIncoming q.obj q.span r.1 r.2.1 q.need src
      | none => r.2.2.placeOn p q r.1 r.2.1)
    | none => s.onPlace q.obj.oid q.span fun q => { q with step := 2 })
  | 2 =>
    let here := if full || s.eph.gone.getLsbD p.val then (none, s) else s.claim p q.need none
    (match here.1 with
    | some b =>
      let t := here.2.dropPlace q.obj.oid q.span
      (match q.incoming with
      | some src => t.startIncoming q.obj q.span p b q.need src
      | none => t.frameHere p q.obj q.span b q.need)
    | none =>
      if s.ephConf.members.length ≤ 1 || 8 ≤ q.victims then s.onPlace q.obj.oid q.span fun q => { q with step := 3 }
      else match (s.victim p).bind fun v => s.askEvict v.1 v.2 2 (.evictReq p v.1 v.2) with
        | some t => (t.onPlace q.obj.oid q.span fun q => { q with asked := true, victims := q.victims + 1 }).bump ephIsl ephEvictions
        | none => s.onPlace q.obj.oid q.span fun q => { q with step := 3 })
  | 3 =>
    match q.incoming with
    | some src => (s.dropPlace q.obj.oid q.span).refuseMove p src q.obj.oid q.span fsNoSpace
    | none =>
    if s.ephConf.members.length ≤ 1 then s.placeFailed p q.obj.oid q.span
    else match s.askEvict q.obj.oid q.span 1 (.place q.obj.oid q.span) with
      | some t => t.onPlace q.obj.oid q.span fun q => { q with asked := true }
      | none => s.placeFailed p q.obj.oid q.span
  | _ => s.placeFailed p q.obj.oid q.span

/-- A span that obtained no frame is to be placed (R441). -/
def State.startPlace (s : State) (q : Place) : State := { s with eph := { s.eph with places := s.eph.places ++ [q] } }

/-- The home slice of a span that a write finds without a usable frame: never written, come here unwritten, or on a lost device (R168, R437, R472). -/
def State.frameless (s : State) (oid : BitVec 40) (span : Nat) : Option SliceNo :=
  match s.eph.serves oid span with
  | .unwritten q _ => some q
  | .at q _ e => if e.noFrame then some q else none
  | .notHome => none

/-- FRAME_CLAIM (R168, R260, R261, R417, R441): the Ephemeris grants a frame for a span written first or for a commit, or
cannot: then the commit is held, or the span is placed by the rules for the near tier at its limits. -/
def execFrameClaim (p : SliceNo) (oid : BitVec 40) (span : BitVec 18) (s : State) : Outcome :=
  let sp := span.toNat
  guarded (s.awake ephIsl && !s.eph.reloading) s
    (match s.eph.places.find? fun q => q.obj.oid == oid && q.span == sp && q.slice == p with
    | some q => if q.asked then s else s.placeTry p q
    | none =>
      match s.frameCommit p oid sp with
      | some m =>
        let c := if s.eph.gone.getLsbD p.val then (none, s) else s.claim p (s.commitNeed m) none
        (match c.1 with
        | some b => c.2.frameGranted p m p b (s.commitNeed m)
        | none =>
          if m.st = .claiming then
            (if ((s.slice p).store.commits.filter fun c => c.st == .held).length < 2 then
              (s.putCommit p { m with st := .held }).bump (psIsl p) psStHeld
            else s)
          else s.startPlace { slice := p, obj := m.obj, span := sp, need := s.commitNeed m })
      | none =>
        match (s.slice p).frameWanted oid sp, s.frameless oid sp with
        | some w, some q =>
          if q != p || s.usesCommit w.obj then s
          else
            let need := frameExtents w.obj (spanPlates w.obj sp) 0
            let c := if s.eph.gone.getLsbD p.val || s.eph.dirFree = 0 then (none, s)
              else s.claim p need (s.runPlace p w.obj sp need)
            (match c.1 with
            | some b => c.2.frameHere p w.obj sp b need
            | none => s.startPlace { slice := p, obj := w.obj, span := sp, need := need })
        | _, _ => s)

/-- The manager has answered the commit of a placement, or the request to place the span elsewhere (R441): on OK the span
lives at its new home, else the next step is tried. -/
def State.placeAnswered (s : State) (p : SliceNo) (oid : BitVec 40) (span : Nat) (ok : Bool) : State :=
  match s.eph.places.find? fun q => q.obj.oid == oid && q.span == span with
  | none =>
    -- the placement of a commit that had a frame: it swings, or is abandoned
    (match (s.slice p).store.commits.find? fun m => m.obj.oid == oid && m.span == span && m.st == .placing with
    | some m => if ok then s.putCommit p { m with st := .ready, placed := true } else s.abandonCommit p m
    | none => s)
  | some q =>
    if q.step = 1 then
      if ok then
        let s1 := s.dropPlace oid span
        (match s1.frameCommit p oid span with
        | some m => s1.frameGranted p { m with placed := true } q.target q.base q.need
        | none =>
          (s1.newFrameAt q.obj q.target span q.base q.need false).mirDir)
      else (s.release q.target q.base q.need).onPlace oid span fun q => { q with step := 2, asked := false }
    else if ok then s.dropPlace oid span
    else s.placeFailed p oid span

/-- The manager has answered the eviction of a victim (R441 step 2). -/
def State.victimAnswered (s : State) (p : SliceNo) (ok : Bool) : State :=
  let upd (q : Place) : Place := { q with asked := false, step := if ok then 2 else 3 }
  let ps := mapIf (fun q => q.slice == p && q.step == 2 && q.asked) upd s.eph.places
  { s with eph := { s.eph with places := ps } }

/-- INDEX_WRITE (R260 step 4): every other line of the new frame has been answered, and the two index lines are written. -/
def execIndexWrite (p : SliceNo) (oid : BitVec 40) (span : BitVec 18) (s : State) : Outcome :=
  match (s.slice p).store.commits.find? fun m => m.obj.oid == oid && m.span == span.toNat && m.st == .tables with
  | none => .next s
  | some m =>
    guarded (s.homeLive p && m.obj.code == 2 && m.closed && m.left == 0 && !m.failed) s
      (let n := spanPlates m.obj m.span
      let b := indexBytes m.obj m.span n m.used m.newEntries
      s.commitLines p { m with st := .index } ((List.range 2).map fun i => {
        addr := m.base + segStart m.obj n .index + i, id := lineId m.obj (64 * m.span) .index i
        data := (b.drop (512 * i)).take 512 }))

/-- Whether the swing of a commit is put off to the end of its command (R465). -/
def State.defers (s : State) (m : Commit) : Bool := s.consistent && (m.run.bind s.findRun).isSome

/-- SPAN_SWING (R260 steps 5 and 6): the span swings to its new frame; where that frame lies on another slice, the
placement is first committed at the manager (R441). -/
def execSpanSwing (p : SliceNo) (oid : BitVec 40) (span : BitVec 18) (s : State) : Outcome :=
  match (s.slice p).store.commits.find? fun m => m.obj.oid == oid && m.span == span.toNat && m.st == .ready with
  | none => .next s
  | some m =>
    guarded (s.awake ephIsl && !s.defers m && s.swingFits m) s
      (if m.target != p && !m.placed then (s.putCommit p { m with st := .placing }).askPlace oid span.toNat m.target
        else s.swing p m)

/-- FRAME_FREE (R168, R260 step 7, R421): the old frame is given back once no read that began under it remains; it waits
while the run table and its overflow are full. -/
def execFrameFree (p : SliceNo) (oid : BitVec 40) (span : BitVec 18) (s : State) : Outcome :=
  match s.eph.freeing.find? fun f => f.1 == p && f.2.2.2.1 == oid && f.2.2.2.2 == span.toNat with
  | none => .next s
  | some f =>
    let lines := f.2.1 * 16
    guarded (s.awake ephIsl &&
        !((s.slice p).home.reads.any fun j => j.obj.oid == oid && j.base == lines && j.started) &&
        (joinsRun s.eph.free[p] (FreeRun.mk f.2.1 f.2.2.1) || s.eph.runCount < 131072 || s.eph.overflow.length < 4096)) s
      (({ s with eph := { s.eph with freeing := s.eph.freeing.filter (· != f) } }).release p f.2.1 f.2.2.1)

/-- FREE_RUN_OVERFLOW_MERGE (R421): a freed run waiting in the overflow is merged. -/
def execFreeRunOverflowMerge (s : State) : Outcome :=
  match s.eph.overflow with
  | [] => .next s
  | (p, r) :: rest =>
    guarded (s.awake ephIsl && (joinsRun s.eph.free[p] r || s.eph.runCount < 131072)) s
      { s with eph := { s.eph with overflow := rest, free := s.eph.free.set p (mergeRun s.eph.free[p] r) } }

/-- Whether a command has finished every write it makes (R465): each of its plates is stored, and each of its commits
awaits its swing. -/
def State.writesDone (s : State) (r : CmdRun) : Bool :=
  r.work.isEmpty && r.dests.all r.stored.contains &&
  (List.finRange 32).all fun p =>
    let x := s.slice p
    !(x.home.inq.any fun w => w.run == some r.id) && !(x.home.writes.any fun j => j.run == some r.id) &&
    x.store.commits.all fun m => m.run != some r.id || (m.st == .ready && m.left == 0)

/-- What the command is about to write carries poison from a word of an SRAM of this block (R466). -/
def CmdRun.tainted (r : CmdRun) : Bool := r.sram && r.poisoned && r.status == 0 && !r.stopped && !r.dests.isEmpty

/-- DEFERRED_SWINGS (R465): in Consistent mode a command that has written everything without a failure makes all its
swings. -/
def execDeferredSwings (run : Nat) (s : State) : Outcome :=
  match s.findRun run with
  | none => .next s
  | some r =>
    let ready := (List.finRange 32).flatMap fun p =>
      ((s.slice p).store.commits.filter fun m => m.run == some run && m.st == .ready).map fun m => (p, m)
    guarded (s.awake ephIsl && s.consistent && r.status == 0 && !r.stopped && !r.tainted && !ready.isEmpty && s.writesDone r) s
      (ready.foldl (fun t e => t.swing e.1 e.2) s)

end Sys2Proof.Machine
end

