-- ==== Sys2Proof/Machine/EyeOps.lean ====
section
/-! DEFINITION. The Eyepiece, the shared operations: asking for plates, forming what a consumer receives, handing it over,
admission and refusal (R211, R227-R237, R531, R537); the REDUCE coder (R443-R445). -/

namespace Sys2Proof.Machine

/-! Asking. -/

/-- Asks for a plate for slice p's Eyepiece: from its home slice on this block, by RD_REQ from another, or a LOOKUP first
where the home is not known; false while it is not (R419, R420). A command that comes upon an object of a halted domain ends
HALTED at this access (R468), one that cannot reach the home for a shut quadrant UNREACHABLE (R474). -/
def State.askPlate (s : State) (p : SliceNo) (w : Want) : Bool × State :=
  if s.isHalted (domainOf w.obj.oid) then
    (true, match w.use with
      | .heal oid k => s.healStored oid k false
      | _ => s.failRun ((s.slice p).eye.runOf w.id) stHalted)
  else match s.homeOf w.obj.oid (spanOf w.plate.toNat) with
  | some h =>
    let s0 := s.foundHome w.obj.oid (spanOf w.plate.toNat)
    if h.block = s.block then
      if s.meets (psIsl p) (psIsl h.slice) then (true, s0.readHome w.obj w.plate (.eye p w.id))
      else (true, match w.use with
        | .heal oid k => s0.healStored oid k false
        | _ => s0.failRun ((s.slice p).eye.runOf w.id) stUnreachable)
    else (true, s0.request {
      unit := unitPs p, tid := 0, ptype := ptRdReq, dest := h.block, dunit := unitPs h.slice, oid := w.obj.oid
      idx := w.plate, why := .read p w.id, tries := w.tries })
  | none => let l := s.lookup w.obj.oid (spanOf w.plate.toNat); (false, l.2)

/-- The plates of a stream in flight: asked for and not delivered. -/
def EStream.flying (t : EStream) : Nat := t.asked.length

/-- Changes the stream with an identifier. -/
def Eye.onStream (e : Eye) (id : Nat) (f : EStream → EStream) : Eye :=
  { e with streams := mapIf (fun t => t.id == id) f e.streams }

/-- One stream asks for its next plates, up to 8 in flight (R229). -/
def State.streamAsk (p : SliceNo) (id : Nat) : Nat → State → State
  | 0, s => s
  | n + 1, s =>
    match (s.slice p).eye.streams.find? fun t => t.id == id with
    | none => s
    | some t =>
      match t.wants with
      | [] => s
      | w :: rest =>
        if 8 ≤ t.flying then s
        else
          let s1 := s.onSlice p fun x => { x with eye := x.eye.onStream id fun t =>
            { t with wants := rest, asked := t.asked ++ [w] } }
          let r := s1.askPlate p w
          if r.1 then State.streamAsk p id n r.2 else { r.2 with slices := s.slices }

/-- Whether the plates of a use take no context: stored forms that are moved, and the byte plates of table images, since neither
TABLE_LOAD nor the image of a COMPRESS opens a stream (R331, R353). -/
def Use.stored : Use → Bool
  | .copy _ | .lines _ | .image | .mergeImage => true
  | _ => false
/-- Whether a stream takes no context. -/
def EStream.stored (t : EStream) : Bool := (t.wants ++ t.asked).all fun w => w.use.stored

/-- The streams that contexts hold, and those that need none, ask for their next plates. -/
def State.eyeAsk (s : State) (p : SliceNo) : State :=
  let e := (s.slice p).eye
  (e.ctxs.toList.filterMap id ++ ((e.streams.filter EStream.stored).map (·.id))).foldl (fun s i => State.streamAsk p i 9 s) s

/-- The want that an arriving plate answers, with its stream. -/
def Eye.wantOf (e : Eye) (id : Nat) : Option (EStream × Want) :=
  e.streams.findSome? fun t => (t.asked.find? fun w => w.id == id).map fun w => (t, w)

/-- A want is done with: it leaves its stream, and a stream with no plate left ends and frees its context. -/
def Eye.wantDone (e : Eye) (id : Nat) : Eye :=
  let ts := e.streams.map fun t => { t with asked := t.asked.filter fun w => w.id != id }
  let live := ts.filter fun t => !(t.wants.isEmpty && t.asked.isEmpty)
  { e with
    streams := live
    ctxs := e.ctxs.map fun c => c.bind fun i => if live.any (fun t => t.id == i) then some i else none }

/-! What a consumer receives. -/

/-- The format of delivery (R234): the one asked for; else the header's or the stored one, where F32 bound for a transit
array or the SME takes H16. -/
def deliverFmt (w : Want) (stored : Fmt) : Fmt :=
  match w.fmt with
  | some f => f
  | none => match w.use with
    | .weight .. | .act .. | .sme .. => if stored = .f32 then .h16 else stored
    | _ => stored

/-- A plate as it is delivered from its F32 values: transposed where asked, converted to the format of delivery (R199,
R234-R236). -/
def formPlate (w : Want) (stored : Fmt) (x : List F32) (map : BitVec 256) (poison : Bool) : Plate :=
  let x1 := if w.xpose then transpose 0 x else x
  let f := deliverFmt w stored
  let c := convertTo f x1
  { fmt := f, codes := c.1, scales := c.2, map := if w.xpose then transposeMap map else map, poison := poison }

/-- A plate of +0, poisoned or not, with an empty map (R159). -/
def zeroPlate (w : Want) (stored : Fmt) (poison : Bool) : Plate :=
  { Plate.zeros (if w.obj.code = 3 then .p8 else deliverFmt w stored) with
    codes := List.replicate (if w.obj.code = 3 then 32768 else 16384) 0, poison := poison }

/-- A poisoned plate none of whose elements can be formed (R537): of FRC and raw form every field is marked (R235). -/
def voidPlate (w : Want) (stored : Fmt) : Plate :=
  { zeroPlate w stored true with map := if w.obj.code = 2 then 0 else BitVec.allOnes 256 }

/-- The plate that raw, ZFC or byte stored form gives (R233-R235): a ZFC plate in its stored format is delivered exactly as it is stored
(R242); where the scales of a plate could not be read no element of it can be formed (R537). -/
def unpackPlate (w : Want) (a : Arrived) (poison : Bool) : Plate :=
  let o := w.obj
  let f := deliverFmt w o.format
  if o.code = 3 then
    { fmt := .p8, codes := (fit 32768 a.body).map (·.toNat), scales := [], map := BitVec.allOnes 256, poison := poison }
  else
    let c := if o.code = 2 then zfcUnpack o.format a.body
      else (unpackElems o.format (fit (denseSize o.format) a.body), BitVec.allOnes 256)
    if hasScale o.format && a.scale.isEmpty && poison then { voidPlate w o.format with map := c.2 }
    else if o.code = 2 && f == o.format && !(w.xpose && hasScale f) then
      let e := c.1.zipIdx.map fun e => if isPadding o w.plate.toNat (e.2 / 128) (e.2 % 128) then 0 else e.1
      { fmt := f, codes := if w.xpose then transpose 0 e else e, scales := if hasScale f then fit 512 a.scale else []
        map := if w.xpose then transposeMap c.2 else c.2, poison := poison }
    else formPlate w o.format (plateF32 o w.plate.toNat o.format c.1 (fit 512 a.scale)) c.2 poison

/-! Handing over. -/

/-- Puts a plate in the queue of slice p's store path. -/
def State.storeItem (s : State) (p : SliceNo) (e : StoreIn) : State :=
  s.onSlice p fun x => { x with store := { x.store with queue := x.store.queue ++ [e] } }

/-- A plate of a command for the store path of its slice. -/
def CmdRun.storeIn (r : CmdRun) (dst : BitVec 24) (pl : Plate) (master : BitVec 40) : Option StoreIn :=
  r.dst.map fun o => {
    run := some r.id, obj := o, plate := dst, data := pl, bound := r.bound
    master := if r.masterOfSrc then master else r.master, slot := r.encSlot }

/-- The bytes of a plate as they lie in host memory (R352). -/
def hostBytes (pl : Plate) : List Byte := packElems pl.fmt pl.codes ++ pl.scales

/-- The host accesses of a range of bytes (R353): each ends at a 4 KiB boundary or at the end. -/
def hostPieces : Nat → Nat → Nat → List (Nat × Nat)
  | 0, _, _ => []
  | k + 1, addr, len =>
    if len = 0 then [] else
    let n := min len (4096 - addr % 4096)
    (addr, n) :: hostPieces k (addr + n) (len - n)

/-- Writes bytes to host memory for a command. -/
def State.hostWriteBytes (s : State) (r : CmdRun) (win : BitVec 4) (addr : Nat) (b : List Byte) : State :=
  (hostPieces (b.length / 64 + 2) addr b.length).foldl (fun (a : Nat × State) q =>
    (a.1 + q.2, a.2.hostAccess {
      why := .hostWrite r.id, wr := true, win := win, addr := q.1, len := q.2, data := (b.drop a.1).take q.2
      queue := some (r.q, r.entry.epoch) })) (0, s) |>.2

/-- RED_DATA of one source plate, and its remainder (R444, R445): coded or in H16, sent to the sum plate's home; the
remainder goes to the store path as the residual plate. -/
def State.reducePlate (s : State) (p : SliceNo) (r : CmdRun) (j : Nat) (src : Delivered) (resid : Option Delivered) : State :=
  let rcc := fld (r.entry.words.getD 2 0) 39 38
  let first := fld (r.entry.words.getD 1 0) 23 0
  let k := BitVec.ofNat 24 (first + j)
  let done (t : State) : State := t.onRun r.id fun r => { r with work := r.work.filter fun q => q.src != j }
  if src.empty && (match resid with | some d => d.empty | none => true) then done s
  else match r.dst with
    | none => done s
    | some o =>
      let x := src.plate.codes.map (BitVec.ofNat 32)
      let y := match resid with | some d => List.zipWith f32Add x (d.plate.codes.map (BitVec.ofNat 32)) | none => x
      let n := (y.filter nonFinite).length
      let z := y.map replaceNonFinite
      let poison := src.plate.poison || (match resid with | some d => d.plate.poison | none => false)
      let b := if rcc = 1 then 4 else 8
      let c := if rcc = 0 then (packElems .h16 (convertTo .h16 z).1, ([] : List F32)) else rccEncode b z
      let s1 := (s.bump (psIsl p) psRedSent).bump (psIsl p) psRedNonfinite n
      let s2 := match s1.homeOf o.oid (spanOf k.toNat) with
        | some h => (s1.foundHome o.oid (spanOf k.toNat)).request {
            unit := unitPs p, tid := 0, ptype := ptRedData, dest := h.block, dunit := unitPs h.slice, oid := o.oid, idx := k
            rest := [put rcc 0], data := { body := c.1, poison := poison }, why := .reduce r.id }
        | none => s1.failRun (some r.id) stUnreachable
      let s3 := match resid with
        | some d => s2.storeItem p {
            run := some r.id, obj := d.want.obj, plate := k
            data := { fmt := .f32, codes := c.2.map (·.toNat), scales := [], map := 0, poison := poison } }
        | none => s2
      (done s3).onRun r.id fun r => { r with sentRed := true, approx := r.approx || rcc != 0, poisoned := r.poisoned || poison }

/-- A source or residual plate has come: once both are there the coder takes them (R444); a sum home that is not known yet
is looked up first. -/
def State.reduceGive (s : State) (p : SliceNo) (r : CmdRun) (d : Delivered) : State :=
  let s1 := s.onSlice p fun x => { x with eye := { x.eye with outs := x.eye.outs ++ [d] } }
  let j := match d.want.use with | .reduce j => j | .residual j => j | _ => 0
  let outs := (s1.slice p).eye.outs.filter fun e => e.run == r.id
  let src := outs.find? fun e => e.want.use == .reduce j
  let res := outs.find? fun e => e.want.use == .residual j
  let needs := fld (r.entry.words.getD 4 0) 63 24 != 0
  match src with
  | none => s1
  | some a =>
    if needs && res.isNone then s1
    else
      let drop (x : Slice) : Slice := { x with eye := { x.eye with
        outs := x.eye.outs.filter fun e => !(e.run == r.id && (e.want.use == .reduce j || e.want.use == .residual j)) } }
      (s1.onSlice p drop).reducePlate p r j a res

/-- The plate that the export port sends or sends next (R68): one begun; else the first that may leave: the plates of an
EXPORT leave in increasing ordinal, those of an exporting PLATE_MATMUL as they came (R285). -/
def State.txNext (s : State) (p : SliceNo) : Option Nat :=
  let tx := (s.slice p).xp.tx
  let may (t : TxPlate) : Bool := match s.findRun t.run with
    | some r => fld (r.entry.words.getD 0 0) 63 56 != 0x02 || t.seq == BitVec.ofNat 16 r.plates
    | none => true
  match tx.findIdx? fun t => t.beat != 0 || t.shown with | some i => some i | none => tx.findIdx? may

/-- The plate whose beat 0 stands on the port is marked as shown: it is held until it transfers, whatever becomes of its command
(R44). -/
def State.showTx (s : State) (p : SliceNo) : State :=
  match s.txNext p with
  | none => s
  | some i => s.onSlice p fun x =>
      { x with xp := { x.xp with tx := x.xp.tx.zipIdx.map fun e => if e.2 = i then { e.1 with shown := true } else e.1 } }

/-- Whether a command's export stream has been abandoned (R70): nothing further of it is begun or sent. -/
def State.abandoned (s : State) (run : Nat) : Bool :=
  match s.findRun run with | some r => r.stopped && r.status == stPortTimeout | none => false

/-- A plate joins those that wait to leave the export port, unless its command's export has been abandoned; the time of a beat held on
the port begins when none could leave before (R70). -/
def State.txPush (s : State) (p : SliceNo) (t : TxPlate) : State :=
  let idle := (s.txNext p).isNone
  if s.abandoned t.run then s else s.onSlice p fun x => { x with xp := { x.xp with tx := x.xp.tx ++ [t], txAt := if idle then s.now (psIsl p) else x.xp.txAt } }

/-- Hands a plate to its consumer (R228, R230); operands of the engines wait in `outs` until the engine takes them. -/
def State.eyeGive (s : State) (p : SliceNo) (run : Nat) (w : Want) (pl : Plate) (master : BitVec 40) (empty : Bool)
    (excess : Nat := 0) (buf : Nat := 0) : State :=
  let d : Delivered := { run := run, want := w, plate := pl, empty := empty, excess := excess }
  let keep := s.onSlice p fun x => { x with eye := { x.eye with outs := x.eye.outs ++ [d] } }
  match w.use with
  | .heal oid k =>
    if pl.poison then s.healStored oid k false
    else (match s.svy.heals.find? fun h => h.oid == oid && h.plate == k with
    | some h => (match h.obj with
      | some o => s.storeItem p {
          run := none, obj := o, plate := k, data := pl, master := h.master, slot := h.slot, heal := true }
      | none => s)
    | none => s)
  | _ =>
  match s.findRun run with
  | none => s
  | some r =>
    match w.use with
    | .weight .. | .act .. | .sme .. | .strip _ => keep
    | .leave n =>
      let word := r.entry.words.getD 2 0
      let pois (r : CmdRun) : CmdRun := { r with poisoned := r.poisoned || pl.poison }
      (s.txPush p {
        run := run, stream := bits 8 word 32, seq := BitVec.ofNat 16 n, fmt := pl.fmt, rows := packElems pl.fmt pl.codes
        scales := pl.scales, xpose := w.xpose, poison := pl.poison, buf := buf }).onRun run pois
    | .store dst | .encode dst => match r.storeIn dst pl master with | some e => s.storeItem p e | none => s
    | .hist =>
      s.onSlice p fun x =>
        let o := w.obj
        let pad := (List.range 16384).map fun i => isPadding o w.plate.toNat (i / 128) (i % 128)
        let h := x.hist.hist.addPlate (pl.codes.map (BitVec.ofNat 32)) pad
        { x with hist := { x.hist with hist := h.1, left := x.hist.left - 1 } }
    | .hostWrite j =>
      let w2 := r.entry.words.getD 2 0
      let b := hostBytes pl
      let fin (r : CmdRun) : CmdRun := { r with
        work := r.work.filter fun q => q.src != j, poisoned := r.poisoned || pl.poison }
      (s.hostWriteBytes r (bits 4 w2 36) ((r.entry.words.getD 3 0).toNat + j * b.length) b).onRun run fin
    | .image =>
      let i := fld (r.entry.words.getD 3 0) 63 60
      s.tableImage run (((pl.codes.drop (2048 * i)).take 2048).map (BitVec.ofNat 8)) pl.poison
    | .mergeImage =>
      let i := fld (r.entry.words.getD 5 0) 63 60
      s.storeItem p {
        run := some run, obj := w.obj, plate := w.plate
        data := { pl with codes := splice pl.codes (2048 * i) ((s.slot r.encSlot).image.map (·.toNat)) } }
    | .reduce _ | .residual _ => s.reduceGive p r d
    | .copy _ | .lines _ | .heal _ _ => s

/-- A plate has been delivered whole: counted, its want done with, its consumer served, the next plates asked for. -/
def State.eyeDeliver (s : State) (p : SliceNo) (run : Nat) (w : Want) (pl : Plate) (master : BitVec 40) (empty : Bool := false)
    (excess : Nat := 0) (buf : Nat := 0) : State :=
  let s1 := s.onSlice p fun x => { x with eye := (x.eye.wantDone w.id) }
  let s2 := s1.bump (psIsl p) psEyePlates
  let s3 := if w.xpose then s2.bump (psIsl p) psEyeXpose else s2
  ((s3.eyeGive p run w pl master empty excess buf).eyeAsk p)

/-! Refusal. -/

/-- The Eyepiece refuses a plate (R237, R454, R455): counted, reported, marked dark here, and its request parked; where the
dark table is full, Progress mode delivers it poisoned at once, as `pl`, whose header names the master. -/
def State.eyeRefuse (s : State) (p : SliceNo) (run : Nat) (w : Want) (ctr arg : Nat) (pl : Plate) (master : BitVec 40)
    (buf : Nat := 0) : State :=
  let s1 := (s.bump (psIsl p) ctr).emit (psIsl p)
    { code := 4, sev := sevTransient, oid := w.obj.oid, plate := w.plate, arg := BitVec.ofNat 64 arg }
  let s2 := s1.darken w.obj.oid w.plate p
  if s2.eph.isDark w.obj.oid w.plate then s2.parkReq w.obj.oid w.plate (.eye p w.id)
  else if s.consistent then s2
  else s2.eyeDeliver p run w pl master false 0 buf

/-! Room (R230, R232, R236, R252). -/

/-- Whether a plate of a use ends in the store path of its slice. -/
def Use.stores : Use → Bool
  | .store _ | .encode _ | .mergeImage | .reduce _ | .residual _ | .heal .. => true
  | _ => false

/-- Whether the consumer of a plate takes it now: the store path holds up to 16 plates (R252). -/
def State.consumerFree (s : State) (p : SliceNo) (u : Use) : Bool := !u.stores || decide ((s.slice p).storeHeld < 16)

/-- Whether a plate bound for the export port is not the next of its stream, so that its rows wait in staging (R230). -/
def State.isLater (s : State) (run : Nat) (w : Want) : Bool :=
  match w.use, s.findRun run with | .leave n, some r => n != r.plates | _, _ => false

/-- Staging buffers that a plate needs: one, or two for F32 output, where it is transposed or waits for earlier plates of its export
(R230, R236). -/
def State.buffers (s : State) (run : Nat) (w : Want) (stored : Fmt) : Nat :=
  if w.xpose || s.isLater run w then (if deliverFmt w stored = .f32 then 2 else 1) else 0

/-- Staging buffers in use. -/
def Slice.staging (x : Slice) : Nat := (x.eye.flight.map (·.buf)).sum + (x.xp.tx.map (·.buf)).sum

/-- Whether the staging buffers that a plate needs are free: a later plate of an export leaves two for the next one (DESIGN CHOICE, log
entry 127). -/
def State.stagingFree (s : State) (p : SliceNo) (run : Nat) (w : Want) (stored : Fmt) : Bool :=
  let n := s.buffers run w stored
  n = 0 || (s.slice p).staging + n + (if s.isLater run w then 2 else 0) ≤ 16

/-- Slots that plates in flight use (R232). -/
def Eye.slotsUsed (e : Eye) : List Nat := (e.flight.filter fun f => !f.parked).map fun f => f.hdr.slot

/-- Whether a plate through a slot finds an entry of the table cache: plates admitted use up to 8, those whose tables are still missing
among them (R232). -/
def Eye.tableRoom (e : Eye) (slot : Nat) : Bool :=
  let used := (List.range 64).filter e.slotsUsed.contains
  used.contains slot || used.length < 8

/-- The admission of an FRC plate whose header passed: admitted, parked or refused as stale (R211, R212). -/
inductive Admit where
  | letIn | park | stale
deriving DecidableEq, Repr, Inhabited

/-- How a slice's copy of a slot takes a plate (R211). -/
def SlotCopy.judge (c : SlotCopy) (gen : Nat) : Admit :=
  if c.st = .live && c.gen.toNat = gen then (if c.draining then .park else .letIn) else .stale

/-- A parked or arriving FRC plate is admitted: it counts against its slot and its sub-streams wait for lanes (R212, R231). -/
def State.eyeAdmit (s : State) (p : SliceNo) (f : InFlight) : State :=
  let n : Fin 64 := Fin.ofNat 64 f.hdr.slot
  let hit := (s.slice p).eye.tcache.contains n
  let s1 := if hit then s else s.bump (psIsl p) psEyeTmiss
  s1.onSlice p fun x => { x with
    slots := x.slots.set n { x.slots[n] with inUse := x.slots[n].inUse + 1 }
    eye := { x.eye with
      tcache := if hit then n :: x.eye.tcache.filter (· != n) else x.eye.tcache
      flight := x.eye.flight ++ [{ f with
        parked := false, subs := List.range 16, buf := s.buffers f.run f.want (fmtOf f.hdr.fmt) }] } }

/-- Takes a plate out of flight. -/
def State.dropFlight (s : State) (p : SliceNo) (id : Nat) : State :=
  s.onSlice p fun x => { x with eye := { x.eye with flight := x.eye.flight.filter fun f => f.want.id != id } }

/-- When the draining mark of a slot clears, the plates parked behind it are admitted or refused under the copy as it then
stands (R211); one for which there is no room waits among those that have become admissible (R232, R236). -/
def State.unpark (s : State) (p : SliceNo) (n : Fin 64) : State :=
  ((s.slice p).eye.flight.filter fun f => f.parked && f.hdr.slot == n.val).foldl (fun s f =>
    let t := s.dropFlight p f.want.id
    match ((s.slice p).slots[n]).judge f.hdr.gen with
    | .letIn =>
      if (t.slice p).eye.tableRoom f.hdr.slot && t.stagingFree p f.run f.want (fmtOf f.hdr.fmt) then t.eyeAdmit p f
      else t.onSlice p fun x => { x with eye := { x.eye with arrived := f.arr :: x.eye.arrived } }
    | .park => s
    | .stale =>
      let pl := voidPlate f.want (fmtOf f.hdr.fmt)
      if f.hdr.poisoned || f.arr.marked then t.eyeDeliver p f.run f.want pl f.hdr.masterOid
      else t.eyeRefuse p f.run f.want psEyeStale 1 pl f.hdr.masterOid) s

/-- The same in every slice. -/
def State.unparkAll (s : State) (n : Fin 64) : State := (List.finRange 32).foldl (fun s p => s.unpark p n) s

/-- A hold of a slot ends and its command with it, with a status (R214, R217): the slot stays LIVE, and its next command goes on. -/
def State.slotUnhold (s : State) (n : Fin 64) (c : SlotCmd) (st : BitVec 8) : State :=
  let s1 := ((s.onSlot n fun x => { x with draining := false, cur := none }).onCopies n fun c =>
    { c with draining := false, reported := false }).slotCmdEnd c.run st
  let s2 := s1.unparkAll n
  (s2.dropBuild c.run).slotGo n

/-- The slot command of a command that will not go on ends with a status (R214, R223); while SPG is in reset, what becomes of the slot is
settled as SPG enters RUN (R220). -/
def State.slotQuit (s : State) (n : Fin 64) (id : Nat) (st : BitVec 8) : State :=
  let x := s.slot n
  let s1 := if x.queue.any fun c => c.run == id then
      ((s.onSlot n fun x => { x with queue := x.queue.filter fun c => c.run != id }).slotCmdEnd id st).slotGo n else s
  match x.cur with
  | none => s1
  | some c =>
    if c.run != id then s1
    else if !s.awake spgIsl then (s1.onSlot n fun x => { x with cur := none }).slotCmdEnd id st
    else if x.st = .loading then s1.slotFails n st
    else if x.st = .live && x.draining then s1.slotUnhold n c st
    else s1

end Sys2Proof.Machine
end

