-- ==== Sys2Proof/Machine/Slots.lean ====
section
/-! DEFINITION. The Spectrograph: histograms, table builds, slot transitions (R210-R226). -/

namespace Sys2Proof.Machine

/-- The packet of a histogram: its bins in order, then the zero count (R222; log entry 110). -/
def Hist.words (h : Hist) : List W64 := (h.bins ++ [h.zeros]).map (BitVec.ofNat 64)
/-- The histogram of a packet's words. -/
def Hist.ofWords (l : List W64) : Hist :=
  { bins := (l.take 2048).map fun w => w.toNat % 2 ^ 48, zeros := ((l.drop 2048).headD 0).toNat % 2 ^ 48 }

/-- HISTOGRAM_SEND (R223): the last row of the slice's share has been counted; the slice sends its histogram to SPG as one packet. -/
def execHistogramSend (p : SliceNo) (s : State) : Outcome :=
  let h := (s.slice p).hist
  match h.run with
  | none => .next s
  | some run =>
    guarded (s.awake (psIsl p) && h.left == 0) s
      (let n := h.hist.zeros + h.hist.bins.sum
      let s1 := (s.onSlice p fun x => { x with hist := { x.hist with run := none } }).bump (psIsl p) psHistElems n
      let s2 := (s1.onBuild run fun b => { b with unsent := b.unsent.erase p }).send (psIsl p) {
        quad := quadOf (psIsl p), queue := BitVec.ofNat 16 (queueFrom (psIsl p) 2), words := plain h.hist.words, cargo := .hist p run }
      s2.histNext p)

/-- A slice's histogram reaches SPG (R223, R224, R226): it is added as delivered, and one that arrived poisoned is reported; with the
last one the build's histograms are closed. -/
def State.takeHist (s : State) (p : SliceNo) (run : Nat) (h : Hist) (poison : Bool) : State :=
  match s.buildOf run with
  | none => s
  | some b =>
    let slot : Fin 64 := b.slot.getD 0
    let s1 := if poison then s.emit spgIsl { code := 0x0007, sev := sevInfo, arg := put slot.val 0 } else s
    let s2 := s1.onBuild run fun b => { b with waiting := b.waiting.erase p, hist := b.hist.add h, closeAt := s.now spgIsl }
    if (b.waiting.erase p).isEmpty then { s2 with spg := { s2.spg with closed := s2.spg.closed ++ [run] } } else s2

/-- Builds that wait for the histogram of slice p, which is reset or shut before it has sent it, end: their commands complete
TABLE_ABORTED and their slots are FREE again (R223). -/
def State.histAborts (s : State) (p : SliceNo) : State :=
  (s.spg.builds.filter fun b => b.unsent.contains p).foldl (fun s b =>
    let s1 := s.dropBuild b.run
    match b.slot with
    | some n => s1.slotQuit n b.run stTableAborted
    | none => s1.slotCmdEnd b.run stTableAborted) s

/-- Whether a built table is being installed: SPG builds one at a time (R226). -/
def State.installing (s : State) : Bool := s.spg.slots.toList.any fun x =>
  x.st == .loading && x.built && match x.cur with | some c => (match c.act with | .compress _ => true | _ => false) | none => false

/-- The cycle from which a build counts (R226): the later of its histogram close and the end of the build before it. -/
def State.buildStart (s : State) (b : Build) : Ctr :=
  match s.spg.buildEnd with
  | some e => if elapsed (s.now spgIsl) e < elapsed (s.now spgIsl) b.closeAt then e else b.closeAt
  | none => b.closeAt

/-- TABLE_BUILD (R219, R224, R226): SPG takes the build whose histograms closed first, fits the sixteen codebooks, and
sends the image to every participating slice; where the command names a place for it, the image is also stored. -/
def execTableBuild (s : State) : Outcome :=
  match s.spg.closed with
  | [] => .next s
  | run :: rest =>
    match (s.buildOf run).bind fun b => b.slot.map fun n => (b, n) with
    | none => guarded (s.awake spgIsl) s { s with spg := { s.spg with closed := rest } }
    | some (b, n) =>
      guarded (s.running spgIsl && (s.slot n).st == .loading && !(s.slot n).built && !s.installing) s
        (let r := buildImage b.hist
        let s1 : State := { s with spg := { s.spg with
          closed := rest, builds := s.spg.builds.filter (fun c => c.run != run), iter := r.2
          buildSlot := n, buildAt := s.buildStart b } }
        let s2 := s1.installImage n r.1
        match s2.findRun run with
        | none => s2
        | some c =>
          let w4 := c.entry.words.getD 4 0
          let oid := bits 40 w4 24
          if !bitAt (c.entry.words.getD 2 0) 15 then s2
          else match s2.recordOf oid with
            | none => s2
            | some o =>
              let k := (bits 24 w4 0).toNat
              (s2.onRun run fun r => { r with encSlot := n }).openStream (s2.encSlice o k) run o [(k, .mergeImage)] none false)

/-- The second pass of a COMPRESS (R222): each encoding slice streams its source plates to its encoder. -/
def State.secondPass (s : State) (run : Nat) (n : Fin 64) : State :=
  match s.findRun run with
  | none => s
  | some r =>
    match r.src, r.dst with
    | some a, some b =>
      (s.onRun run fun r => { r with second2 := true, waiting := false, encSlot := n, work := [] }).openPerSlice run a b r.work
        (fun q => .encode (BitVec.ofNat 24 q.dst)) (some .f32)
    | _, _ => s

/-- SLOT_LIVE (R214): every enabled slice in RUN holds the image, which it has taken and checked (R219). -/
def execSlotLive (slot : Fin 64) (s : State) : Outcome :=
  let x := s.slot slot
  guarded (s.awake spgIsl && x.st == .loading && x.built &&
      (List.finRange 32).all fun p => !s.takesImages p || ((s.slice p).slots[slot]).image == x.image) s
    (let s1 := (s.onSlot slot fun x => { x with st := .live, built := false, cur := none }).onCopies slot fun c =>
      { c with st := .live, draining := false, reported := false }
    let s2 := match x.cur with
      | none => s1
      | some c => match c.act with
        | .compress _ => (({ s1 with spg := { s1.spg with
            lastCycles := BitVec.ofNat 32 (sat 32 (elapsed (s.now spgIsl) s.spg.buildAt)), buildEnd := some (s.now spgIsl) } }
            : State).secondPass c.run slot).bump spgIsl spgBuilds
        | _ => (s1.slotCmdEnd c.run stOk).bump spgIsl spgLoads
    s2.slotGo slot)

/-- SLOT_DRAINED_REPORT (R218): a slice whose copy is draining or RETIRING, or takes its state from SPG only as it enters RUN, and whose
count is zero, reports. -/
def execSlotDrainedReport (p : SliceNo) (slot : Fin 64) (s : State) : Outcome :=
  let c := (s.slice p).slots[slot]
  let x := s.slot slot
  guarded (s.sliceIn p && s.awake spgIsl && (x.st == .retiring || (x.st == .live && x.draining)) &&
      (c.st != .live || c.draining) && c.inUse == 0 && !c.reported) s
    (s.onSlice p fun x => { x with slots := x.slots.set slot { x.slots[slot] with reported := true } })

/-- Whether a slice counts as drained: it has reported, or takes no part (R218). -/
def State.drained (s : State) (p : SliceNo) (slot : Fin 64) : Bool :=
  !s.sliceIn p || ((s.slice p).slots[slot]).reported

/-- SLOT_DRAIN_COMPLETE (R214): every slice counts as drained. A RETIRING slot becomes FREE; a draining one becomes LOADING
under the command that waited. -/
def execSlotDrainComplete (slot : Fin 64) (s : State) : Outcome :=
  let x := s.slot slot
  guarded (s.awake spgIsl && (x.st == .retiring || (x.st == .live && x.draining)) &&
      (List.finRange 32).all fun p => s.drained p slot) s
    (if x.st = .retiring then
      let s1 := s.slotFree slot
      let s2 := match x.cur with
        | some c => (s1.onSlot slot fun x => { x with cur := none }).slotCmdEnd c.run stOk
        | none => s1
      (s2.bump spgIsl spgRetires).slotGo slot
    else match x.cur with
      | none => s
      | some c =>
        let s1 := match c.act with
          | .load gen img => (s.slotLoading slot gen).installImage slot (img.getD [])
          | .compress gen => s.slotLoading slot gen
          | .retire => s
        s1.unparkAll slot)

/-- SLOT_HOLD_TIMEOUT (R214, R217): in Progress mode a hold of 2^20 SPG cycles ends; the slot stays LIVE and the command
completes TABLE_HELD. -/
def execSlotHoldTimeout (slot : Fin 64) (s : State) : Outcome :=
  let x := s.slot slot
  match x.cur with
  | none => .next s
  | some c =>
    guarded (s.awake spgIsl && x.st == .live && x.draining && !s.consistent && 2 ^ 20 ≤ elapsed (s.now spgIsl) x.holdAt) s
      ((s.bump spgIsl spgHoldFail).slotUnhold slot c stTableHeld)

end Sys2Proof.Machine
end

