-- ==== Sys2Proof/Machine/MemPort.lean ====
section
/-! DEFINITION. Memory ports and the guard cache (R43-R63, R169-R176, R532). -/

namespace Sys2Proof.Machine

/-- Whether the port end of slice p works: its island out of reset, its port enabled. -/
def State.portLive (s : State) (p : SliceNo) : Bool := (s.isl (psIsl p)).live && (s.slice p).mp.en

def State.onMp (s : State) (p : SliceNo) (f : Mp → Mp) : State := s.onSlice p fun x => { x with mp := f x.mp }

/-- Lines of the data region of a port (R165). -/
def State.dataEnd (s : State) (p : SliceNo) : Nat :=
  match s.conf (psIsl p) with | some c => if c.present p.val then dataLines (c.lines p.val) else 0 | none => 0

/-! The guard cache. -/

/-- The guard line number of a data line (R172). -/
def guardOf (addr : Nat) : Nat := addr / 128

/-- Replaces a cached guard line. -/
def Mp.setGuard (m : Mp) (e : GuardEnt) : Mp := { m with cache := mapIf (fun g => g.line == e.line) (fun _ => e) m.cache }
def Mp.guardEnt (m : Mp) (line : Nat) : Option GuardEnt := m.cache.find? fun g => g.line == line

/-- The 512 bytes of a guard line. -/
def guardBytes (g : List (BitVec 32)) : List Byte := g.flatMap fun v => leBytes 4 v.toNat
/-- The guards of a guard line's bytes. -/
def guardsOf (b : List Byte) : List (BitVec 32) := (chunks 4 128 (fit 512 b)).map fun c => BitVec.ofNat 32 (leNat c)

/-- Whether a request is for the data region: neither a guard line's read nor its write-back. -/
def MemReq.isData (r : MemReq) : Bool := match r.why with | .guardFill _ => false | .guardWb _ => false | _ => true

/-- The data writes of lines that a guard line covers whose fate is open: outstanding, or to be reissued; each with its line's
previous guard (R175). -/
def Mp.openWrites (m : Mp) (line : Nat) : List (BitVec 32 × BitVec 32) :=
  let on (r : MemReq) : Bool := r.wr && r.isData && guardOf r.addr.toNat == line
  ((m.tags ++ m.ahead).filter fun t => on t.req).map (fun t => (t.req.addr, t.prevGuard)) ++
    (m.waiting.filter on).filterMap fun r => r.prev.map fun g => (r.addr, g)

/-- Whether an entry may be replaced (R174, R176): no write to a line it covers is under way, no read of one has still to be
checked, and it is not pinned. -/
def Mp.replaceable (m : Mp) (e : GuardEnt) : Bool :=
  e.filled && !e.pinned && (m.openWrites e.line).isEmpty &&
    !(m.tags.any fun t => t.req.isData && guardOf t.req.addr.toNat == e.line)

/-- Whether every line a guard line covers lies in free or unwritten extents, by the extents written (R514). -/
def Home.untouched (h : Home) (line : Nat) : Bool := !(h.touched.any fun e => e / 16 == line)
/-- The covered lines that lie in free or unwritten extents, as a mask. -/
def Home.knownMask (h : Home) (line : Nat) : BitVec 128 :=
  (List.range 128).foldl (fun (m : BitVec 128) i =>
    if h.touched.contains ((128 * line + i) / 8) then m else setBit m i true) 0

/-- A write-back of a guard line (R175): covered lines whose write is under way carry their previous guard; the unknown guards of
a pinned line are free (R176, log entry 116). -/
def State.guardWriteBack (s : State) (p : SliceNo) (e : GuardEnt) : State :=
  let out := (s.slice p).mp.openWrites e.line
  let g := e.guards.zipIdx.map fun v =>
    match out.find? fun t => t.1.toNat % 128 == v.2 with
    | some t => t.2
    | none => if e.pinned && !e.known.getLsbD v.2 then Config.freeGuard e.line v.2 else v.1
  let s1 := s.onMp p fun m => m.setGuard { e with dirty := !out.isEmpty, dirtyAt := s.now (psIsl p), wb := true }
  s1.portReq p { wr := true, addr := BitVec.ofNat 32 (s.dataEnd p + e.line), why := .guardWb e.line, data := guardBytes g }

/-- GUARD_LINE_FILL (R174, R514): a guard line that a waiting data request needs is brought in, in place of the least
recently used replaceable entry; formed as zeros for a write where every covered line is free or unwritten. -/
def execGuardLineFill (p : SliceNo) (line : BitVec 32) (s : State) : Outcome :=
  let x := s.slice p
  let m := x.mp
  let l := line.toNat
  let need := m.waiting.filter fun r => r.isData && guardOf r.addr.toNat == l
  let old := (m.cache.filter m.replaceable).foldl (fun (a : Option GuardEnt) e =>
    match a with | some b => if e.used < b.used then some e else a | none => some e) none
  guarded (s.portLive p && !need.isEmpty && (m.guardEnt l).isNone && (m.cache.length < 64 || old.isSome)) s
    (let s1 := if m.cache.length < 64 then s else
      match old with
      | some e => (if e.dirty then s.guardWriteBack p e else s).onMp p fun m =>
          { m with cache := m.cache.filter fun g => g.line != e.line }
      | none => s
    let zero := (match need.head? with | some r => r.wr | none => false) && x.home.untouched l
    let e : GuardEnt := { line := l, filled := zero, used := m.useNo + 1 }
    let s2 := s1.onMp p fun m => { m with cache := m.cache ++ [e], useNo := m.useNo + 1 }
    if zero then s2
    else s2.portReq p { wr := false, addr := BitVec.ofNat 32 (s.dataEnd p + l), why := .guardFill l })

/-- GUARD_WRITEBACK_TIMER (R175, R294): a line that has stayed dirty for 65,536 slice cycles, or is to be written before the
slice reaches QUIESCED or gives its port end to its twin, is written back. -/
def execGuardWritebackTimer (p : SliceNo) (line : BitVec 32) (s : State) : Outcome :=
  match (s.slice p).mp.guardEnt line.toNat with
  | none => .next s
  | some e =>
    guarded (s.portLive p && e.dirty && !e.wb &&
        (65536 ≤ elapsed (s.now (psIsl p)) e.dirtyAt || (s.isl (psIsl p)).quiesceAsk || (s.slice p).dataShut)) s
      (s.guardWriteBack p e)

/-! What a response leads to. -/

/-- The ARG of an MP_ record: bits 39:32 the tag, 31:0 the line address (R482). -/
def mpArg (tag : BitVec 8) (addr : BitVec 32) : W64 := packW [put tag.toNat 32, put addr.toNat 0]

/-- A line that was asked for has come, or is taken as failed (R53, R54). -/
def State.lineCame (s : State) (r : MemReq) (data : List Byte) (failed : Bool) : State :=
  match r.why with
  | .read job ix =>
    let s1 := if failed then s.darkenLine r.home r.id false else s
    (match (s1.slice r.home).home.reads.find? fun j => j.id == job with
    | none => s1
    | some j =>
      let j1 := { j with got := KMap.put j.got ix { data := data, failed := failed } }
      let s2 := s1.putJob r.home j1
      if j1.got.length = j1.plan.length then s2.jobDone r.home j1 else s2)
  | .merge _ a => s.mergeDone r.home a { data := data, failed := failed }
  | .rebuild k ix => s.healLine r.id.oid k ix (if failed then none else some data)
  | .scrub run =>
    let s1 := if failed then s.darkenLine r.home r.id false else s
    { s1 with svy := { s1.svy with scrubs := mapIf (fun b => b.run == run) (fun b => { b with left := b.left - 1 }) s1.svy.scrubs } }
  | _ => s

/-- A guard line has been read (R174, R176): a failed one is pinned with the mask of known lines, at most 16 in a slice;
where it cannot be pinned, the device detector hears of it and waiting reads of its lines are delivered poisoned. -/
def State.guardRead (s : State) (p : SliceNo) (line : Nat) (data : List Byte) (failed : Bool) : State :=
  let x := s.slice p
  match x.mp.guardEnt line with
  | none => s
  | some e =>
    if !failed then s.onMp p fun m => m.setGuard { e with guards := guardsOf data, filled := true }
    else if (x.mp.cache.filter (·.pinned)).length < 16 then
      s.onMp p fun m => m.setGuard { e with pinned := true, filled := true, known := x.home.knownMask line }
    else
      let hit (r : MemReq) : Bool := r.isData && !r.wr && guardOf r.addr.toNat == line
      let s1 := s.onMp p fun m =>
        { m with cache := m.cache.filter (fun g => g.line != line), pinFullSeen := true
                 waiting := m.waiting.filter fun r => !hit r }
      (x.mp.waiting.filter hit).foldl (fun s r => s.lineCame r [] true)
        (s1.event (psIsl p) { code := 0x0103, inst := 0, arg := mpArg 0 (BitVec.ofNat 32 (s.dataEnd p + line)) })

/-- A line read at port p goes to where its home's duties are done, over the pair bridge where that is the twin (R290). -/
def State.lineBack (s : State) (p : SliceNo) (r : MemReq) (data : List Byte) (failed : Bool) : State :=
  if s.duty r.home = p then s.lineCame r data failed
  else
    let i := s.newId
    (i.2.onMp p fun m => { m with back := m.back ++ [(i.1, r, failed)] }).send (psIsl p)
      (dataPkt p (queueWords data) (.bridgeLine (s.duty r.home) p i.1))

/-- A request reaches port p over the pair bridge: it may be issued now. A line to be written that came poisoned makes its plates dark. -/
def State.takeBridgeReq (s : State) (p : SliceNo) (id : Nat) (poison : Bool) : State :=
  let mine (r : MemReq) : Bool := r.crossing == some id
  let s1 := s.onMp p fun m => { m with waiting := mapIf mine (fun r => { r with crossing := none }) m.waiting }
  if !poison then s1
  else ((s.slice p).mp.waiting.filter fun r => mine r && r.wr).foldl (fun s r => s.darkenLine r.home r.id true) s1

/-- A line read at port p has crossed the pair bridge. -/
def State.takeBridgeLine (s : State) (p : SliceNo) (id : Nat) (data : List Byte) (poison : Bool) : State :=
  match (s.slice p).mp.back.find? fun e => e.1 == id with
  | none => s
  | some e => (s.onMp p fun m => { m with back := m.back.filter fun e => e.1 != id }).lineCame e.2.1 data (e.2.2 || poison)

/-- The packets that cross the pair bridge to and from port p are lost, with their quadrant or with the twin (DESIGN CHOICE, log entry
131): requests are taken as come, and lines as failed. -/
def State.bridgeCut (s : State) (p : SliceNo) : State :=
  (s.slice p).mp.back.foldl (fun s e => s.lineCame e.2.1 [] true)
    (s.onMp p fun m => { m with back := [], waiting := m.waiting.map fun r => { r with crossing := none } })

/-- A line read has been answered; `failed` as R532 takes it, `corr` where the code was 0x1: a line that the Survey or a
SCRUB reads is then written back as it came (R460). -/
def State.lineRead (s : State) (p : SliceNo) (r : MemReq) (data : List Byte) (failed corr : Bool) (cipher : List Byte) :
    State :=
  match r.why with
  | .guardFill g => s.guardRead p g data failed
  | .rebuild .. => s.lineCame r cipher failed
  | .scrub _ =>
    let s1 := if !failed && corr && !((s.slice p).mp.waiting.any fun q => q.wr && q.addr == r.addr) then
        s.portReq p { wr := true, addr := r.addr, why := .refresh, data := cipher, id := r.id, home := r.home } else s
    s1.lineCame r data failed
  | _ => s.lineBack p r data failed

/-- A line write has been answered (R52, R175, R176). -/
def State.lineWrote (s : State) (p : SliceNo) (r : MemReq) (failed : Bool) (prev : BitVec 32) : State :=
  let g := guardOf r.addr.toNat
  let i := r.addr.toNat % 128
  let s1 := if r.isData then s.onMp p fun m => match m.guardEnt g with
      | none => m
      | some e =>
        if failed then m.setGuard { e with guards := e.guards.set i prev }
        else m.setGuard { e with known := setBit e.known i true }
    else s
  let s2 := match (s1.slice p).mp.guardEnt g with
    | some e => if r.isData && e.pinned && e.known == BitVec.allOnes 128 then
        s1.guardWriteBack p { e with pinned := false, dirty := true } else s1
    | none => s1
  match r.why with
  | .write job => s2.lineWritten r.home job r.id failed
  | .guardWb line =>
    let s3 := s2.onMp p fun m => match m.guardEnt line with
      | some e => m.setGuard { e with wb := false, dirty := e.dirty || failed } | none => m
    if failed then s3 else s3.bump (psIsl p) psGuardWb
  | .refresh => if failed then s2.darkenLine r.home r.id true else s2.bump svyIsl svyRefreshed
  | _ => s2

/-- A request answered inside the slice with code 0x4, as a failed device answers (R56, R62, R451). DESIGN CHOICE (log entry 118): a
read so answered counts in PS_MP_UNCORR, whose row speaks of read responses taken with code 0x4, though no response came. -/
def State.answerDown (s : State) (p : SliceNo) (r : MemReq) (code : BitVec 16) : State :=
  let s1 := s.event (psIsl p) { code := code, inst := 0, oid := r.id.oid, plate := r.id.plate, arg := mpArg 0 r.addr }
  if r.wr then s1.lineWrote p r true (r.prev.getD (match (s.slice p).mp.guardEnt (guardOf r.addr.toNat) with
    | some e => e.guards.getD (r.addr.toNat % 128) 0 | none => 0))
  else (if code = 0x0103 then s1.bump (psIsl p) psMpUncorr else s1).lineRead p r [] true false []

/-! Port up and down. -/

/-- MP_UP_RISE (R57, R61): the level rises, and timed-out tags return to use. -/
def execMpUpRise (p : SliceNo) (s : State) : Outcome :=
  guarded (!(s.slice p).mp.upPin) s
    (s.onMp p fun m => { m with upPin := true, upAt := s.now (psIsl p), tags := m.tags.filter fun t => !t.timedOut })

/-- A port that has ended step 5 is in the interleave (R505, R512); a joint device is once both its ports are. -/
def State.backIn (s : State) (p : SliceNo) : State :=
  let t := s.slice (twinOf p)
  if s.isJoint p && (t.devShut || !t.mp.step5) then s
  else
    let g := setBit s.eph.gone p.val false
    { s with eph := { s.eph with gone := if s.isJoint p then setBit g (twinOf p).val false else g } }

/-- Step 5 of a port ends (R505, R512): its bit of PORTS_UP, and PORT_FAIL, which stays while a port is left out. -/
def State.portEnds (s : State) (p : SliceNo) (up : Bool) : State :=
  let out (q : SliceNo) : Bool := q != p && (s.slice q).mp.leftOut
  { (s.onMp p fun m => { m with leftOut := !up }) with
    cfg := { s.cfg with portsUp := setBit s.cfg.portsUp p.val up, portFail := !up || (List.finRange 32).any out } }

/-- MP_UP_STABLE (R60, R62, R500): UP sets after 16 cycles with mp_en high. Within step 5 that ends the step. -/
def execMpUpStable (p : SliceNo) (s : State) : Outcome :=
  let m := (s.slice p).mp
  guarded (s.portLive p && m.upPin && !m.up && 16 ≤ elapsed (s.now (psIsl p)) m.upAt &&
      16 ≤ elapsed (s.now (psIsl p)) m.enAt) s
    (let s1 := s.onMp p fun m => { m with up := true, downForced := false, step5 := true }
    if m.step5 then s1 else (s1.portEnds p true).backIn p)

/-- MP_UP_FALL (R62): no new request is issued from the next cycle. -/
def execMpUpFall (p : SliceNo) (s : State) : Outcome :=
  guarded (s.slice p).mp.upPin s (s.onMp p fun m => { m with upPin := false, up := false, upAt := s.now (psIsl p) })

/-- The device of slice p is lost (R467, R471, R472): its spans are marked lost and it leaves the interleave; in Consistent
mode the domains of its raw, ZFC and byte spans halt. -/
def State.loseDevice (s : State) (p : SliceNo) : State :=
  let here (e : DirEnt) : Bool := match e.kind with | .run sl _ _ _ => sl == s.homeSlice p | .span sl _ _ => sl == s.homeSlice p | _ => false
  let hit := s.eph.dir.filter here
  let lost := s.eph.written.filter fun w => match s.eph.entryFor w.1 (w.2 / 64) with | some e => here e | none => false
  let s1 := s.onSlice p fun x => { x with lostSpans := x.lostSpans || !hit.isEmpty }
  let s2 : State := { s1 with eph := { s1.eph with
    dir := mapIf here (fun e => { e with lost := true }) s1.eph.dir
    lostPlates := s1.eph.lostPlates ++ lost.filter fun w => !s1.eph.lostPlates.contains w
    gone := setBit (setBit s1.eph.gone p.val true) (s.homeSlice p).val true } }
  if s.consistent then
    (hit.filter fun e => e.obj.code != 1).foldl (fun s e => s.haltDomain (domainOf e.obj.oid) false) s2
  else s2

/-- Closes the device shutter of slice p (R451, R472). -/
def State.shutDevice (s : State) (p : SliceNo) : State :=
  if (s.slice p).devShut then s
  else
    let s1 := (s.onSlice p fun x => { x with devShut := true }).loseDevice p
    { s1 with cfg := { s1.cfg with portsUp := setBit s1.cfg.portsUp p.val false } }

/-- MP_NOT_READY (R60, R505): a present port that has not come up within 2^24 slice cycles of mp_en. -/
def execMpNotReady (p : SliceNo) (s : State) : Outcome :=
  let m := (s.slice p).mp
  guarded (s.portLive p && !m.step5 && !m.up && 2 ^ 24 ≤ elapsed (s.now (psIsl p)) m.enAt) s
    (let s1 := s.onMp p fun m => { m with notReady := true, step5 := true }
    (s1.portEnds p false).shutDevice p)

/-- The request of a write whose data went ahead, as one that waits. -/
def TagUse.back (t : TagUse) : MemReq := { t.req with prev := some t.prevGuard }

/-- Every waiting request answered inside the slice (R62), those whose data went ahead among them (R49). -/
def State.answerAll (s : State) (p : SliceNo) : State :=
  let m := (s.slice p).mp
  (m.ahead.map TagUse.back ++ m.waiting).foldl (fun s r => s.answerDown p r 0x0103)
    (s.onMp p fun m => { m with waiting := [], ahead := [] })

/-- MP_DOWN_FORCED (R62): mp_up has stayed low for 2^20 slice cycles. DESIGN CHOICE (log entry 118): on a port whose mp_up has never
risen the cycles count from the slice's reset, since it is low from then on. -/
def execMpDownForced (p : SliceNo) (s : State) : Outcome :=
  let m := (s.slice p).mp
  guarded (s.portLive p && !m.upPin && !m.downForced && 2 ^ 20 ≤ elapsed (s.now (psIsl p)) m.upAt) s
    ((s.onMp p fun m => { m with downForced := true }).answerAll p)

/-! Requests and responses. -/

/-- Whether two requests of one line must not be under way together (R50). -/
def MemReq.conflicts (a b : MemReq) : Bool := a.addr == b.addr && (a.wr || b.wr)

/-- Whether the guard line a request needs is held (R174). -/
def Mp.guardReady (m : Mp) (r : MemReq) : Bool :=
  !r.isData || match m.guardEnt (guardOf r.addr.toNat) with | some e => e.filled | none => false

/-- The first waiting request of a kind that may be issued: none of its line stands before it or is outstanding (R50),
its guard line is held, and its key slot is loaded (R180); data lines wait while nobody does the home duties (R294). -/
def State.issuable (s : State) (p : SliceNo) (wr : Bool) : Option Nat :=
  let x := s.slice p
  (List.range x.mp.waiting.length).find? fun i =>
    match x.mp.waiting[i]? with
    | none => false
    | some r => r.wr == wr && r.crossing.isNone && x.mp.guardReady r && (!r.isData || s.homeLive p) && (!r.isData || x.keys[Fin.ofNat 16 r.id.key].isSome) &&
        !((x.mp.waiting.take i).any fun q => q.conflicts r) && !((x.mp.tags ++ x.mp.ahead).any fun t => t.req.conflicts r)

/-- The extent in which line a of port p lies counts as written (R514): in a joint device half of it lies on each port. -/
def State.touch (s : State) (p : SliceNo) (a : Nat) : State :=
  let mark (gs : List Nat) (x : Slice) : Slice :=
    { x with home := { x.home with touched := x.home.touched ++ gs.filter fun e => !x.home.touched.contains e } }
  if s.isJoint p then (s.onSlice p (mark [a / 8])).onSlice (twinOf p) (mark [a / 8])
  else s.onSlice p (mark [a / 16 * 2, a / 16 * 2 + 1])

/-- Issues the waiting request i with a tag (R48, R169): a data line's guard is placed in the cache as it is issued. -/
def State.issue (s : State) (p : SliceNo) (i : Nat) (tag : BitVec 8) : State :=
  let x := s.slice p
  let k := psIsl p
  match x.mp.waiting[i]? with
  | none => s
  | some r =>
    let key := (x.keys[Fin.ofNat 16 r.id.key]).getD []
    let enc := r.isData && r.why != .refresh
    let beat := if enc then
        xts true key (xtsTweak r.id.oid r.id.plate r.id.seg.code r.id.line) (fit 512 r.data) else fit 512 r.data
    let j := s.inject k 0x0104 0
    let s0 := if r.wr then s else j.2
    let g := guardOf r.addr.toNat
    let prev := r.prev.getD (match x.mp.guardEnt g with | some e => e.guards.getD (r.addr.toNat % 128) 0 | none => 0)
    let s1 := s0.onMp p fun m =>
      let m1 := { m with
        waiting := m.waiting.eraseIdx i, useNo := m.useNo + 1
        tags := m.tags ++ [{ tag := tag, req := r, at_ := s.now k, prevGuard := prev, injTimeout := !r.wr && j.1 }]
        wdata := if r.wr then m.wdata ++ [(tag, beat)] else m.wdata }
      if !r.isData then m1 else match m1.guardEnt g with
        | none => m1
        | some e =>
          m1.setGuard (if r.wr && r.why != .refresh then
            { e with guards := e.guards.set (r.addr.toNat % 128) (lineGuard r.addr beat), used := m.useNo + 1
                     dirtyAt := if e.dirty then e.dirtyAt else s.now k, dirty := true }
            else { e with used := m.useNo + 1 })
    if r.wr && r.isData then s1.touch p r.addr.toNat else s1

/-- Whether a tag is free (R48, R57). -/
def Mp.tagFree (m : Mp) (t : BitVec 8) : Bool := !((m.tags ++ m.ahead).any fun u => u.tag == t)

/-- Whether the port may issue a write with tag t: the write whose data went ahead first, if there is one; else the next that may be
issued, with a free tag (R48, R49). -/
def State.writeOk (s : State) (p : SliceNo) (t : BitVec 8) : Bool :=
  match (s.slice p).mp.ahead with
  | u :: _ => u.tag == t
  | [] => (s.slice p).mp.tagFree t && (s.issuable p true).isSome

/-- The request beat of a write: that of the write whose data went ahead first, else of the next that may be issued (R49). -/
def State.writeIssue (s : State) (p : SliceNo) (t : BitVec 8) : State :=
  match (s.slice p).mp.ahead with
  | u :: rest => s.onMp p fun m => { m with ahead := rest, tags := m.tags ++ [{ u with at_ := s.now (psIsl p) }] }
  | [] => match s.issuable p true with | some i => s.issue p i t | none => s

/-- MP_REQUEST_ISSUE (R47, R48, R50, R60, R62, R451): one read, one write or both, each with a free tag. While the device
shutter is closed, or under R62, the next waiting request is answered inside the slice instead. -/
def execMpRequestIssue (p : SliceNo) (rd wr : Option (BitVec 8)) (s : State) : Outcome :=
  let x := s.slice p
  let m := x.mp
  if x.devShut || m.downForced then
    match m.ahead, m.waiting with
    | [], [] => .next s
    | u :: rest, _ => guarded (s.portLive p) s ((s.onMp p fun m => { m with ahead := rest }).answerDown p u.back 0x0103)
    | [], r :: rest => guarded (s.portLive p) s ((s.onMp p fun m => { m with waiting := rest }).answerDown p r 0x0103)
  else
    let rdOk := match rd with | none => true | some t => m.tagFree t && (s.issuable p false).isSome
    let wrOk := match wr with | none => true | some t => s.writeOk p t && rd != wr
    guarded (s.portLive p && m.up && (rd.isSome || wr.isSome) && rdOk && wrOk) s
      (let s1 := match rd, s.issuable p false with | some t, some i => s.issue p i t | _, _ => s
      match wr with | some t => s1.writeIssue p t | none => s1)

/-- MP_WRITE_DATA_BEAT (R49): the oldest issued write's data transfers; where every issued write has sent its data, that of the next
write that may be issued goes ahead of its request, under a free tag. -/
def execMpWriteDataBeat (p : SliceNo) (s : State) : Outcome :=
  let m := (s.slice p).mp
  let f := s.freshTag m.tagFree
  match m.wdata, f.1, s.issuable p true with
  | _ :: rest, _, _ => guarded (s.portLive p) s (s.onMp p fun m => { m with wdata := rest })
  | [], some t, some i =>
    guarded (s.portLive p && m.up && !(s.slice p).devShut) s
      ((f.2.issue p i t).onMp p fun m =>
        { m with wdata := [], tags := m.tags.filter (fun u => u.tag != t), ahead := m.ahead ++ m.tags.filter fun u => u.tag == t })
  | [], _, _ => .next s

/-- An unexpected response (R58). -/
def State.mpUnexpected (s : State) (p : SliceNo) (tag : BitVec 8) : State :=
  (s.onMp p fun m => { m with unexpSeen := true }).emit (psIsl p) { code := 0x0003, sev := sevInfo, arg := put tag.toNat 0 }

/-- A late response (R57). -/
def State.mpLate (s : State) (p : SliceNo) (tag : BitVec 8) : State :=
  (s.onMp p fun m => { m with lateSeen := true, tags := m.tags.filter fun t => t.tag != tag }).bump (psIsl p) psMpLate

/-- A request answered RETRY goes again, up to 4 times (R52); a write keeps the guard its line had before it (R175). -/
def State.reissue (s : State) (p : SliceNo) (t : TagUse) : State :=
  let r := { t.req with retries := t.req.retries + 1, prev := if t.req.wr then some t.prevGuard else none }
  (s.onMp p fun m => { m with waiting := r :: m.waiting }).bump (psIsl p) psMpRetry

/-- The response code a read is handled with: 0 to 4, or 5 where it is to be reissued (R52, R53). DESIGN CHOICE (log entry 118): a
response of code 0x1 with mp_rd_poison is taken as 0x2 and not counted in PS_MP_CORR. -/
def readCode (err : BitVec 4) (poison : Bool) (retries : Nat) : Nat :=
  match err.toNat with
  | 0 => if poison then 2 else 0
  | 1 => if poison then 2 else 1
  | 5 => if retries < 4 then 5 else 2
  | 2 => 2 | 3 => 3 | 4 => 4 | _ => 2

/-- The more severe of a real and an injected code (R495). -/
def worseCode (real inj : Nat) : Nat := if real = 5 then inj else max real inj

/-- The injection that applies to a read response: its code, 0 where there is none, and the state with it used (R494). -/
def State.injectRead (s : State) (p : SliceNo) : Nat × State :=
  let k := psIsl p
  if (s.isl k).armedFor 0x0103 0 then (4, s.useInjection k)
  else if (s.isl k).armedFor 0x0102 0 then (2, s.useInjection k)
  else if (s.isl k).armedFor 0x0101 0 then (1, s.useInjection k)
  else (0, s)

/-- A line carried for the twin's device is counted by the slice that serves it (R294). -/
def State.bridgeLine (s : State) (p : SliceNo) : State :=
  if (s.slice p).mp.bridged then s.bump (psIsl (twinOf p)) psPairBridgeLines else s

/-- A read response that is used or fails (R52-R54, R169, R176, R532): one that fails its line guard is an event of the uncorrectable
detector only. DESIGN CHOICE (log entry 118): such a line counts in PS_MP_RD_LINES, as taken with code 0x0 or 0x1, and a poisoned 0x0
or 0x1 does not. -/
def State.readAnswered (s : State) (p : SliceNo) (t : TagUse) (code : Nat) (injected : Bool) (data : List Byte) : State :=
  let k := psIsl p
  let r := t.req
  let ev (c : BitVec 16) : DetEvent :=
    { code := c, inst := 0, oid := r.id.oid, plate := r.id.plate, arg := mpArg t.tag r.addr, injected := injected }
  if code = 4 then ((s.bump k psMpUncorr).event k (ev 0x0103)).lineRead p r [] true false []
  else if 2 ≤ code then ((s.bump k psMpUncorr).event k (ev 0x0102)).lineRead p r [] true false []
  else
    let s1 := (s.bump k psMpRdLines).bridgeLine p
    let s2 := if code = 1 then s1.bump k psMpCorr else s1
    let corr (s : State) : State := if code = 1 then s.event k (ev 0x0101) else s
    if !r.isData then (corr s2).lineRead p r data false (code == 1) data
    else
      let x := s.slice p
      let i := r.addr.toNat % 128
      let e := (x.mp.guardEnt (guardOf r.addr.toNat)).getD { line := 0 }
      let ok := (!e.pinned || e.known.getLsbD i) && e.guards.getD i 0 == lineGuard r.addr (fit 512 data)
      let key := (x.keys[Fin.ofNat 16 r.id.key]).getD []
      let text := xts false key (xtsTweak r.id.oid r.id.plate r.id.seg.code r.id.line) (fit 512 data)
      if ok then (corr s2).lineRead p r text false (code == 1) data
      else ((s2.bump k psMpGuard).event k (ev 0x0102)).lineRead p r text true false data

/-- MP_READ_RESPONSE (R51-R54, R57, R58). -/
def execMpReadResponse (p : SliceNo) (tag : BitVec 8) (data : List Byte) (poison : Bool) (err : BitVec 4) (s : State) :
    Outcome :=
  guarded (s.portLive p) s
    (match (s.slice p).mp.tags.find? fun t => t.tag == tag with
    | none => s.mpUnexpected p tag
    | some t =>
      if t.req.wr then s.mpUnexpected p tag
      else if t.timedOut then s.mpLate p tag
      else if t.injTimeout then
        ((s.mpLate p tag).bump (psIsl p) psMpTimeout).onMp p (fun m => { m with timeoutSeen := true })
          |>.answerDown p t.req 0x0104
      else
        let s1 := s.onMp p fun m => { m with tags := m.tags.filter fun u => u.tag != tag }
        let real := readCode err poison t.req.retries
        let j := s1.injectRead p
        let code := if j.1 = 0 then real else worseCode real j.1
        if code = 5 then s1.reissue p t else j.2.readAnswered p t code (j.1 != 0) data)

/-- MP_WRITE_RESPONSE (R51, R52, R57, R58). -/
def execMpWriteResponse (p : SliceNo) (tag : BitVec 8) (err : BitVec 4) (s : State) : Outcome :=
  let k := psIsl p
  guarded (s.portLive p) s
    (match (s.slice p).mp.tags.find? fun t => t.tag == tag with
    | none => s.mpUnexpected p tag
    | some t =>
      if !t.req.wr then s.mpUnexpected p tag
      else if t.timedOut then s.mpLate p tag
      else
        let s1 := s.onMp p fun m => { m with tags := m.tags.filter fun u => u.tag != tag }
        let r := t.req
        let ev (c : BitVec 16) : DetEvent :=
          { code := c, inst := 0, oid := r.id.oid, plate := r.id.plate, arg := mpArg tag r.addr }
        match err.toNat with
        | 0 => ((s1.bump k psMpWrLines).bridgeLine p).lineWrote p r false t.prevGuard
        | 1 => ((((s1.bump k psMpWrLines).bridgeLine p).bump k psMpCorr).event k (ev 0x0101)).lineWrote p r false t.prevGuard
        | 5 => if r.retries < 4 then s1.reissue p t else (s1.event k (ev 0x0103)).lineWrote p r true t.prevGuard
        | _ => (s1.event k (ev 0x0103)).lineWrote p r true t.prevGuard)

/-- MP_TAG_TIMEOUT (R56): a timed-out read is taken as code 0x2, a timed-out write as code 0x4. DESIGN CHOICE (log entry 118): it is
counted in PS_MP_TIMEOUT alone, since PS_MP_UNCORR counts read responses and none came. -/
def execMpTagTimeout (p : SliceNo) (tag : BitVec 8) (s : State) : Outcome :=
  match (s.slice p).mp.tags.find? fun t => t.tag == tag with
  | none => .next s
  | some t =>
    guarded (s.portLive p && !t.timedOut && 2 ^ 20 ≤ elapsed (s.now (psIsl p)) t.at_) s
      (let s1 := s.onMp p fun m =>
        { m with timeoutSeen := true, tags := mapIf (fun u => u.tag == tag) (fun u => { u with timedOut := true }) m.tags }
      let s2 := (s1.bump (psIsl p) psMpTimeout).event (psIsl p)
        { code := 0x0104, inst := 0, oid := t.req.id.oid, plate := t.req.id.plate, arg := mpArg tag t.req.addr }
      if t.req.wr then s2.lineWrote p t.req true t.prevGuard else s2.lineRead p t.req [] true false [])

/-- MP_HELD_REQUEST_TIMEOUT (R50): a request held back behind a timed-out tag for 2^20 slice cycles. -/
def execMpHeldRequestTimeout (p : SliceNo) (index : Nat) (s : State) : Outcome :=
  let m := (s.slice p).mp
  match m.waiting[index]? with
  | none => .next s
  | some r =>
    guarded (s.portLive p && 2 ^ 20 ≤ elapsed (s.now (psIsl p)) r.since &&
        m.tags.any (fun t => t.timedOut && t.req.conflicts r && 2 ^ 21 ≤ elapsed (s.now (psIsl p)) t.at_)) s
      (((s.onMp p fun m => { m with waiting := m.waiting.eraseIdx index, timeoutSeen := true }).bump (psIsl p) psMpTimeout).answerDown
        p r 0x0104)

end Sys2Proof.Machine
end

