-- ==== Sys2Proof/Machine/NetWin.lean ====
section
/-! DEFINITION. The Network Window Port and the host accesses of commands (R83-R93, R352-R357, R366-R372). -/

namespace Sys2Proof.Machine

def State.onCmd (s : State) (f : CmdS → CmdS) : State := { s with cmd := f s.cmd }

/-- Whether an access belongs to a command. -/
def NwAcc.run? (a : NwAcc) : Option Nat :=
  match a.why with | .hostRead r _ | .hostWrite r | .image r _ | .record r => some r | _ => none

/-- Changes where the host completion record of a command stands. -/
def State.hostRec (s : State) (run : Nat) (st : HostRec) : State := s.onRun run fun r => { r with hrec := st }

/-- The STALE_ENTRY record of a queue is written locally once the host's is done with (R339, R364). -/
def State.staleLocal (s : State) (q : Fin 64) (lost : Bool) : State :=
  let c := s.cq q
  s.bareRecord q (c.head.setWidth 16) (c.head.getLsbD 16) c.epoch 0 stStaleEntry lost

/-- A host access has failed with a status (R340, R356, R371): the command ends with it and issues none of its remaining
accesses; a fetch refused halts its queue, a fetch lost leaves HEAD. -/
def State.accFailed (s : State) (a : NwAcc) (st : BitVec 8) : State :=
  match a.why with
  | .fetch q id =>
    s.onCq q fun c =>
      if !(c.fetch.any fun f => f.id == id) then c
      else if st = stHostLost then
        { c with fetch := none, stale := c.stale.map fun k => (k.1, s.now cmdIsl) }
      else { c with fetch := none, halted := 3, stale := none }
  | .record run => s.hostRec run .lost
  | .staleRecord q => s.staleLocal q true
  | .hostRead run _ | .image run _ =>
    (s.onCmd fun c => { c with nwWaiting := c.nwWaiting.filter fun b => b.run? != some run }).onRun run fun r =>
      { (r.fail st) with waiting := false }
  | .hostWrite run =>
    (s.onCmd fun c => { c with nwWaiting := c.nwWaiting.filter fun b => b.run? != some run }).onRun run fun r =>
      { (r.fail st) with hostWrFail := true }

/-- A host access has ended well: what came is used (R338, R353, R368). -/
def State.accDone (s : State) (a : NwAcc) (data : List Byte) : State :=
  match a.why with
  | .fetch q id =>
    if !((s.cq q).fetch.any fun f => f.id == id) then s
    else
      let s1 := s.onCq q fun c => { c with fetch := none }
      if (s.cq q).en && (s.cq q).halted == 0 then s1.takeEntries q ((chunks 64 8 data).map fun b => bytesWords b) else s1
  | .hostRead run off =>
    if (s.findRun run).isNone then s
    else (s.onCmd fun c => { c with landing := c.landing ++ [(run, off, data)] }).hostReadStore run
  | .image run off =>
    let s1 := s.onCmd fun c => { c with landing := c.landing ++ [(run, off, data)] }
    match landed s1.cmd.landing run 4 0 2048 with
    | none => s1
    | some b => (s1.onCmd fun c => { c with landing := c.landing.filter fun e => e.1 != run }).tableImage run b false
  | .hostWrite _ => s
  | .record run =>
    let more := s.cmd.nwTags.any (fun t => t.acc.why == .record run) || s.cmd.nwWaiting.any (fun b => b.why == .record run)
    (s.onRun run fun r => { r with hrec := if r.hrec = .issued && !more then .acked else r.hrec }).bump cmdIsl cmdHcqWritten
  | .staleRecord q => (s.staleLocal q false).bump cmdIsl cmdHcqWritten

/-! The port. -/

/-- NW_PATH_UP_RISE (R91, R92): tags lost or timed out return to use. -/
def execNwPathUpRise (s : State) : Outcome :=
  guarded (!s.cmd.pathPin) s
    (s.onCmd fun c => { c with pathPin := true, pathAt := s.now cmdIsl, nwTags := c.nwTags.filter fun t => !t.timedOut })

/-- NW_PATH_UP_STABLE (R92): PATH_UP after 16 CMD cycles. -/
def execNwPathUpStable (s : State) : Outcome :=
  guarded ((s.isl cmdIsl).live && s.cmd.pathPin && !s.cmd.pathUp && 16 ≤ elapsed (s.now cmdIsl) s.cmd.pathAt) s
    (s.onCmd fun c => { c with pathUp := true })

/-- NW_PATH_DOWN (R92, R370, R371): every outstanding tag is LOST, every host queue is disarmed, and its entries accepted
and not started complete ABORTED. While CMD is in reset only the level falls. DESIGN CHOICE (log entry 120): the data beats of writes so
lost that have not been sent are dropped, and a write whose data went ahead of its request is lost with it. -/
def execNwPathDown (s : State) : Outcome :=
  guarded s.cmd.pathPin s
    (if !(s.isl cmdIsl).live then s.onCmd fun c => { c with pathPin := false } else
    let out := s.cmd.nwTags.filter (fun t => !t.timedOut) ++ s.cmd.nwAhead
    let s1 := s.onCmd fun c => { c with
      pathPin := false, pathUp := false, pathAt := s.now cmdIsl, pathDownSeen := true
      pathFalls := if c.pathFalls = 0xFFFF then c.pathFalls else c.pathFalls + 1
      nwTags := c.nwTags.map fun t => { t with timedOut := true }, nwData := [], nwAhead := [] }
    let s2 := out.foldl (fun s t => s.accFailed t.acc stHostLost) s1
    (List.finRange 64).foldl (fun s q =>
      if (s.cq q).host then (s.onCq q fun c => { c with armed := false, fetch := none, stale := none }).abortAccepted q else s) s2)

/-- Whether the command of an access has gone or makes no more host accesses (R356). -/
def State.accDead (s : State) (a : NwAcc) : Bool :=
  match a.run? with
  | some id => (match s.findRun id with | some r => r.stopped && (match a.why with | .record _ => false | _ => true) | none => true)
  | none => false

/-- Whether a tag of the port is free (R87, R91). -/
def CmdS.tagFree (c : CmdS) (tag : BitVec 8) : Bool := !((c.nwTags ++ c.nwAhead).any fun t => t.tag == tag)

/-- NW_REQUEST_ISSUE (R87, R93, R356, R357): the write whose data went ahead first is issued under its tag; else the first waiting
access is issued under a free tag, and one that may not be issued ends its command instead: HOST_LOST without path or arming, WINDOW
outside its window. -/
def execNwRequestIssue (tag : BitVec 8) (s : State) : Outcome :=
  match s.cmd.nwAhead, s.cmd.nwWaiting with
  | u :: rest, _ =>
    guarded (s.awake cmdIsl && u.tag == tag) s
      (s.onCmd fun c => { c with nwAhead := rest, nwTags := c.nwTags ++ [{ u with at_ := s.now cmdIsl }] })
  | [], [] => .next s
  | [], a :: rest =>
    guarded (s.awake cmdIsl) s
      (let s1 := s.onCmd fun c => { c with nwWaiting := rest }
      if s.accDead a then s1
      else if !s.cmd.mayIssue a then s1.accFailed a stHostLost
      else if !s.cmd.winAdmits a.win a.addr a.len then s1.accFailed a stWindow
      else if !s.cmd.tagFree tag then s
      else s1.onCmd fun c => { c with
        nwTags := c.nwTags ++ [{ tag := tag, acc := a, dest := (c.wins[Fin.ofNat 16 a.win.toNat]).dest, at_ := s.now cmdIsl }]
        nwData := if a.wr then c.nwData ++ [(tag, a.data)] else c.nwData })

/-- The next 64 bytes of the oldest write whose beats have not all been sent leave (R86, R87). -/
def CmdS.sendBeat (c : CmdS) : CmdS :=
  match c.nwData with
  | [] => c
  | (t, b) :: rest => { c with
      lastBeat := some { tag := t, data := b.take 64, last := decide (b.length ≤ 64) }
      nwData := if b.length ≤ 64 then rest else (t, b.drop 64) :: rest }

/-- NW_WRITE_DATA_BEAT (R49, R87): the next beat of the oldest write whose beats have not all been sent; where all have, the data of the
next access, a write, begins to leave ahead of its request, under a free tag. -/
def execNwWriteDataBeat (s : State) : Outcome :=
  let f := s.freshTag s.cmd.tagFree
  match s.cmd.nwData, f.1, s.cmd.nwWaiting with
  | _ :: _, _, _ => guarded (s.isl cmdIsl).live s (s.onCmd CmdS.sendBeat)
  | [], some tag, a :: rest =>
    guarded (s.awake cmdIsl && a.wr && !s.accDead a && s.cmd.mayIssue a && s.cmd.winAdmits a.win a.addr a.len) s
      (f.2.onCmd fun c => CmdS.sendBeat { c with
        nwWaiting := rest, nwData := [(tag, a.data)]
        nwAhead := c.nwAhead ++ [{ tag := tag, acc := a, dest := (c.wins[Fin.ofNat 16 a.win.toNat]).dest, at_ := s.now cmdIsl }] })
  | [], _, _ => .next s

/-- An answer that is discarded (R91, R92). -/
def State.nwLate (s : State) : State := s.onCmd fun c => { c with lateSeen := true }

/-- Takes a tag out of use. -/
def State.freeTag (s : State) (tag : BitVec 8) : State :=
  s.onCmd fun c => { c with nwTags := c.nwTags.filter fun t => t.tag != tag }

/-- The end of a read or a write by its code (R90). -/
def State.nwEnd (s : State) (a : NwAcc) (err : BitVec 2) (data : List Byte) : State :=
  match err.toNat with
  | 0 => s.accDone a data
  | 1 => s.accFailed a stHostError
  | _ => s.accFailed a stHostLost

/-- NW_READ_BEAT (R88, R90-R92). -/
def execNwReadBeat (tag : BitVec 8) (data : List Byte) (last : Bool) (err : BitVec 2) (s : State) : Outcome :=
  guarded (s.isl cmdIsl).live s
    (match s.cmd.nwTags.find? fun t => t.tag == tag with
    | none => s.nwLate
    | some t =>
      if t.timedOut || t.acc.wr || !s.cmd.pathPin then s.nwLate
      else
        let got := t.got ++ fit 64 data
        if last then (s.freeTag tag).nwEnd t.acc err (fit t.acc.len got)
        else s.onCmd fun c => { c with
          nwTags := mapIf (fun u => u.tag == tag) (fun u => { u with got := got }) c.nwTags })

/-- NW_WRITE_ACK (R89-R92). -/
def execNwWriteAck (tag : BitVec 8) (err : BitVec 2) (s : State) : Outcome :=
  guarded (s.isl cmdIsl).live s
    (match s.cmd.nwTags.find? fun t => t.tag == tag with
    | none => s.nwLate
    | some t =>
      if t.timedOut || !t.acc.wr || !s.cmd.pathPin then s.nwLate
      else (s.freeTag tag).nwEnd t.acc err [])

/-- NW_TAG_TIMEOUT (R91): a tag outstanding 2^22 CMD cycles is LOST, and returns to use when the path next rises; the beats of a write
that have not been sent are sent all the same, since those of the next may not pass them (R87). -/
def execNwTagTimeout (tag : BitVec 8) (s : State) : Outcome :=
  match s.cmd.nwTags.find? fun t => t.tag == tag with
  | none => .next s
  | some t =>
    guarded ((s.isl cmdIsl).live && !t.timedOut && 2 ^ 22 ≤ elapsed (s.now cmdIsl) t.at_) s
      ((s.onCmd fun c => { c with
        timeoutSeen := true, nwTags := mapIf (fun u => u.tag == tag) (fun u => { u with timedOut := true }) c.nwTags }).accFailed t.acc stHostLost)

/-- The entries of a command: two for a STAGE pair (R334). -/
def CmdRun.entries (r : CmdRun) : List Entry := r.entry :: r.second.toList

/-- HOST_COMPLETION_WRITE (R366, R368): the record of each entry of a completed command that asks for one goes to its slot
of the host completion ring, while the path is up and the queue armed under the entry's epoch; else it is not written. -/
def execHostCompletionWrite (run : Nat) (s : State) : Outcome :=
  match s.findRun run with
  | none => .next s
  | some r =>
    guarded (s.awake cmdIsl && r.done && r.hrec == .due) s
      (let c := s.cq r.q
      let acc (e : Entry) : NwAcc := {
        why := .record run, wr := true, win := c.win, addr := c.hcq.toNat * 4096 + 64 * (e.idx.toNat % c.size), len := 64
        data := fit 64 (wordsBytes (recordWords r.q e.seq e.phase e.epoch e.opcode r false (s.now cmdIsl)))
        queue := some (r.q, e.epoch) }
      let l := (r.entries.filter Entry.hcq).map acc
      if l.all s.cmd.mayIssue then l.foldl State.hostAccess (s.hostRec run .issued) else s.hostRec run .lost)

end Sys2Proof.Machine
end

