-- ==== Sys2Proof/Machine/Start.lean ====
section
/-! DEFINITION. The start of a command: which command starts next (R342, R343), what its descriptor says (R329-R332, R334)
and the checks made before it has any effect (R333). -/

namespace Sys2Proof.Machine

/-! Opcodes (R331). -/
def opNop : Nat := 0x00
def opMatmul : Nat := 0x01
def opExport : Nat := 0x02
def opImport : Nat := 0x03
def opCompress : Nat := 0x04
def opRecode : Nat := 0x05
def opMove : Nat := 0x06
def opCopy : Nat := 0x07
def opPrefetch : Nat := 0x08
def opEvict : Nat := 0x09
def opPin : Nat := 0x0A
def opUnpin : Nat := 0x0B
def opReduce : Nat := 0x0C
def opHostRead : Nat := 0x0D
def opHostWrite : Nat := 0x0E
def opSignal : Nat := 0x0F
def opWait : Nat := 0x10
def opFence : Nat := 0x11
def opTableLoad : Nat := 0x12
def opTableRetire : Nat := 0x13
def opScrub : Nat := 0x14

/-! Fields of a descriptor. -/

/-- A field of a descriptor word. -/
def Entry.fld (e : Entry) (w hi lo : Nat) : Nat := Machine.fld (e.word w) hi lo
/-- The OID that a word names in bits 63:24, and the plate index in bits 23:0. -/
def Entry.oid (e : Entry) (w : Nat) : BitVec 40 := bits 40 (e.word w) 24
def Entry.plate (e : Entry) (w : Nat) : Nat := e.fld w 23 0
/-- COUNT, or NSPANS. -/
def Entry.count (e : Entry) : Nat := e.fld 2 63 40
/-- The record of words 6 and 7. -/
def Entry.record (e : Entry) : RecWords := { w0 := e.word 6, w1 := e.word 7 }

/-- The fields of words 1 to 7 by opcode: word, high bit, low bit (R332). -/
def opFields : Nat → List (Nat × Nat × Nat)
  | 0x01 => [(1, 63, 0), (2, 63, 24), (2, 23, 6), (2, 6, 4), (2, 3, 1), (3, 63, 0), (4, 63, 8), (5, 63, 0)]
  | 0x02 => [(1, 63, 0), (2, 63, 29)]
  | 0x03 => [(1, 63, 0), (2, 63, 26), (5, 63, 24)]
  | 0x04 => [(1, 63, 0), (2, 63, 39), (2, 37, 23), (2, 21, 14), (3, 63, 24), (4, 63, 0), (5, 63, 60)]
  | 0x05 => [(1, 63, 0), (2, 63, 39), (2, 26, 24), (3, 63, 0)]
  | 0x06 => [(1, 63, 24), (1, 17, 0), (2, 63, 22)]
  | 0x07 => [(1, 63, 0), (2, 63, 24), (3, 63, 0)]
  | 0x08 | 0x0A | 0x0B => [(1, 63, 24), (1, 17, 0), (2, 63, 40)]
  | 0x09 => [(1, 63, 24), (1, 17, 0), (2, 63, 24)]
  | 0x0C => [(1, 63, 0), (2, 63, 38), (3, 63, 24), (4, 63, 24)]
  | 0x0D => [(1, 63, 0), (2, 63, 32), (3, 63, 0)]
  | 0x0E => [(1, 63, 0), (2, 63, 33), (3, 63, 0)]
  | 0x0F => [(1, 63, 50), (1, 39, 0)]
  | 0x10 => [(1, 39, 0)]
  | 0x11 => [(1, 0, 0)]
  | 0x12 => [(1, 63, 49), (1, 47, 44), (2, 63, 0), (3, 63, 60)]
  | 0x13 => [(1, 63, 58)]
  | 0x14 => [(1, 63, 24), (1, 17, 0), (2, 63, 40), (3, 63, 0)]
  | _ => []

/-- NEWC of a descriptor. -/
def Entry.newc (e : Entry) : Bool :=
  match e.opcode with
  | 0x01 => bitAt (e.word 2) 1
  | 0x03 => bitAt (e.word 2) 29
  | 0x04 => bitAt (e.word 2) 14
  | 0x05 | 0x07 => bitAt (e.word 2) 39
  | 0x0D => bitAt (e.word 2) 35
  | _ => false

/-- The bits of a word that the fields of an opcode cover. -/
def fieldMask (l : List (Nat × Nat × Nat)) (w : Nat) : W64 :=
  packW ((l.filter fun f => f.1 == w).map fun f => put (2 ^ (f.2.1 + 1 - f.2.2) - 1) f.2.2)

/-- Whether the bits of a descriptor outside its fields are zero (R329, R332); a record's fields are not among them. -/
def Entry.clean (e : Entry) : Bool :=
  e.fld 0 31 30 == 0 && e.fld 0 23 8 == 0 &&
  (List.range 7).all fun i =>
    let w := i + 1
    (6 ≤ w && e.newc) || e.word w &&& ~~~(fieldMask (opFields e.opcode) w) == 0

/-- BOUND of a descriptor (R264). -/
def Entry.bound (e : Entry) : Nat :=
  match e.opcode with
  | 0x01 => e.fld 2 6 4
  | 0x03 => e.fld 2 28 26
  | 0x05 | 0x07 => e.fld 2 26 24
  | 0x0D => e.fld 2 34 32
  | _ => 0

/-! PLATE_MATMUL. -/
def Entry.engine (e : Entry) : Nat := e.fld 1 5 4
def Entry.dest (e : Entry) : Nat := e.fld 1 3 2
def Entry.rows (e : Entry) : Nat := e.fld 2 23 8
def Entry.cols (e : Entry) : Nat := e.fld 4 23 8
def Entry.row0 (e : Entry) : Nat := e.fld 1 23 8
def Entry.col0 (e : Entry) : Nat := e.fld 3 23 8
def Entry.spillPlates (e : Entry) : Nat := e.fld 5 23 0

/-- Plate rows and reduction plates of an operand as it is delivered (R274). -/
def asDelivered (o : ObjRec) (x : Bool) : Nat × Nat := if x then (o.pcols, o.prows) else (o.prows, o.pcols)

/-! Objects. -/

/-- The record of an object that is known to exist. -/
def State.recOf (s : State) (oid : BitVec 40) : Option ObjRec := match s.known oid with | .yes o => some o | _ => none

/-- The objects a descriptor reads, in the order of its words. -/
def Entry.sources (e : Entry) : List (BitVec 40) :=
  match e.opcode with
  | 0x01 => if e.oid 1 = 0 then [e.oid 2] else [e.oid 1, e.oid 2]
  | 0x02 | 0x05 | 0x07 | 0x0E => [e.oid 1]
  | 0x04 => if bitAt (e.word 2) 15 then [e.oid 1, e.oid 4] else [e.oid 1]
  | 0x06 | 0x08 | 0x09 | 0x0A | 0x0B => [e.oid 1]
  | 0x0C => if e.oid 4 = 0 then [e.oid 1, e.oid 3] else [e.oid 1, e.oid 3, e.oid 4]
  | 0x12 => if bitAt (e.word 1) 49 then [] else [e.oid 2]
  | 0x14 => if e.oid 1 = 0 then [] else [e.oid 1]
  | _ => []

/-- The object a descriptor writes plates of. -/
def Entry.dst? (e : Entry) : Option (BitVec 40) :=
  match e.opcode with
  | 0x01 => if e.dest = 0 then some (e.oid 3) else none
  | 0x03 | 0x0D => some (e.oid 1)
  | 0x04 | 0x05 | 0x07 => some (e.oid 3)
  | _ => none

/-- Objects a descriptor names besides: spill strip and master. -/
def Entry.others (e : Entry) : List (BitVec 40) :=
  match e.opcode with
  | 0x01 => (if e.spillPlates = 0 then [] else [e.oid 4]) ++ (if e.oid 5 = 0 then [] else [e.oid 5])
  | 0x03 => if e.oid 5 = 0 then [] else [e.oid 5]
  | _ => []

/-- Every object a descriptor names. -/
def Entry.named (e : Entry) : List (BitVec 40) := e.sources ++ e.dst?.toList ++ e.others

/-- The destination as the checks take it: the registered record, or that of a new object where it defines a plate count
of 1 to 2^24 (R333). -/
def State.dstRec (s : State) (e : Entry) : Option ObjRec :=
  match e.dst? with
  | none => none
  | some oid => match s.recOf oid with
    | some o => some o
    | none =>
      let o := ObjRec.ofWords e.record
      if e.newc && 1 ≤ o.plates && o.plates ≤ 2 ^ 24 then some o else none

/-- Whether a range of plates lies outside an object, where the object is known. -/
def outside (o : Option ObjRec) (first count : Nat) : Bool := match o with | some o => o.plates < first + count | none => false

/-- Bytes of one plate in a host range (R352): by FMT for a HOST_WRITE, by the destination's for a HOST_READ. -/
def hostSize (o : ObjRec) (f : Fmt) : Nat := if o.code = 3 then 32768 else denseSize f + if hasScale f then 512 else 0

/-- The first status of a list of checks, of those that fail; 0 where none does. -/
def firstBad : List (Bool × BitVec 8) → BitVec 8
  | [] => stOk
  | c :: r => if c.1 then c.2 else firstBad r

/-! Order 1 of R333. -/

/-- What is wrong with the codes and counts of a descriptor, whatever the objects are (R265, R285, R317, R333, R443). -/
def Entry.malformed (e : Entry) : Bool :=
  let op := e.opcode
  !e.clean || 0x14 < op || 4 < e.bound ||
  match op with
  | 0x01 => e.fld 1 7 6 == 3 || e.engine == 3 || e.dest == 3 || e.rows == 0 || e.cols == 0 ||
      (e.dest != 0 && e.oid 3 != 0) || (e.dest == 2 && e.engine == 2)
  | 0x02 | 0x03 | 0x04 | 0x05 | 0x07 => e.count == 0
  | 0x09 => !bitAt (e.word 2) 37 && (e.fld 2 39 38 == 0 || e.fld 2 39 38 == 3)
  | 0x0C => e.count == 0 || e.fld 2 39 38 == 3 || (e.oid 4 != 0 && e.fld 2 39 38 == 0)
  | 0x0D | 0x0E => e.count == 0 || e.fld 3 5 0 != 0
  | 0x12 => bitAt (e.word 1) 49 && e.fld 2 5 0 != 0
  | _ => false

/-- Whether the ranges and formats of a descriptor break the objects they name (R332, R333 order 1, R310). -/
def State.rangeBad (s : State) (e : Entry) : Bool :=
  let a := s.recOf (e.oid 1)
  let d := s.dstRec e
  match e.opcode with
  | 0x01 =>
    (match s.recOf (e.oid 1) with
      | some o => e.oid 1 != 0 && (asDelivered o (bitAt (e.word 1) 0)).1 < e.row0 + e.rows | none => false) ||
    (match s.recOf (e.oid 2) with
      | some o => (asDelivered o (bitAt (e.word 2) 7)).1 < e.col0 + e.cols | none => false) ||
    (match d with | some o => o.prows < e.row0 + e.rows || o.pcols < e.col0 + e.cols | none => false) ||
    (e.spillPlates != 0 && match s.recOf (e.oid 4) with
      | some o => o.code != 3 || o.plates < e.spillPlates | none => true)
  | 0x02 => outside a (e.plate 1) e.count || (e.fld 2 31 30 == 3 && match a with | some o => o.fmt != 3 | none => false)
  | 0x03 | 0x0D => outside d (e.plate 1) e.count
  | 0x04 => outside a (e.plate 1) e.count || outside d (e.plate 1) e.count ||
      (bitAt (e.word 2) 15 && outside (s.recOf (e.oid 4)) (e.plate 4) 1)
  | 0x05 | 0x07 => outside a (e.plate 1) e.count || outside d (e.plate 3) e.count
  | 0x06 | 0x08 | 0x09 | 0x0A | 0x0B =>
    (match a with | some o => e.count != 0 && spanCount o < e.fld 1 17 0 + e.count | none => false)
  | 0x0C => outside a (e.plate 1) e.count
  | 0x0E => outside a (e.plate 1) e.count || (e.fld 2 35 34 == 3 && match a with | some o => o.fmt != 3 | none => false)
  | 0x12 => !bitAt (e.word 1) 49 && outside (s.recOf (e.oid 2)) (e.plate 2) 1
  | 0x14 => if e.oid 1 = 0 then s.dataEnd e.slice < e.fld 3 63 32 + e.fld 3 31 0
      else match a with | some o => e.count != 0 && spanCount o < e.fld 1 17 0 + e.count | none => false
  | _ => false

/-! Orders 2 to 8. -/

/-- Whether a domain the command needs is halted on this block, or a manager has said so (R333 order 2, R468). -/
def State.haltNamed (s : State) (e : Entry) : Bool :=
  e.named.any fun o => o != 0 && (s.isHalted (domainOf o) || s.known o == .no fsHalted)

/-- Whether two records agree in CODE, FMT and RATE. -/
def sameForm (a b : ObjRec) : Bool := a.code == b.code && a.fmt == b.fmt && a.rate == b.rate

/-- Whether an archive node refuses the command (R122, R333 order 3, R353). -/
def State.archiveBad (s : State) (e : Entry) : Bool :=
  (match s.conf cmdIsl with | some c => c.archive | none => false) &&
  match e.opcode with
  | 0x01 | 0x02 | 0x03 | 0x04 | 0x05 | 0x0C | 0x12 => true
  | 0x07 => (match s.recOf (e.oid 1), s.dstRec e with | some a, some d => !sameForm a d | _, _ => false)
  | 0x0D => (match s.dstRec e with | some d => d.code != 0 && d.code != 3 | none => false)
  | 0x0E => bitAt (e.word 2) 33 ||
      (match s.recOf (e.oid 1) with
        | some a => !(a.code == 3 || (a.code == 0 && a.fmt == e.fld 2 35 34)) | none => false)
  | _ => false

/-- A status a manager has given for a named object other than those of the checks themselves. -/
def State.refusal (s : State) (e : Entry) : BitVec 8 :=
  (e.named.filterMap fun o => match s.known o with
    | .no st => if st = fsNoObject || st = fsHalted then none else some (statusOf st) | _ => none).headD 0

/-- Whether a source does not exist, or a destination neither exists nor is made by the command (order 4). -/
def State.noObject (s : State) (e : Entry) : Bool :=
  e.sources.any (fun o => (s.recOf o).isNone) ||
  match e.dst? with | some o => (s.recOf o).isNone && !e.newc | none => false

/-- The master an FRC destination is to reference (R200). -/
def Entry.master (e : Entry) : BitVec 40 :=
  match e.opcode with | 0x01 | 0x03 => e.oid 5 | 0x04 => e.oid 1 | _ => 0

/-- The master that a command's FRC plates reference, where it is known at the start: the source itself for COMPRESS and
for a RECODE from a raw source (R200). -/
def State.masterFor (s : State) (e : Entry) : BitVec 40 :=
  match e.opcode with
  | 0x05 | 0x07 => (match s.recOf (e.oid 1) with | some a => if a.code = 0 then e.oid 1 else 0 | none => 0)
  | _ => e.master

/-- Whether the records a command names conflict (order 5; R310, R332, R443; log entry 20 for byte objects). -/
def State.mismatch (s : State) (e : Entry) : Bool :=
  let a := s.recOf (e.oid 1)
  let d := s.dstRec e
  (e.newc && match e.dst? with
    | some oid => !recValid e.record || (ObjRec.ofWords e.record).oid != oid ||
        (match s.recOf oid with | some o => o.words != e.record | none => false)
    | none => false) ||
  match e.opcode with
  | 0x01 =>
    let b := s.recOf (e.oid 2)
    let isByte (o : Option ObjRec) : Bool := match o with | some r => r.code == 3 | none => false
    isByte b || isByte d || (e.oid 1 != 0 && isByte a) ||
    (match (if e.oid 1 = 0 then none else a), b with
      | some x, some y => (asDelivered x (bitAt (e.word 1) 0)).2 != (asDelivered y (bitAt (e.word 2) 7)).2 ||
          (match d with | some o => o.prows != (asDelivered x (bitAt (e.word 1) 0)).1 | none => false)
      | _, _ => false) ||
    (match b, d with | some y, some o => o.pcols != (asDelivered y (bitAt (e.word 2) 7)).1 | _, _ => false)
  | 0x02 => (match a with | some o => o.code == 3 | none => false)
  | 0x03 => (match d with | some o => o.code == 3 | none => false)
  | 0x04 => (match a with | some o => o.code != 0 | none => false) || (match d with | some o => o.code != 1 | none => false) ||
      (bitAt (e.word 2) 15 && match s.recOf (e.oid 4) with | some o => o.code != 3 | none => false)
  | 0x05 | 0x07 => (match a, d with | some x, some y => (x.code == 3) != (y.code == 3) | _, _ => false)
  | 0x0C =>
    (match a, s.recOf (e.oid 3) with
      | some x, some y => x.code == 3 || y.code != 0 || y.fmt < 2 || !sameShape x y | _, _ => false) ||
    (match a, s.recOf (e.oid 4) with
      | some x, some y => e.oid 4 != 0 && (y.code != 0 || y.fmt != 3 || !sameShape x y) | _, _ => false)
  | 0x0D => (match d with | some o => o.code == 1 | none => false)
  | 0x12 => !bitAt (e.word 1) 49 && (match s.recOf (e.oid 2) with | some o => o.code != 3 | none => false)
  | _ => false

/-- Whether the destination's key slot is no memory slot (order 6, R180). -/
def State.keyBad (s : State) (e : Entry) : Bool :=
  match s.dstRec e with
  | some d => (match s.conf cmdIsl with | some c => c.keyUse d.key != 1 | none => true)
  | none => false

/-- Whether a master reference is refused (order 7, R201). -/
def State.masterBad (s : State) (e : Entry) : Bool :=
  match s.dstRec e with
  | some d => d.code == 1 && s.masterFor e != 0 &&
      (match s.recOf (s.masterFor e) with | some m => !m.isMasterOf d | none => true)
  | none => false

/-- The host range of a command: window, address, length (R93, R332). -/
def State.hostRange (s : State) (e : Entry) : Option (BitVec 4 × Nat × Nat) :=
  match e.opcode with
  | 0x0D => (s.dstRec e).map fun d => (bits 4 (e.word 2) 36, (e.word 3).toNat, e.count * hostSize d d.format)
  | 0x0E => (s.recOf (e.oid 1)).map fun a => (bits 4 (e.word 2) 36, (e.word 3).toNat, e.count * hostSize a (fmtOf (e.fld 2 35 34)))
  | 0x12 => if bitAt (e.word 1) 49 then some (bits 4 (e.word 1) 44, (e.word 2).toNat, 2048) else none
  | _ => none

/-- Whether the host range does not lie in its window (order 8). -/
def State.windowBad (s : State) (e : Entry) : Bool :=
  match s.hostRange e with | some r => !s.cmd.winAdmits r.1 r.2.1 r.2.2 | none => false

/-- The checks of R333 in their order: the status of the first that fails, or OK. -/
def State.startStatus (s : State) (e : Entry) : BitVec 8 :=
  firstBad [
    (e.malformed || s.rangeBad e, stBadDescriptor),
    (s.haltNamed e, stHalted),
    (s.archiveBad e, stNotCompute),
    (s.refusal e != 0, s.refusal e),
    (s.noObject e, stNoObject),
    (s.mismatch e, stMismatch),
    (s.keyBad e, stKeyInvalid),
    (s.masterBad e, stMasterInvalid),
    (s.windowBad e, stWindow)]

/-- The objects whose records must be asked for before the checks can be made. -/
def State.askFor (s : State) (e : Entry) : List (BitVec 40) :=
  if e.malformed || s.haltNamed e then [] else e.named.filter fun o => s.known o == .unknown

/-! STAGE pairs (R334). -/

/-- Whether an entry is the first stage of a pair. -/
def Entry.isStage (e : Entry) : Bool := e.opcode == opMatmul && e.dest == 2
/-- Whether an entry claims to be a second stage. -/
def Entry.isSecond (e : Entry) : Bool := e.opcode == opMatmul && e.oid 1 == 0

/-- Whether the entry after a first stage is its second stage (R334). -/
def State.pairOk (s : State) (a b : Entry) : Bool :=
  b.isSecond && !b.isStage && b.engine != 2 && b.slice == a.slice && b.row0 == a.row0 && b.rows == a.rows && a.col0 == 0 && a.oid 1 != 0 &&
  (match s.recOf (a.oid 2) with | some o => (asDelivered o (bitAt (a.word 2) 7)).1 == a.cols | none => true) &&
  (match s.recOf (b.oid 2) with | some o => (asDelivered o (bitAt (b.word 2) 7)).2 == a.cols | none => true)

/-- The status with which a pair starts (R333, R334): the second stage's output rows are those of the first's A. -/
def State.pairStatus (s : State) (a b : Entry) : BitVec 8 :=
  if !s.pairOk a b then stBadDescriptor
  else
    let sa := s.startStatus a
    let sb := s.startStatus b
    let rows := match s.recOf (a.oid 1), s.dstRec b with
      | some x, some d => d.prows != (asDelivered x (bitAt (a.word 1) 0)).1 | _, _ => false
    if sa = stBadDescriptor || sb = stBadDescriptor then stBadDescriptor
    else if sa != stOk then sa else if sb != stOk then sb else if rows then stMismatch else stOk

/-! Which command starts (R342, R343, R349, R350, R365). -/

/-- Commands of a queue started and not completed. -/
def CmdS.flying (c : CmdS) (q : Fin 64) : Nat := (c.runs.filter fun r => r.q == q && !r.done).length

/-- Whether a command of the block is still running. -/
def CmdS.running (c : CmdS) (id : Nat) : Bool := c.runs.any fun r => r.id == id && !r.done

/-- Whether an entry may start as the order of its queue goes. -/
def CmdS.inOrder (c : CmdS) (q : Fin 64) (e : Entry) : Bool :=
  if e.opcode = opFence then
    c.flying q == 0 && (e.fld 1 0 0 == 0 || e.after.all fun i => !c.running i)
  else if e.opcode = opSignal then c.flying q == 0
  else true

/-- Whether queue q's next accepted entry may start. -/
def State.mayStart (s : State) (q : Fin 64) : Bool :=
  let c := s.cq q
  s.cmdActive && c.en && c.halted == 0 && (!c.host || c.armed) && c.wait.isNone && s.cmd.flying q < 16 &&
  (s.cmd.runs.filter fun r => !r.done).length < 512 && !(s.cmd.held.any fun h => h.cq == s.cqFor q) &&
  match c.accepted with
  | [] => false
  | e :: r => s.cmd.inOrder q e && (!e.isStage || !r.isEmpty)

/-- The queue that CMD serves next: the first after the last one served (R342). -/
def State.nextQ (s : State) : Option (Fin 64) :=
  ((List.range 64).map fun i => (Fin.ofNat 64 (s.cmd.lastQ + 1 + i) : Fin 64)).find? s.mayStart

/-- The entry that queue q starts with this opcode, when it is q's turn. -/
def State.entryOf (s : State) (q : Fin 64) (op : Nat) : Option Entry :=
  if s.nextQ = some q then
    match (s.cq q).accepted with
    | e :: _ => if e.opcode = op || (op = opNop && 0x14 < e.opcode) then some e else none
    | [] => none
  else none

/-- Records asked for: an OBJ_REQ for a master, a LOOKUP for each other object (R201, R420); the queue waits, and CMD goes
on to the next. -/
def State.askRecords (s : State) (q : Fin 64) (l masters : List (BitVec 40)) : State :=
  let s1 : State := { s with cmd := { s.cmd with lastQ := q.val } }
  l.foldl (fun s o => if masters.contains o then s.queryRecord o else (s.lookup o 0).2) s1

/-- The command that an entry makes: its destination, bound, master and slot. -/
def State.newRun (s : State) (q : Fin 64) (e : Entry) (second : Option Entry) (st : BitVec 8) : CmdRun :=
  let d := match second with | some b => b | none => e
  let dst := s.dstRec d
  { id := s.nextId, q := q, entry := e, second := second, slice := e.slice
    src := s.recOf (e.oid 1), dst := dst, bound := d.bound
    master := if dst.map (·.code) = some 1 then s.masterFor d else 0
    masterOfSrc := (d.opcode == opRecode || d.opcode == opCopy) && (match s.recOf (d.oid 1) with | some a => a.code == 1 | none => false)
    encSlot := d.slot
    newRec := match d.dst? with | some oid => if d.newc && (s.recOf oid).isNone then some d.record else none | none => none
    cblock := if d.opcode = opCopy then bits 12 (d.word 2) 27 else s.block
    status := st, stopped := st != stOk }

/-- A command starts: its entries leave the queue, and refusals it has taken note of are forgotten. -/
def State.startRun (s : State) (q : Fin 64) (r : CmdRun) : State :=
  let n := match r.second with | some _ => 2 | none => 1
  let names := r.entry.named ++ (match r.second with | some b => b.named | none => [])
  let s1 := s.onCq q fun c => { c with accepted := c.accepted.drop n }
  { s1 with
    nextId := s.nextId + 1
    cmd := { s1.cmd with lastQ := q.val, runs := s1.cmd.runs ++ [r] }
    eph := { s1.eph with
      refused := s1.eph.refused.filter fun e => !names.contains e.1
      queried := s1.eph.queried.filter fun w => !names.contains (ObjRec.ofWords w).oid } }

/-- The start of a command of an opcode on queue q (R333, R341, R342): records that the checks need are asked for; else the
command starts, with the status of the first check that fails, or with its effect. -/
def State.startCmd (s : State) (q : Fin 64) (op : Nat) (launch : CmdRun → State → State) : State :=
  match s.entryOf q op with
  | none => s
  | some e =>
    let second : Option Entry := if e.isStage then ((s.cq q).accepted.drop 1).head? else none
    let asks := s.askFor e ++ (match second with | some b => if b.isSecond then s.askFor b else [] | none => [])
    if !asks.isEmpty then s.askRecords q asks
        (e.master :: match second with | some b => [b.master] | none => [])
    else
      let st := match second with
        | some b => s.pairStatus e b
        | none => if e.isSecond then stBadDescriptor else s.startStatus e
      let r := s.newRun q e second st
      let s1 := s.startRun q r
      if st = stOk then launch r s1 else s1

end Sys2Proof.Machine
end

