-- ==== Sys2Proof/Machine/Opcodes.lean ====
section
/-! DEFINITION. What each opcode does when its command starts (R331, R333, R346-R353, R436, R443). -/

namespace Sys2Proof.Machine

/-! Shared pieces. -/

/-- The pairs of a range: source plate FIRST + j with destination plate DFIRST + j. -/
def rangePairs (first dfirst count : Nat) : List PairIdx := (List.range count).map fun j => { src := first + j, dst := dfirst + j }

/-- A command notes the plates it writes (R257). -/
def State.setDests (s : State) (r : CmdRun) (o : ObjRec) (ks : List Nat) : State :=
  s.onRun r.id fun r => { r with dests := ks.map fun k => (o.oid, k) }

/-- Whether CMD can have a slice's datapath do work (R346, R451, R474): a quiesced slice takes it later. -/
def State.takesWork (s : State) (p : SliceNo) : Bool := s.sliceIn p && s.meets cmdIsl (psIsl p)

/-- Whether CMD can reach a slice (R474). -/
def State.inReach (s : State) (p : SliceNo) : Bool := s.meets cmdIsl (psIsl p)

/-- The slice a command with SLICE runs on (R346, R466): the slice named; in Consistent mode its twin where that serves
the slice's port end; none where no unit can run it. -/
def State.runSlice (s : State) (p : SliceNo) : Option SliceNo :=
  if s.takesWork p then some p
  else if s.consistent && (s.slice (twinOf p)).pair.serving && s.takesWork (twinOf p) then some (twinOf p)
  else none

/-- Runs a command on the slice it names, or ends it UNREACHABLE (R346, R463). -/
def State.onItsSlice (s : State) (r : CmdRun) (f : SliceNo → State → State) : State :=
  match s.runSlice r.entry.slice with
  | some p => f p (s.onRun r.id fun r => { r with slice := p })
  | none => s.failRun (some r.id) stUnreachable

/-- A command waits for a unit. -/
def State.waits (s : State) (r : CmdRun) : State := s.onRun r.id fun r => { r with waiting := true }

/-- The plates of a source range with their use, in order. -/
def items (first count : Nat) (use : Nat → Use) : List (Nat × Use) := (List.range count).map fun j => (first + j, use j)

/-! Launching. -/

/-- EXPORT (R68, R331). -/
def launchExport (r : CmdRun) (s : State) : State :=
  let e := r.entry
  match r.src with
  | none => s
  | some o => s.onItsSlice r fun p s =>
      s.openStream p r.id o (items (e.plate 1) e.count Use.leave) (some (fmtOf (e.fld 2 31 30))) (bitAt (e.word 2) 29)

/-- IMPORT (R71, R331). -/
def launchImport (r : CmdRun) (s : State) : State :=
  let e := r.entry
  match r.dst with
  | none => s
  | some o => s.onItsSlice r fun p s =>
      (s.setDests r o ((List.range e.count).map fun j => e.plate 1 + j)).onSlice p fun x =>
        { x with xp := { x.xp with waiting := x.xp.waiting ++ [(r.id, bits 8 (e.word 2) 32, fmtOf (e.fld 2 31 30), e.count)] } }

/-- The slot that a COMPRESS names (R215). -/
def Entry.namedSlot (e : Entry) : Option (Fin 64) :=
  if bitAt (e.word 2) 39 then some (Fin.ofNat 64 (e.fld 2 37 32)) else none

/-- COMPRESS (R215, R222, R223, R331): each slice that will encode plates is to count its share of the source; a COMPRESS that names its
slot takes it in its turn among the slot's commands, and one that names none as its first pass begins. -/
def launchCompress (r : CmdRun) (s : State) : State :=
  let e := r.entry
  match r.src, r.dst with
  | some _, some d =>
    let ps := rangePairs (e.plate 1) (e.plate 1) e.count
    let sl := s.encSlices d ps
    if (s.isl spgIsl).state == .shut || !sl.all s.sliceIn then s.failRun (some r.id) stTableAborted
    else if !(s.meets cmdIsl spgIsl && sl.all s.inReach) then s.failRun (some r.id) stUnreachable
    else
      let named := e.namedSlot
      let s1 := (s.setDests r d (ps.map (·.dst))).onRun r.id fun r =>
        { r with work := ps, waiting := true, encSlot := named.getD 0 }
      let s2 : State := { s1 with spg := { s1.spg with
        builds := s1.spg.builds ++ [{ run := r.id, slot := named, unsent := sl, waiting := sl }] } }
      let s3 := sl.foldl (fun t p =>
        let ks := (t.pairsOf d ps p).map (·.src)
        t.onSlice p fun x => { x with hist := { x.hist with queue := x.hist.queue ++ [(r.id, ks)] } }) s2
      match named with
      | some n => s3.slotCommand n { run := r.id, act := .compress (bits 8 (e.word 2) 24) }
      | none => s3.histAll
  | _, _ => s

/-- RECODE, and COPY between codes (R331). -/
def launchRecode (r : CmdRun) (s : State) : State :=
  let e := r.entry
  match r.src, r.dst with
  | some a, some d =>
    let ps := rangePairs (e.plate 1) (e.plate 3) e.count
    let s1 := s.setDests r d (ps.map (·.dst))
    if !(s.encSlices d ps).all s.takesWork then s.failRun (some r.id) stUnreachable
    else s1.openPerSlice r.id a d ps (fun q => .store (BitVec.ofNat 24 q.dst)) none
  | _, _ => s

/-- COPY (R264, R268, R331): stored forms are copied where the records agree in CODE, FMT and RATE. -/
def launchCopy (r : CmdRun) (s : State) : State :=
  let e := r.entry
  match r.src, r.dst with
  | some a, some d =>
    if !sameForm a d then launchRecode r s
    else
      let ps := rangePairs (e.plate 1) (e.plate 3) e.count
      if !(s.encSlices d ps).all s.inReach then s.failRun (some r.id) stUnreachable
      else (s.setDests r d (ps.map (·.dst))).openPerSlice r.id a d ps (fun q => .copy (BitVec.ofNat 24 q.dst)) none
  | _, _ => s

/-- MOVE, PREFETCH, EVICT, PIN and UNPIN (R436): the descriptor goes to the manager of the object's domain. -/
def launchResidency (r : CmdRun) (s : State) : State :=
  let e := r.entry
  match s.managerOf (domainOf (e.oid 1)) with
  | none => s.failRun (some r.id) stUnreachable
  | some m => (s.waits r).request {
      unit := unitCmd, tid := 0, ptype := ptCmdx, dest := m, dunit := unitEph, oid := e.oid 1
      idx := BitVec.ofNat 24 (e.fld 1 17 0), rest := (List.range 7).map fun i => e.word (i + 1), why := .cmdx r.id }

/-- REDUCE (R443-R445). -/
def launchReduce (r : CmdRun) (s : State) : State :=
  let e := r.entry
  match r.src, s.recOf (e.oid 3) with
  | some a, some d =>
    s.onItsSlice r fun p s =>
      let s1 := s.onRun r.id fun r => { r with dst := some d, work := rangePairs 0 0 e.count }
      let s2 := s1.openStream p r.id a (items (e.plate 1) e.count Use.reduce) (some .f32) false
      match s.recOf (e.oid 4) with
      | some o => s2.openStream p r.id o (items (e.plate 1) e.count Use.residual) (some .f32) false
      | none => s2
  | _, _ => s

/-- HOST_READ (R352, R353). -/
def launchHostRead (r : CmdRun) (s : State) : State :=
  let e := r.entry
  match r.dst with
  | none => s
  | some d =>
    let n := e.count * hostSize d d.format
    if !(s.encSlices d (rangePairs 0 (e.plate 1) e.count)).all s.inReach then s.failRun (some r.id) stUnreachable else
    let s1 := (s.setDests r d ((List.range e.count).map fun j => e.plate 1 + j)).onRun r.id fun r =>
      { r with work := rangePairs 0 (e.plate 1) e.count }
    (hostPieces (n / 4096 + 2) (e.word 3).toNat n).foldl (fun s q => s.hostAccess {
      why := .hostRead r.id (q.1 - (e.word 3).toNat), wr := false, win := bits 4 (e.word 2) 36, addr := q.1, len := q.2
      queue := some (r.q, e.epoch) }) s1

/-- HOST_WRITE (R352, R353): the source plates are expanded through the Eyepiece of SLICE; on an archive node their stored
lines are sent. -/
def launchHostWrite (r : CmdRun) (s : State) : State :=
  let e := r.entry
  let archive := match s.conf cmdIsl with | some c => c.archive | none => false
  match r.src with
  | none => s
  | some o =>
    let s1 := s.onRun r.id fun r => { r with work := rangePairs 0 0 e.count }
    if archive && !s.inReach e.slice then s1.failRun (some r.id) stUnreachable
    else if archive then s1.openStream e.slice r.id o (items (e.plate 1) e.count Use.lines) none false
    else s1.onItsSlice r fun p s => s.openStream p r.id o (items (e.plate 1) e.count Use.hostWrite)
      (if o.code = 3 then none else some (fmtOf (e.fld 2 35 34))) (bitAt (e.word 2) 33)

/-- A signal counter changed (R350). -/
def CmdS.signal (c : CmdS) (set : Bool) (n : BitVec 8) (v : BitVec 32) : CmdS :=
  let i : Fin 256 := Fin.ofNat 256 n.toNat
  { c with sig := c.sig.set i (if set then v else c.sig[i] + v) }

/-- SIGNAL (R350). -/
def launchSignal (r : CmdRun) (s : State) : State :=
  let w := r.entry.word 1
  let b := bits 12 w 52
  if !bitAt w 51 || b = s.block then s.onCmd fun c => c.signal (bitAt w 50) (bits 8 w 32) (bits 32 w 0)
  else if !rtValid (s.routeOf (peerQuad b) b) then
    (s.failRun (some r.id) stUnreachable).bump (xqIsl (peerQuad b)) xqNoroute
  else (s.waits r).request {
    unit := unitCmd, tid := 0, ptype := ptSig, dest := b, dunit := unitCmd
    rest := [packW [flag (bitAt w 50) 50, put (fld w 39 32) 32, put (fld w 31 0) 0]], why := .signal r.id }

/-- WAIT (R351). -/
def launchWait (r : CmdRun) (s : State) : State :=
  let w := r.entry.word 1
  let i := fld w 39 32
  if waitMet s.cmd.sig[Fin.ofNat 256 i] (bits 32 w 0) then s
  else (s.waits r).onCq r.q fun c => { c with wait := some (r.id, i, bits 32 w 0) }

/-- TABLE_LOAD (R214, R216): the slot command is delivered at once, and its image is asked for. -/
def launchTableLoad (r : CmdRun) (s : State) : State :=
  let e := r.entry
  if (s.isl spgIsl).state == .shut then s.failRun (some r.id) stTableAborted
  else if !s.meets cmdIsl spgIsl then s.failRun (some r.id) stUnreachable
  else
    let s1 := (s.waits r).slotCommand (Fin.ofNat 64 (e.fld 1 63 58)) { run := r.id, act := .load (bits 8 (e.word 1) 50) none }
    if bitAt (e.word 1) 49 then
      (hostPieces 4 (e.word 2).toNat 2048).foldl (fun s q => s.hostAccess {
        why := .image r.id (q.1 - (e.word 2).toNat), wr := false, win := bits 4 (e.word 1) 44, addr := q.1, len := q.2
        queue := some (r.q, e.epoch) }) s1
    else match s.recOf (e.oid 2) with
      | none => s1
      | some o => s1.openStream (s.encSlice o (e.plate 2)) r.id o [(e.plate 2, .image)] none false

/-- TABLE_RETIRE (R214). -/
def launchTableRetire (r : CmdRun) (s : State) : State :=
  if (s.isl spgIsl).state == .shut then s.failRun (some r.id) stTableAborted
  else if !s.meets cmdIsl spgIsl then s.failRun (some r.id) stUnreachable
  else (s.waits r).slotCommand (Fin.ofNat 64 (r.entry.fld 1 63 58)) { run := r.id, act := .retire }

/-- The lines of the frames that spans of an object hold on this block, by port (R291, R460). -/
def State.frameRanges (s : State) (o : ObjRec) (s0 n : Nat) : List (SliceNo × Nat × Nat) :=
  (List.range n).flatMap fun i => match s.eph.serves o.oid (s0 + i) with
    | .at p base e =>
      if s.isJoint p then [((s.portLine p 0).1, base / 2, 8 * e.extents), ((s.portLine p 1).1, base / 2, 8 * e.extents)]
      else [(p, base, 16 * e.extents)]
    | _ => []

/-- SCRUB (R460). -/
def launchScrub (r : CmdRun) (s : State) : State :=
  let e := r.entry
  if !(s.isl svyIsl).live || (s.isl svyIsl).state == .shut || !s.meets cmdIsl svyIsl then s.failRun (some r.id) stUnreachable
  else
    let l := match r.src with
      | some o => if e.count = 0 then s.frameRanges o 0 (spanCount o) else s.frameRanges o (e.fld 1 17 0) e.count
      | none => [(e.slice, e.fld 3 63 32, e.fld 3 31 0)]
    { s with svy := { s.svy with scrubs := s.svy.scrubs ++ [{ run := some r.id, lines := l.filter fun x => x.2.2 != 0 }] } }

/-! PLATE_MATMUL. -/

/-- Whether a slice's pair may be joined (R123, R289). -/
def State.pairCapable (s : State) (p : SliceNo) : Bool := match s.conf (psIsl p) with | some c => c.capable (p.val / 2) | none => false

/-- Whether the join flag is declined (R292). -/
def State.joinDeclined (s : State) (p : SliceNo) : Bool :=
  !s.pairCapable p || !s.sliceWorks p || !s.sliceWorks (twinOf p) || (s.slice p).pair.serving || (s.slice (twinOf p)).pair.serving

/-- The slice whose engines run a command given to a slice: that of a statically joined pair is PS2k (R289, R295). -/
def State.engineSlice (s : State) (p : SliceNo) : SliceNo :=
  if s.isJoint p && s.sliceIn (twinOf p) then Fin.ofNat 32 (p.val / 2 * 2) else p

/-- One stage of a PLATE_MATMUL as a slice takes it (R278, R285, R317, R323). -/
def State.matJob (s : State) (p : SliceNo) (r : CmdRun) (e : Entry) (a b : ObjRec) (out : Option ObjRec) (join : Bool) : MatJob :=
  let bd := asDelivered b (bitAt (e.word 2) 7)
  { run := r.id, a := a, b := b, cfmt := fmtOf (e.fld 1 7 6), xposeA := bitAt (e.word 1) 0, xposeB := bitAt (e.word 2) 7
    row0 := e.row0, rows := e.rows, col0 := e.col0, cols := e.cols, kps := bd.2, dest := e.dest
    np := match out with | some o => o.pcols | none => bd.1
    expFmt := fmtOf (e.fld 2 3 2), expStream := bits 8 (e.word 3) 0
    engine := if r.second.isSome then 1 else e.engine
    spill := (s.recOf (e.oid 4)).getD default, spillPlates := e.spillPlates, join := join }

/-- Bytes of a plate of a compute format in the plate buffer (R280). -/
def bufBytes (f : Fmt) : Nat := denseSize f + if hasScale f then 512 else 0

/-- Whether the staged row block of a pair would not fit its half of the plate buffer (R285). -/
def stageTooLarge (e : Entry) (j2 : Option MatJob) : Bool :=
  match j2 with
  | some j => decide (128 < cdiv (e.cols * bufBytes j.cfmt) 65536)
  | none => false

/-- The destination plates of a PLATE_MATMUL, whose last stage is `last`, are noted where it stores them. -/
def State.matDests (s : State) (r : CmdRun) (last : Entry) : State :=
  match r.dst with
  | some o =>
    if last.dest = 0 then s.setDests r o ((List.range last.rows).flatMap fun i =>
      (List.range last.cols).map fun n => (last.row0 + i) * o.pcols + last.col0 + n) else s
  | none => s

/-- A PLATE_MATMUL joins the queue of the engines of slice p (R278, R289, R292). -/
def State.matQueue (s : State) (r : CmdRun) (p : SliceNo) (j1 : MatJob) (j2 : Option MatJob) (declined : Bool) : State :=
  let s1 := if declined then (s.onRun r.id fun r => { r with joinDeclined := true }).bump (psIsl p) psPairDeclined else s
  (s1.onRun r.id fun r => { r with slice := p }).onSlice p fun x =>
    { x with dpe := { x.dpe with queue := x.dpe.queue ++ [(j1, j2)] } }

/-- The second stage of a STAGE pair, where its operand's record is known (R334). -/
def State.matSecond (s : State) (p : SliceNo) (r : CmdRun) (a : ObjRec) (join : Bool) : Option MatJob :=
  match r.second with
  | some x => (match s.recOf (x.oid 2) with
    | some b2 => some (s.matJob p r x a b2 (if x.dest = 0 then r.dst else none) join)
    | none => none)
  | none => none

/-- PLATE_MATMUL on the slice that runs it. -/
def State.matStart (s : State) (r : CmdRun) (a b : ObjRec) (p : SliceNo) : State :=
  let e := r.entry
  let wants := bitAt (e.word 1) 1 && !s.isJoint p
  let join := wants && !s.joinDeclined p
  let j2 := s.matSecond p r a join
  if stageTooLarge e j2 then s.failRun (some r.id) stStageTooLarge
  else (s.matDests r (r.second.getD e)).matQueue r p (s.matJob p r e a b (if e.dest = 0 then r.dst else none) join) j2 (wants && !join)

/-- PLATE_MATMUL (R278, R285, R289, R292, R334). -/
def launchMatmul (r : CmdRun) (s : State) : State :=
  match r.src, s.recOf (r.entry.oid 2) with
  | some a, some b => s.onItsSlice r fun p s => s.matStart r a b (s.engineSlice p)
  | _, _ => s

/-- What a command of an opcode does when it starts, or starts again (R331, R466). -/
def launch (op : Nat) (r : CmdRun) (s : State) : State :=
  match op with
  | 0x01 => launchMatmul r s
  | 0x02 => launchExport r s
  | 0x03 => launchImport r s
  | 0x04 => launchCompress r s
  | 0x05 => launchRecode r s
  | 0x07 => launchCopy r s
  | 0x06 | 0x08 | 0x09 | 0x0A | 0x0B => launchResidency r s
  | 0x0C => launchReduce r s
  | 0x0D => launchHostRead r s
  | 0x0E => launchHostWrite r s
  | 0x0F => launchSignal r s
  | 0x10 => launchWait r s
  | 0x12 => launchTableLoad r s
  | 0x13 => launchTableRetire r s
  | 0x14 => launchScrub r s
  | _ => s

/-! The commands. -/

/-- NOP (R331), and the start of an entry whose OPCODE is not defined (R341). -/
def execNop (q : Fin 64) (s : State) : Outcome := .next (s.startCmd q opNop fun _ t => t)
/-- PLATE_MATMUL (R278, R331, R334). -/
def execPlateMatmul (q : Fin 64) (s : State) : Outcome := .next (s.startCmd q opMatmul launchMatmul)
/-- EXPORT. -/
def execExportCmd (q : Fin 64) (s : State) : Outcome := .next (s.startCmd q opExport launchExport)
/-- IMPORT. -/
def execImportCmd (q : Fin 64) (s : State) : Outcome := .next (s.startCmd q opImport launchImport)
/-- COMPRESS. -/
def execCompress (q : Fin 64) (s : State) : Outcome := .next (s.startCmd q opCompress launchCompress)
/-- RECODE. -/
def execRecode (q : Fin 64) (s : State) : Outcome := .next (s.startCmd q opRecode launchRecode)
/-- MOVE. -/
def execMove (q : Fin 64) (s : State) : Outcome := .next (s.startCmd q opMove launchResidency)
/-- COPY. -/
def execCopy (q : Fin 64) (s : State) : Outcome := .next (s.startCmd q opCopy launchCopy)
/-- PREFETCH. -/
def execPrefetch (q : Fin 64) (s : State) : Outcome := .next (s.startCmd q opPrefetch launchResidency)
/-- EVICT. -/
def execEvict (q : Fin 64) (s : State) : Outcome := .next (s.startCmd q opEvict launchResidency)
/-- PIN. -/
def execPin (q : Fin 64) (s : State) : Outcome := .next (s.startCmd q opPin launchResidency)
/-- UNPIN. -/
def execUnpin (q : Fin 64) (s : State) : Outcome := .next (s.startCmd q opUnpin launchResidency)
/-- REDUCE. -/
def execReduce (q : Fin 64) (s : State) : Outcome := .next (s.startCmd q opReduce launchReduce)
/-- HOST_READ. -/
def execHostRead (q : Fin 64) (s : State) : Outcome := .next (s.startCmd q opHostRead launchHostRead)
/-- HOST_WRITE. -/
def execHostWrite (q : Fin 64) (s : State) : Outcome := .next (s.startCmd q opHostWrite launchHostWrite)
/-- SIGNAL. -/
def execSignal (q : Fin 64) (s : State) : Outcome := .next (s.startCmd q opSignal launchSignal)
/-- WAIT. -/
def execWait (q : Fin 64) (s : State) : Outcome := .next (s.startCmd q opWait launchWait)
/-- FENCE (R349): it starts once every command it waits for has completed, and completes at once. -/
def execFence (q : Fin 64) (s : State) : Outcome := .next (s.startCmd q opFence fun _ t => t)
/-- TABLE_LOAD. -/
def execTableLoad (q : Fin 64) (s : State) : Outcome := .next (s.startCmd q opTableLoad launchTableLoad)
/-- TABLE_RETIRE. -/
def execTableRetire (q : Fin 64) (s : State) : Outcome := .next (s.startCmd q opTableRetire launchTableRetire)
/-- SCRUB. -/
def execScrub (q : Fin 64) (s : State) : Outcome := .next (s.startCmd q opScrub launchScrub)

end Sys2Proof.Machine
end

