-- ==== Sys2Proof/Machine/Complete.lean ====
section
/-! DEFINITION. The end of a command: when it is complete (R345, R349), its retries (R466), its records (R358-R368). -/

namespace Sys2Proof.Machine

/-- Commands that R466 runs again where their output would carry poison from a word of this block. -/
def CmdRun.mayTaint (r : CmdRun) : Bool :=
  let op := r.entry.opcode
  op == opMatmul || op == opCompress || op == opRecode || op == opCopy

/-- Commands that an uncorrectable word of this block reaches take note of it (R466). -/
def State.noteTaint (s : State) (ids : List Nat) : State :=
  s.onCmd fun c => { c with runs := mapIf (fun r => ids.contains r.id && r.mayTaint) (fun r => { r with sram := true }) c.runs }

/-! What a command that has failed leaves undone (R356, R465). -/

/-- The Eyepiece without the streams of a command: their contexts, lanes and plates are released (R230). -/
def Eye.dropRun (e : Eye) (id : Nat) : Eye :=
  let gone := (e.streams.filter fun t => t.run == id).flatMap fun t => t.asked.map (·.id)
  let live := e.streams.filter fun t => t.run != id
  { e with
    streams := live
    ctxs := e.ctxs.map fun c => c.bind fun i => if live.any (fun t => t.id == i) then some i else none
    arrived := e.arrived.filter fun a => !gone.contains a.id
    flight := e.flight.filter fun f => f.run != id
    lanes := e.lanes.map fun l => l.bind fun k => if gone.contains k.1 then none else some k
    outs := e.outs.filter fun d => d.run != id }

/-- The store path without the plates of a command that it has not taken. -/
def StoreP.dropRun (t : StoreP) (id : Nat) : StoreP :=
  { t with queue := t.queue.filter (fun e => e.run != some id), imports := t.imports.filter (fun e => e.run != some id) }

/-- The export and import port without what a command has waiting or open there; a plate begun, or shown on the port, goes on (R44, R68). -/
def Xp.dropRun (x : Xp) (id : Nat) : Xp :=
  { x with
    waiting := x.waiting.filter (fun w => w.1 != id)
    buf := x.buf.filter (fun b => b.run != id)
    streams := x.streams.filter (fun w => w.run != id)
    tx := x.tx.filter fun t => t.run != id || t.beat != 0 || t.shown }

/-- The Dense Plate Engine without a command: its running block is dropped, its place in the queue given up. -/
def Dpe.dropRun (d : Dpe) (id : Nat) : Dpe :=
  let q := d.queue.filter fun j => j.1.run != id
  match d.job with
  | some j => if j.run = id then { masked := d.masked, queue := q } else { d with queue := q }
  | none => { d with queue := q }

/-- Whether the engines of a slice run a command. -/
def Dpe.runs (d : Dpe) (id : Nat) : Bool := match d.job with | some j => j.run == id | none => false

/-- A slice without what it still holds of a command that will not go on. -/
def Slice.dropRun (x : Slice) (id : Nat) : Slice :=
  let d := x.dpe.dropRun id
  { x with
    eye := x.eye.dropRun id, store := x.store.dropRun id, xp := x.xp.dropRun id, dpe := d
    sme := if x.dpe.runs id then { masked := x.sme.masked, exhaustSeen := x.sme.exhaustSeen } else x.sme
    pair := { x.pair with joinWait := x.pair.joinWait && match d.queue with | j :: _ => j.1.join && j.1.run == ((x.dpe.queue.map (·.1.run)).headD 0) | [] => false }
    home := { x.home with inq := x.home.inq.filter fun w => w.run != some id }
    hist := { x.hist with queue := x.hist.queue.filter fun h => h.1 != id, run := if x.hist.run = some id then none else x.hist.run } }

/-- The slots that admitted plates of a command in a slice count against, and those of encoded plates that wait there (R212). -/
def Slice.slotsRead (x : Slice) (p : SliceNo) (id : Nat) : List (SliceNo × Nat) :=
  (x.eye.flight.filter fun f => f.run == id && !f.parked).map fun f => (p, f.hdr.slot)
def Slice.slotsEncoded (x : Slice) (id : Nat) : List (SliceNo × Fin 64) :=
  (x.home.inq.filter fun w => w.run == some id).filterMap (·.slot)

/-- A commit that a failed command leaves unswung is freed; the old frame stays in force (R465). -/
def State.freeCommit (s : State) (p : SliceNo) (m : Commit) : State :=
  ((s.leavePlates m).onSlice p fun x => { x with
    store := { x.store with commits := x.store.commits.filter fun c => c.id != m.id }
    home := { x.home with reads := x.home.reads.filter fun j => j.dest != .commit m.id } }).release m.target (m.base / 16) m.extents

/-- The commits of a command that can be freed: every write of theirs has been answered. -/
def State.freeCommits (s : State) (id : Nat) : State :=
  (List.finRange 32).foldl (fun s p =>
    ((s.slice p).store.commits.filter fun m => m.run == some id && m.left == 0 && m.st != .inPlace).foldl
      (fun s m => s.freeCommit p m) s) s

/-- The slot command of a COMPRESS that will not go on ends (R214, R223). -/
def State.dropSlotCmd (s : State) (id : Nat) (st : BitVec 8) : State :=
  (List.finRange 64).foldl (fun s n => s.slotQuit n id st) s

/-- What a failed command has not handed on is dropped, and what it holds is released (R356, R465). -/
def State.purge (s : State) (id : Nat) (st : BitVec 8) : State :=
  let read := (List.finRange 32).flatMap fun p => (s.slice p).slotsRead p id
  let encoded := (List.finRange 32).flatMap fun p => (s.slice p).slotsEncoded id
  let s0 := (List.finRange 32).foldl (fun (s : State) p => s.showTx p) s
  let s1 : State := { s0 with slices := s0.slices.map fun x => x.dropRun id }
  let s2 := encoded.foldl (fun s e => s.releaseSlot (some e)) (read.foldl (fun s e => s.leaveSlot e.1 e.2) s1)
  let s3 : State := { s2 with
    spg := { s2.spg with builds := s2.spg.builds.filter (fun b => b.run != id), closed := s2.spg.closed.filter (· != id) }
    svy := { s2.svy with scrubs := s2.svy.scrubs.filter fun j => j.run != some id } }
  let s4 := s3.dropSlotCmd id st
  let s5 := if s.consistent then s4.freeCommits id else s4
  s5.histAll.onCmd fun c => { c with
    nwWaiting := c.nwWaiting.filter fun a => (match a.why with | .record _ => true | _ => a.run? != some id)
    landing := c.landing.filter fun l => l.1 != id }

/-! When a command is complete (R345). -/

/-- Whether a slice still has work of a command. -/
def Slice.holds (x : Slice) (id : Nat) : Bool :=
  x.eye.streams.any (fun t => t.run == id) || x.eye.flight.any (fun f => f.run == id) || x.eye.outs.any (fun d => d.run == id) ||
  x.store.queue.any (fun e => e.run == some id) || x.store.imports.any (fun e => e.run == some id) ||
  x.store.commits.any (fun m => m.run == some id) || x.home.inq.any (fun w => w.run == some id) ||
  x.home.writes.any (fun j => j.run == some id) || x.xp.tx.any (fun t => t.run == id) ||
  x.xp.waiting.any (fun t => t.1 == id) || x.xp.streams.any (fun t => t.run == id) ||
  x.hist.run == some id || x.hist.queue.any (fun h => h.1 == id) || x.dpe.runs id || x.dpe.queue.any fun j => j.1.run == id

/-- Whether a request to another unit is made for a command. -/
def ReqWhy.run? : ReqWhy → Option Nat
  | .write r _ _ => r
  | .register r _ | .object r | .cmdx r | .signal r | .reduce r => some r
  | _ => none

/-- Whether a command still has work somewhere. -/
def State.busy (s : State) (r : CmdRun) : Bool :=
  (List.finRange 32).any (fun p => (s.slice p).holds r.id) || s.reqs.any (fun q => q.why.run? == some r.id) ||
  s.cmd.nwWaiting.any (fun a => a.run? == some r.id) || (s.cmd.nwTags ++ s.cmd.nwAhead).any (fun t => !t.timedOut && t.acc.run? == some r.id) ||
  s.spg.builds.any (fun b => b.run == r.id) || s.svy.scrubs.any (fun j => j.run == some r.id) ||
  (!r.stopped && (r.waiting || !r.work.isEmpty))

/-! Retries (R466). -/

/-- Whether the queue of a command is still armed under its entry's epoch; a local queue always is. -/
def State.stillArmed (s : State) (r : CmdRun) : Bool :=
  let c := s.cq r.q
  !c.host || (c.armed && c.epoch == r.entry.epoch)

/-- Whether some unit can run the command again. -/
def State.canRun (s : State) (r : CmdRun) : Bool :=
  if r.entry.opcode = opMatmul || r.entry.opcode = opHostWrite then (s.runSlice r.entry.slice).isSome else true

/-- Whether a command that is about to complete is run again (R466). -/
def State.retries (s : State) (r : CmdRun) : Bool :=
  let op := r.entry.opcode
  let out := op == opReduce || op == opSignal || op == opExport || op == opImport || op == opHostRead || op == opMove ||
    op == opPrefetch || op == opEvict || op == opPin || op == opUnpin || op == opWait || op == opFence
  s.consistent && r.tries < 3 && !out && s.canRun r &&
    (r.status == stStoreLost || r.status == stUnreachable ||
      (r.status == stHostLost && op == opHostWrite && s.stillArmed r))

/-- The command as it starts again. -/
def CmdRun.again (r : CmdRun) : CmdRun :=
  { r with
    slice := r.entry.slice, status := 0, plates := 0, dropped := 0, redispatch := 0, poisoned := false, trimmed := false
    approx := false, bfailRow := false, bfailCol := false, joinDeclined := false, spilled := false, tries := r.tries + 1
    stopped := false, stored := [], work := [], second2 := false, waiting := false, dests := [], hostWrFail := false, sram := false }

/-! Records (R359-R368). -/

/-- Where the host completion record of a command stands as the command becomes complete (R366, R368). -/
def State.hostRecordOf (s : State) (r : CmdRun) : HostRec :=
  let c := s.cq r.q
  if !(c.host && c.hcqEn && r.entries.any Entry.hcq) then .notDue
  else if r.status = stHostLost || r.hostWrFail || !s.cmd.pathUp || !c.armed || c.epoch != r.entry.epoch then .lost
  else .due

/-- Writes the local record of one entry of a command, unless QUIET says none is needed (R359, R363). -/
def State.localRecord (s : State) (r : CmdRun) (e : Entry) : State :=
  let lost := r.hrec == .lost && e.hcq
  if e.quiet && r.status = stOk && !r.anyFlag lost then s
  else
    let s1 := s.postRecord r.q (recordWords r.q e.seq e.phase e.epoch e.opcode r lost (s.now cmdIsl))
    if lost then s1.bump cmdIsl cmdHcqLost else s1

/-- The record or records of a command are formed, and the command is gone (R334, R360, R364). -/
def State.retire (s : State) (r : CmdRun) : State :=
  let s1 := s.localRecord r r.entry
  let s2 := match r.second with | some e => s1.localRecord r e | none => s1
  let s3 := s2.onCmd fun c => { c with runs := c.runs.filter fun x => x.id != r.id, landing := c.landing.filter fun l => l.1 != r.id }
  let s4 := s3.bump cmdIsl cmdCompleted (if r.second.isSome then 2 else 1)
  if r.status = stHostLost then s4.bump cmdIsl cmdHostLost
  else if r.status = stHalted then s4.bump cmdIsl cmdHalted
  else s4

/-- A command has become complete: the slot it replaces is retired, its host record is due or not (R215, R345, R368); a
REDUCE that has failed after it sent a contribution halts the domain of its sum (R466). -/
def State.finish (s : State) (r : CmdRun) : State :=
  let e := r.entry
  let s1 := if e.opcode = opCompress && r.status = stOk && bitAt (e.word 2) 23 then
      s.slotCommand (Fin.ofNat 64 (e.fld 2 21 16)) { run := r.id, act := .retire } else s
  let s2 := if e.opcode = opReduce && s.consistent && r.sentRed && r.status != stOk then
      s1.haltDomain (domainOf (e.oid 3)) false else s1
  let r1 := { r with done := true, hrec := s.hostRecordOf r }
  let s3 := s2.onRun r.id fun _ => r1
  if r1.hrec = .due then s3 else s3.retire r1

/-- COMMAND_COMPLETE (R345, R356, R360, R364, R466): a failed command's remaining work is dropped; once nothing of the
command is left it is run again where R466 says so, or it is complete; its local record follows the host's. -/
def execCommandComplete (run : Nat) (s : State) : Outcome :=
  match s.findRun run with
  | none => .next s
  | some r =>
    guarded (s.awake cmdIsl) s
      (if r.done then (if r.hrec = .acked || r.hrec = .lost then s.retire r else s)
      else
        let r1 := if s.consistent && r.tainted && s.writesDone r then r.fail stStoreLost else r
        let s1 := if r1.stopped then s.purge run r1.status else s
        if s1.busy r1 then s1
        else if s1.retries r1 then
          ((s1.onRun run fun _ => r1.again).bump cmdIsl cmdRetries) |> launch r1.entry.opcode r1.again
        else s1.finish r1)

end Sys2Proof.Machine
end

