-- ==== Sys2Proof/Machine/HomeSteps.lean ====
section
/-! DEFINITION. The next step of the home duties of a slice: commits, plate writes, contributions to sum plates, frames that
leave by a move (R206, R251, R257-R260, R437, R446). -/

namespace Sys2Proof.Machine

/-- A read of the index of a span that a waiting write needs (R251, R259). -/
def State.wantIndex (s : State) (p : SliceNo) : Option State :=
  let x := s.slice p
  (x.home.inq.find? fun w =>
    s.usesCommit w.obj && !s.indexKnown p w.obj (spanOf w.plate.toNat) && s.keyLoaded p w.obj.key &&
    !(s.eph.dark.any fun d => d.oid == w.obj.oid && d.index && spanOf d.plate.toNat == spanOf w.plate.toNat) &&
    !(x.home.reads.any fun j => j.dest == .index && j.obj.oid == w.obj.oid && spanOf j.plate.toNat == spanOf w.plate.toNat)).bind
    fun w => match s.eph.serves w.obj.oid (spanOf w.plate.toNat) with
      | .at _ base _ =>
        let i := s.newId
        some (i.2.beginJob p { id := i.1, obj := w.obj, plate := w.plate, dest := .index, base := base })
      | _ => none

/-- A waiting plate write under an unloaded key slot is not issued: its command completes KEY_INVALID, a writer elsewhere is answered
UNREACHABLE (R180). -/
def State.refuseKeyless (s : State) (p : SliceNo) : Option State :=
  ((s.slice p).home.inq.zipIdx.find? fun e => !s.keyLoaded p e.1.obj.key).map fun e =>
    let w := e.1
    let t := s.onSlice p fun x => { x with home := { x.home with inq := x.home.inq.eraseIdx e.2 } }
    let u := (t.failRun w.run stKeyInvalid).releaseSlot w.slot
    let v := match w.src with | some r => u.ackTo r (unitPs p) fsUnreachable w.obj.oid w.plate | none => u
    (if w.heal then v.healStored w.obj.oid w.plate false else v).wakeReads p w.obj.oid w.plate

/-- A write whose span has left this block while it waited is passed on to the span's home, which is looked up where it is not
known; a writer elsewhere is answered NOT_HOME (R420, R438). -/
def State.passOn (s : State) (p : SliceNo) : Option State :=
  let x := s.slice p
  let away (w : PWrite) : Bool := (s.eph.serves w.obj.oid (spanOf w.plate.toNat)).slice?.isNone
  (x.home.inq.zipIdx.find? fun e => away e.1).bind fun e =>
    let w := e.1
    let t := (s.onSlice p fun x => { x with home := { x.home with inq := x.home.inq.eraseIdx e.2 } }).wakeReads p w.obj.oid w.plate
    let next := s.homeOf w.obj.oid (spanOf w.plate.toNat)
    match w.src with
    | some r =>
      some (t.ackTo r (unitPs p) fsNotHome w.obj.oid w.plate (s.newHome w.obj.oid (spanOf w.plate.toNat)))
    | none => match next with
      | some h => some ((t.foundHome w.obj.oid (spanOf w.plate.toNat)).sendWrite p h w)
      | none =>
        let l := s.lookup w.obj.oid (spanOf w.plate.toNat)
        if l.1 then (if s.lookupOut w.obj.oid (spanOf w.plate.toNat) then none else some l.2)
        else some ((t.failRun w.run stUnreachable).releaseSlot w.slot)

/-! Contributions to sum plates (R446). -/

/-- The sum of a contribution and the sum plate as it was read, in the sum object's format. -/
def SumAdd.write (e : SumAdd) (old : List Byte × Bool) : PWrite :=
  let o := e.obj
  let was := plateF32 o e.plate.toNat o.format (unpackElems o.format (fit (denseSize o.format) old.1)) []
  let sum := List.zipWith f32Add was e.vals
  let w := (storeForm {
    run := none, obj := o, plate := e.plate
    data := { fmt := .f32, codes := sum.map (·.toNat), scales := [], map := 0, poison := e.poison || old.2 } }).1
  { w with src := some e.src }

/-- Contributions to one sum plate are added in the order in which they came: the plate of the first is read, and once it has
come the sum is written (R446). -/
def State.sumNext (s : State) (p : SliceNo) : Option State :=
  let x := s.slice p
  let firsts := x.home.sums.zipIdx.filter fun e =>
    !((x.home.sums.take e.2).any fun q => q.obj.oid == e.1.obj.oid && q.plate == e.1.plate)
  let put (i : Nat) (e : SumAdd) (x : Slice) : Slice := { x with home := { x.home with sums := x.home.sums.set i e } }
  let drop (i : Nat) (x : Slice) : Slice := { x with home := { x.home with sums := x.home.sums.eraseIdx i } }
  match firsts.find? fun e => e.1.old.isSome with
  | some (e, i) => e.old.map fun old =>
      (((s.onSlice p (drop i)).receiveWrite p (e.write old)).bump (psIsl p) psRedAdded)
  | none =>
    (firsts.find? fun e => !e.1.asked && !s.eph.isDark e.1.obj.oid e.1.plate && !s.writeUnderWay p e.1.obj.oid e.1.plate &&
      !(x.home.inq.any fun w => w.obj.oid == e.1.obj.oid && w.plate == e.1.plate) &&
      !(x.store.commits.any fun m => m.obj.oid == e.1.obj.oid && m.span == spanOf e.1.plate.toNat)).map fun e =>
      match (s.eph.serves e.1.obj.oid (spanOf e.1.plate.toNat)).slice? with
      | some _ => (s.onSlice p (put e.2 { e.1 with asked := true })).readHome e.1.obj e.1.plate .sum
      | none => (s.onSlice p (drop e.2)).ackTo e.1.src (unitPs p) fsNotHome e.1.obj.oid e.1.plate
          (s.newHome e.1.obj.oid (spanOf e.1.plate.toNat))

/-! The source of a span move (R437 step 2). -/

/-- What a frame sends: its stored plates, then its almanac, scale, header and index lines. -/
def State.moveParts (s : State) (o : ObjRec) (span : Nat) (es : List IdxEntry) : List (Segment × Nat) :=
  let n := spanPlates o span
  let lines (sg : Segment) (k : Nat) : List (Segment × Nat) := (List.range k).map fun i => (sg, i)
  let ks := (s.storedPlates o span es)
  if ks.isEmpty && !((s.eph.written.any fun w => w.1 == o.oid && w.2 / 64 == span)) then []
  else (ks.map fun k => (if o.code = 2 then Segment.packed else .body, k)) ++ lines .almanac (almanacLines o n) ++
    lines .scale (scaleLines o n) ++ lines .header (headerLines o n) ++ lines .index (if o.code = 2 then 2 else 0)

/-- The plate whose tweak a line of a segment bears (R171). -/
def linePlate (span : Nat) (sg : Segment) (l : Nat) : Nat :=
  64 * span + match sg with | .header => 8 * l | .almanac => 16 * l | .scale => l | _ => 0

/-- The tweak fields of line l of a segment other than the plates' own. -/
def lineOf (o : ObjRec) (span : Nat) (sg : Segment) (l : Nat) : LineId :=
  lineId o (linePlate span sg l) sg (if sg = .index then l else 0)

/-- Which plates of a span have been written, and which of them are recorded as poisoned, as two masks. -/
def State.writtenMasks (s : State) (oid : BitVec 40) (span : Nat) : List Byte :=
  let mask (f : Nat → Bool) : List Byte := leBytes 8 (lsbNat ((List.range 64).map fun i => f (64 * span + i)))
  mask (s.eph.isWritten oid) ++ mask (s.eph.isPoisoned oid)

/-- Changes the source side of a move. -/
def State.onSrc (s : State) (no : BitVec 32) (f : MvSrc → MvSrc) : State :=
  { s with eph := { s.eph with srcs := mapIf (fun m => m.no == no) f s.eph.srcs } }

/-- The source's COMMIT to the manager (R437 step 4, R439); one with ABORT carries the status of the failure (log entry 69). -/
def State.sendCommit (s : State) (m : MvSrc) (toHome : HomeWord) (abort : Option (BitVec 4)) : State :=
  match s.managerOf (domainOf m.oid) with
  | none => s
  | some b => (s.onSrc m.no fun m => { m with committed := true }).request {
      unit := unitEph, tid := 0, ptype := ptCommit, dest := b, dunit := unitEph, status := abort.getD 0, oid := m.oid
      idx := BitVec.ofNat 24 m.span.toNat, arg := if abort.isSome then 1 else 0, rest := [homeWord toHome], why := .commit }

/-- Asks for the next part of a frame that moves. -/
def State.movePart (s : State) (p : SliceNo) (base : Nat) (o : ObjRec) (m : MvSrc) (part : Segment × Nat) : State :=
  let span := m.span.toNat
  let n := spanPlates o span
  let s1 := s.onSrc m.no fun m => { m with asked := true }
  let i := s1.newId
  if !s.keyLoaded p o.key then s.moveFails m.no.toNat
  else match part.1 with
    | .body | .packed =>
      if s.eph.isDark o.oid (BitVec.ofNat 24 part.2) then s.moveFails m.no.toNat
      else i.2.beginJob p { id := i.1, obj := o, plate := BitVec.ofNat 24 part.2, dest := .move m.no.toNat, base := base }
    | sg =>
      let j : RJob := {
        id := i.1, obj := o, plate := BitVec.ofNat 24 (linePlate span sg part.2), dest := .moveLine m.no.toNat sg part.2
        base := base, started := true, plan := [(base + segStart o n sg + part.2, lineOf o span sg part.2)] }
      (i.2.putJob p j).askLines p j

/-- Whether a span is being placed on another block because it obtains no frame here (R441 step 3). -/
def State.leaving (s : State) (oid : BitVec 40) (span : Nat) : Bool :=
  s.eph.places.any fun q => q.obj.oid == oid && q.span == span && q.step == 3 && q.asked

/-- The next thing the source of a span move does on slice p: it waits until the commits and writes on the span have ended, sends
the frame part by part, then the record of written plates; where a part could not be read the move is aborted. -/
def State.moveNext (s : State) (p : SliceNo) : Option State :=
  s.eph.srcs.findSome? fun m =>
    let span := m.span.toNat
    match s.eph.serves m.oid span, s.recordOf m.oid with
    | .notHome, _ => none
    | sv, some o =>
      let at_ : SliceNo × Nat := match sv with | .at q b _ => (q, b) | .unwritten q _ => (q, 0) | .notHome => (p, 0)
      if at_.1 != p || m.committed then none
      else if m.failed then some (s.sendCommit m m.toHome.word (some fsUnreachable))
      else if !m.started then
        let busy := (List.finRange 32).any fun q =>
          (s.slice q).store.commits.any (fun c => c.obj.oid == m.oid && c.span == span && !(c.st == .held && s.leaving m.oid span)) ||
            (s.slice q).home.writes.any fun w => w.oid == m.oid && spanOf w.plate.toNat == span
        if busy then none
        else if o.code != 2 || (match sv with | .at _ _ e => e.noFrame | _ => true) then
          some (s.onSrc m.no fun m => { m with started := true, send := s.moveParts o span [] })
        else match (s.slice p).home.index m.oid span with
          | some ix => some (s.onSrc m.no fun m => { m with started := true, send := s.moveParts o span ix.2 })
          | none =>
            if (s.slice p).home.reads.any fun j => j.dest == .index && j.obj.oid == m.oid && spanOf j.plate.toNat == span then none
            else if s.eph.dark.any fun d => d.oid == m.oid && d.index && spanOf d.plate.toNat == span then
              some (s.moveFails m.no.toNat)
            else
              let i := s.newId
              some (i.2.beginJob p {
                id := i.1, obj := o, plate := BitVec.ofNat 24 (64 * span), dest := .index, base := at_.2 })
      else if m.asked then none
      else match m.send with
        | part :: _ => some (s.movePart p at_.2 o m part)
        | [] =>
          if m.record then none
          else some ((s.onSrc m.no fun m => { m with record := true }).request {
            unit := unitPs p, tid := 0, ptype := ptMvData, dest := m.toHome.block, dunit := unitPs m.toHome.slice, oid := m.oid
            idx := BitVec.ofNat 24 (64 * span), rest := [put 15 0], data := { body := s.writtenMasks m.oid span }
            why := .copyDone })
    | _, none => none

/-- PLATE_WRITE (R206, R257-R260, R437, R446): the home slice does the next thing its duties allow: a commit goes on, a waiting
plate write goes, an index that one needs is read, a write whose span has left is passed on, a contribution to a sum is added,
a frame that moves is sent. -/
def execPlateWrite (p : SliceNo) (s : State) : Outcome :=
  let x := s.slice p
  guarded (s.homeLive p) s
    (match s.advanceAny p with
    | some t => t
    | none => match s.refuseKeyless p with
      | some t => t
      | none => match x.home.inq.zipIdx.find? fun e => s.mayWrite p e.2 e.1 with
      | some e => s.goWrite p e.2 e.1
      | none => match s.wantIndex p with
        | some t => t
        | none => match s.passOn p with
          | some t => t
          | none => match s.sumNext p with
            | some t => t
            | none => (s.moveNext p).getD s)

end Sys2Proof.Machine
end

