-- ==== Sys2Proof/Machine/MgrOps.lean ====
section
/-! DEFINITION. The managers of a domain, the shared operations: map entries as they travel, the mirror, span moves and
residency commands (R415, R422, R423, R437-R442, R478, R479). -/

namespace Sys2Proof.Machine

/-! Map entries (R415). -/

/-- An object entry as 64 bytes. -/
def MapObj.words (o : MapObj) : List W64 :=
  bytesWords (leBytes 8 o.obj.w0.toNat ++ leBytes 8 o.obj.w1.toNat ++ leBytes 2 o.cblock.toNat ++ leBytes 1 o.icount ++ [0] ++
    fit 32 (o.islice.map (BitVec.ofNat 8)) ++ List.replicate 11 0 ++ [1])

/-- The object entry that 64 bytes hold, if they hold one. -/
def mapObjOf (ws : List W64) : Option MapObj :=
  let b := fit 64 (wordsBytes ws)
  if b.getD 63 0 = 1 then
    let ic := (b.getD 18 0).toNat
    some {
      obj := { w0 := leWord b, w1 := leWord (b.drop 8) }, cblock := BitVec.ofNat 12 (leNat ((b.drop 16).take 2)), icount := ic
      islice := ((b.drop 20).take (min 32 ic)).map (·.toNat) }
  else none

/-- A slot of an override entry as 4 bytes. -/
def OvrSlot.word (t : OvrSlot) : Nat :=
  t.valid.toNat * 2 ^ 31 + t.pinned.toNat * 2 ^ 30 + t.slice.toNat * 2 ^ 12 + t.block.toNat
def slotOf (n : Nat) : OvrSlot :=
  { valid := n.testBit 31, pinned := n.testBit 30, slice := BitVec.ofNat 5 (n >>> 12), block := BitVec.ofNat 12 n }

/-- An override entry as 64 bytes. -/
def MapOvr.words (v : MapOvr) : List W64 :=
  bytesWords (leBytes 5 v.oid.toNat ++ leBytes 2 v.group ++ [0] ++ (v.slots.toList.flatMap fun t => leBytes 4 t.word) ++
    List.replicate 23 0 ++ [2])

/-- The override entry that 64 bytes hold, if they hold one. -/
def mapOvrOf (ws : List W64) : Option MapOvr :=
  let b := fit 64 (wordsBytes ws)
  if b.getD 63 0 = 2 then
    some {
      oid := BitVec.ofNat 40 (leNat (b.take 5)), group := leNat ((b.drop 5).take 2) % 2 ^ 15
      slots := Vector.ofFn fun (i : Fin 8) => slotOf (leNat ((b.drop (8 + 4 * i.val)).take 4)) }
  else none

/-- An entry applied to a map: an object entry or an override entry takes the place of the older one; an override entry
none of whose slots is VALID or PINNED, or an object entry of kind zero, removes it. -/
def PMap.apply (m : PMap) (ws : List W64) : PMap :=
  match mapObjOf ws with
  | some o => { m with objs := (m.objs.filter fun p => (ObjRec.ofWords p.obj).oid != (ObjRec.ofWords o.obj).oid) ++ [o] }
  | none =>
    match mapOvrOf ws with
    | some v =>
      let rest := m.ovrs.filter fun p => !(p.oid == v.oid && p.group == v.group)
      { m with ovrs := if v.slots.toList.any fun t => t.valid || t.pinned then rest ++ [v] else rest }
    | none =>
      let oid := bits 40 (ws.getD 0 0) 24
      { objs := m.objs.filter (fun p => (ObjRec.ofWords p.obj).oid != oid), ovrs := m.ovrs.filter fun p => p.oid != oid }

/-- The words that remove an object entry and its override entries (log entry 21). -/
def removeWords (r : RecWords) : List W64 := r.w0 :: List.replicate 7 0

/-- The override entry of a span's group as a manager answers it: the null override where there is none (R420). -/
def PMap.ovrOrNull (m : PMap) (oid : BitVec 40) (span : Nat) : MapOvr :=
  (m.ovr oid span).getD { oid := oid, group := span / 8 }

/-- Whether a change of a span's slot finds room in the map: 65,536 entries (R421, R441). -/
def PMap.slotFits (m : PMap) (oid : BitVec 40) (span : Nat) (h : HomeAt) : Bool :=
  (m.ovr oid span).isSome || m.size < 65536 || ((m.obj oid).map fun o => o.home span) == some h

/-! Moves and residency commands. -/

def State.onEph (s : State) (f : EphS → EphS) : State := { s with eph := f s.eph }

/-- The result of a residency command is complete: it goes to the issuing CMD (R436); a PREFETCH ends OK whatever became of its spans
(R331). -/
def State.jobEnd (s : State) (j : CmdxJob) : State :=
  (s.onEph fun h => { h with jobs := h.jobs.filter fun k => k.id != j.id }).ackTo j.src unitEph
    (if j.opcode = 0x08 then fsOk else j.status) j.oid 0 noHome j.plates 3

/-- The answer of this block's registration of an interleave: what a block registers for an object it creates (R162, R423). -/
def State.interleaveOf (s : State) (b : BitVec 12) : Nat × List Nat :=
  if b = s.block then
    let all := s.ephConf.islice
    let left := all.filter fun p => !s.eph.gone.getLsbD p
    let l := if left.isEmpty then all else left
    (l.length, l)
  else match s.eph.occ.find? fun o => o.block == b with
    | some o => (o.icount, o.islice)
    | none => (0, [])

/-- The slice that the interleave of a block gives a span (R440). -/
def State.anySliceOf (s : State) (b : BitVec 12) (oid : BitVec 40) (span : Nat) : SliceNo :=
  let l := s.interleaveOf b
  Fin.ofNat 32 (defaultSlice l.2 l.1 oid span)

/-- Extents that a span's frame may take (R440). -/
def frameNeed (o : ObjRec) (span : Nat) : Nat :=
  let n := spanPlates o span
  if o.code = 2 then worstExtents o n else frameExtents o n 0

/-- Free extents of a member by its last report. -/
def Occ.total (o : Occ) : Nat := (o.free.map (·.toNat)).sum

/-- The block that the manager chooses for a span of a tier (R440): of the archive members, or of the compute members other
than the current home, the one with the most free extents; ties go to the lower block. -/
def State.chooseBlock (s : State) (deep : Bool) (need : Nat) (home : BitVec 12) : Option (BitVec 12) :=
  let ok := s.eph.occ.filter fun o =>
    (if deep then o.role == 1 else o.role != 1 && o.block != home) && decide (need ≤ o.total) && o.freeEntries != 0
  (ok.foldl (fun (a : Option Occ) o => match a with
    | none => some o
    | some b => if b.total < o.total || (b.total = o.total && o.block.toNat < b.block.toNat) then some o else a) none).map (·.block)

/-- The new home of a span move as it starts (R440); none where no member qualifies. -/
def State.moveTarget (s : State) (m : SpanMove) (o : ObjRec) (home : BitVec 12) : Option HomeAt :=
  let need := frameNeed o m.span.toNat
  let at_ (b : BitVec 12) : HomeAt := { block := b, slice := s.anySliceOf b m.oid m.span.toNat }
  match m.tier with
  | 0 => some (if m.anySlice then at_ m.toHome.block else m.toHome)
  | 1 => (s.chooseBlock false need home).map at_
  | 2 => (s.chooseBlock true need home).map at_
  | _ => match s.chooseBlock true need home with
    | some b => some (at_ b)
    | none => (s.chooseBlock false need home).map at_

/-- A span move has ended (R439): its command is told, or the home that asked for a capacity eviction is answered. -/
def State.moveEnds (s : State) (m : SpanMove) (st : BitVec 4) (plates : Nat) : State :=
  let s1 := s.onEph fun h => { h with moves := h.moves.filter fun k => k.no != m.no }
  let s2 := match m.why with
    | .capacity r => s1.ackTo r unitEph st m.oid (BitVec.ofNat 24 m.span.toNat)
    | _ => s1
  match m.job.bind fun id => s2.eph.jobs.find? fun j => j.id == id with
  | none => s2
  | some j =>
    let j1 := { j with left := j.left - 1, plates := j.plates + plates, status := if j.status = 0 then st else j.status }
    let s3 := s2.onEph fun h => { h with jobs := mapIf (fun k => k.id == j.id) (fun _ => j1) h.jobs }
    if j1.left = 0 then s3.jobEnd j1 else s3

/-- COMMIT_ACK to the source and to the destination of a span move (R437 step 6). -/
def State.commitAcks (s : State) (oid : BitVec 40) (span : BitVec 18) (src : Option Requester) (toHome : HomeAt) (abort : Bool) :
    State :=
  let h : HomeWord := { valid := !abort, slice := BitVec.ofNat 5 toHome.slice.val, block := toHome.block }
  let idx : BitVec 24 := BitVec.ofNat 24 span.toNat
  let s1 := match src with | some r => s.ackTo r unitEph fsOk oid idx h 0 2 | none => s
  if src.map (·.block) == some toHome.block then s1
  else s1.ackTo { block := toHome.block, unit := unitEph, tid := 0 } unitEph fsOk oid idx h 0 2

/-- What waited for a change of the map to be mirrored goes on: span moves commit (R437 step 6), registrations and placements
are acknowledged (R422, R441). -/
def State.mirrored (s : State) (moves : List (BitVec 32)) (answers : List Requester) (oid : BitVec 40) (idx : BitVec 24) : State :=
  let commit (s : State) (no : BitVec 32) : State :=
    match s.eph.moves.find? fun m => m.no == no with
    | none => s
    | some m =>
      let n := match s.recordOf m.oid with | some o => spanPlates o m.span.toNat | none => 0
      let f := s.freeNat
      let t := (f.2.commitAcks m.oid m.span m.commitBy m.toHome false).bump ephIsl ephMovesCommit
        (if m.source.block = m.toHome.block && m.job.isNone then 0 else 1)
      t.moveEnds m fsOk (f.1 % (n + 1))
  answers.foldl (fun s r => s.ackTo r unitEph fsOk oid idx) (moves.foldl commit s)

/-- Whether this block's changes of the map are mirrored to another block (R437, R478, R479). -/
def State.hasMirror (s : State) : Bool :=
  let c := s.ephConf
  c.role == 1 && c.mirrorBlock != s.block && !s.eph.unmirrored.getLsbD c.domain.toNat

/-- A change of the map goes to the mirror, at most two entries in a packet (R427, R437 step 5); without a mirror it is
complete at once (R479). MIR's own copy follows (R461, log entry 15). -/
def State.mirrorOut (s : State) (entries : List (List W64)) (moves : List (BitVec 32)) (answers : List Requester)
    (oid : BitVec 40) (idx : BitVec 24) : State :=
  let s1 := if s.awake mirIsl then s.onEph fun h => { h with mirMap := h.map } else s
  if s1.hasMirror then
    (s1.onEph fun h => { h with mirrorAt := s.now ephIsl }).request {
      unit := unitEph, tid := 0, ptype := ptMirror, dest := s1.ephConf.mirrorBlock, dunit := unitMir, oid := oid, idx := idx
      rest := (entries.flatten ++ List.replicate 16 0).take 16, why := .mirror moves answers }
  else s1.mirrored moves answers oid idx

/-- The manager writes a span's new home into the map (R437 step 5). -/
def State.setMapHome (s : State) (oid : BitVec 40) (span : Nat) (h : HomeAt) : State :=
  s.onEph fun e => { e with map := e.map.setHome oid span h }

/-- The entries that a span's home change sends to the mirror. -/
def State.homeEntries (s : State) (oid : BitVec 40) (span : Nat) : List (List W64) := [(s.eph.map.ovrOrNull oid span).words]

/-- The status with which this block answers a manager request about an object, where it cannot serve it (R468, R478). -/
def State.managerRefuses (s : State) (oid : BitVec 40) : Option (BitVec 4) :=
  if !s.actsFor (domainOf oid) then some fsUnreachable
  else if s.isHalted (domainOf oid) then some fsHalted
  else none

/-- Whether the Ephemeris takes requests: awake, and not reloading (R476). -/
def State.ephLive (s : State) : Bool := s.awake ephIsl && !s.eph.reloading

end Sys2Proof.Machine
end

