-- ==== Sys2Proof/Machine/Mv.lean ====
section
/-! DEFINITION. A span move at its source and at its destination (R437-R439). -/

namespace Sys2Proof.Machine

/-- Marks, or unmarks, the SPAN entry of a span as in motion (R437); a span of a RUN is known from the move alone. -/
def markMotion (dir : List DirEnt) (oid : BitVec 40) (span : Nat) (m : Bool) : List DirEnt :=
  let own (e : DirEnt) : Bool := e.obj.oid == oid && !e.incoming && match e.kind with | .span _ t _ => t == span | _ => false
  mapIf own (fun e => { e with inMotion := m }) dir

/-- MV_START (R437 steps 1 and 2, R468, R472, R478): the source marks the span in motion, and is to send its frame; a move of the span
already in progress is joined. -/
def execMvStart (src : Requester) (oid : BitVec 40) (span : BitVec 18) (newHome : HomeWord) (moveNo : BitVec 32) (s : State) :
    Outcome :=
  let idx : BitVec 24 := BitVec.ofNat 24 span.toNat
  let ack (t : State) (st : BitVec 4) (h : HomeWord) : State := t.ackTo src unitEph st oid idx h
  let start : State :=
    let m : MvSrc := {
      oid := oid, span := span, no := moveNo, toHome := { block := newHome.block, slice := Fin.ofNat 32 newHome.slice.toNat } }
    s.onEph fun h => { h with srcs := h.srcs ++ [m], dir := markMotion h.dir oid span.toNat true }
  guarded s.ephLive s
    (if s.isHalted (domainOf oid) then ack s fsHalted noHome
    else if s.eph.srcs.any fun m => m.oid == oid && m.span == span then ack s fsOk noHome
    else match s.eph.serves oid span.toNat with
      | .notHome => ack s fsNotHome (s.newHome oid span.toNat)
      | .at _ _ e => if e.lost then ack s fsUnreachable noHome else ack start.mirDir fsOk noHome
      | .unwritten _ _ => ack start fsOk noHome)

/-! The destination (R437 step 3). -/

/-- The lines of a part of a frame that has come: a plate's lines, or one line of another segment. -/
def MvDst.lines (d : MvDst) (plate : BitVec 24) (segment line : Nat) (data : PlateWords) : List WLine :=
  let n := spanPlates d.obj d.span.toNat
  let base := 16 * d.base
  match segmentOf segment with
  | .body => bodyWLines d.obj n base plate.toNat 0 (data.body.drop (if d.obj.code = 1 then 64 else 0))
  | .packed => bodyWLines d.obj n base plate.toNat line data.body
  | sg => [{ addr := base + segStart d.obj n sg + line, id := lineOf d.obj d.span.toNat sg line, data := fit 512 data.body }]

/-- Changes the destination side of a move. -/
def State.onDst (s : State) (oid : BitVec 40) (span : Nat) (f : MvDst → MvDst) : State :=
  s.onEph fun h => { h with dsts := mapIf (fun d => d.obj.oid == oid && d.span.toNat == span) f h.dsts }

/-- The plates of a span that a mask names. -/
def maskPlates (span : Nat) (b : List Byte) : List Nat :=
  ((List.range 64).filter fun i => (leNat (b.take 8)).testBit i).map fun i => 64 * span + i

/-- A part of the frame of a move whose destination has its frame. -/
def State.takePart (s : State) (d : MvDst) (src : Requester) (plate : BitVec 24) (segment line : Nat) (data : PlateWords) : State :=
  let oid := d.obj.oid
  let span := d.span.toNat
  if d.told then s
  else if segment = 15 then
    (s.onDst oid span fun d => { d with
      src := src, last := true, written := maskPlates span data.body, poisoned := maskPlates span (data.body.drop 8) }).copyDoneIfAll
      oid span
  else if !s.keyLoaded d.slice d.obj.key then (s.onDst oid span fun d => { d with src := src, failed := true }).copyDoneIfAll oid span
  else
    let i := s.newId
    let up (d : MvDst) : MvDst := { d with
      src := src, left := d.left + 1, index := if segment = 4 then d.index ++ [(line, data.body)] else d.index }
    (i.2.onDst oid span up).startWrite d.slice {
      id := i.1, run := none, oid := oid, plate := if segment = 0 || segment = 5 then plate else BitVec.ofNat 24 (64 * span), move := true
      left := 0 } (d.lines plate segment line data)

/-- MV_DATA (R437 step 3, R441): the destination allocates a frame for the span when the first part comes, and writes the lines; a
span with no plate written takes no frame. A part whose object's record, or whose frame, is not yet there waits; where the manager names
no such object, the source is told so. -/
def execMvData (p : SliceNo) (src : Requester) (oid : BitVec 40) (plate : BitVec 24) (segment : BitVec 4) (line : BitVec 16)
    (data : PlateWords) (s : State) : Outcome :=
  let span := spanOf plate.toNat
  guarded (s.homeLive p && s.ephLive) s
    (match s.eph.dsts.find? fun d => d.obj.oid == oid && d.span.toNat == span with
    | some d => s.takePart d src plate segment.toNat line.toNat data
    | none =>
      if s.eph.places.any fun q => q.obj.oid == oid && q.span == span && q.incoming.isSome then s
      else match s.known oid with
        | .unknown => (s.lookup oid span).2
        | .no st => (s.onEph fun h => { h with refused := h.refused.filter fun e => e.1 != oid }).refuseMove p src oid span st
        | .yes o =>
          let q := s.homeSlice p
          let need := if segment = 15 then 0 else frameNeed o span
          let c : Option Nat × State :=
            if need = 0 then (some 0, s) else if s.eph.gone.getLsbD q.val || s.eph.dirFree = 0 then (none, s) else s.claim q need none
          match c.1 with
          | none => s.startPlace { slice := p, obj := o, span := span, need := need, incoming := some src }
          | some b =>
            let t := c.2.startIncoming o span q b need src
            (match t.eph.dsts.find? fun d => d.obj.oid == oid && d.span.toNat == span with
            | some d => t.takePart d src plate segment.toNat line.toNat data
            | none => t))

/-- Drops the requests of a move's source that its end has answered. -/
def State.dropMoveReqs (s : State) (oid : BitVec 40) (span : Nat) : State :=
  { s with reqs := s.reqs.filter fun r => !((r.why == .commit && r.oid == oid && r.idx.toNat == span) ||
      (r.why == .copyDone && r.oid == oid && spanOf r.idx.toNat == span)) }

/-- COPY_DONE (R437 steps 3 and 4, R439): the source sends COMMIT to the manager, with ABORT where the destination has failed. -/
def execCopyDone (src : Requester) (oid : BitVec 40) (span : BitVec 18) (status : BitVec 4) (newHome : HomeWord) (s : State) :
    Outcome :=
  guarded s.ephLive s
    (match s.eph.srcs.find? fun m => m.oid == oid && m.span == span && m.toHome.block == src.block && !m.committed with
    | none => s.lateAnswer
    | some m =>
      let t := s.dropMoveReqs oid span.toNat
      if status != fsOk then t.sendCommit m m.toHome.word (some status)
      else if !m.record then s.lateAnswer
      else t.sendCommit m (if newHome.valid then newHome else m.toHome.word) none)

/-! The commit (R437 steps 7 and 8, R439). -/

/-- A slice without the index it holds of a span. -/
def Slice.dropIndex (x : Slice) (oid : BitVec 40) (span : Nat) : Slice :=
  { x with home := { x.home with icache := x.home.icache.filter fun e => !(e.1 == oid && e.2.1 == span) } }

/-- The plates that a held commit of a span keeps are written anew, at the span's new home (R261, R441 step 3). -/
def Slice.unhold (x : Slice) (oid : BitVec 40) (span : Nat) : Slice :=
  let mine (m : Commit) : Bool := m.obj.oid == oid && m.span == span && m.st == .held
  let again (m : Commit) : List PWrite := (m.plates.filter fun q => !q.copied).map fun q => {
    obj := m.obj, plate := q.plate, body := q.data, header := q.header, scale := q.scale, map := q.map, poisoned := q.poisoned
    slot := q.slot, run := m.run, src := (m.answers.find? fun a => a.2 == q.plate).map (·.1) }
  { x with
    store := { x.store with commits := x.store.commits.filter fun m => !mine m }
    home := { x.home with inq := (x.store.commits.filter mine).flatMap again ++ x.home.inq } }

/-- The encoded plates of a held commit of a span are in encoding again, on their way to the new home (R203, R261). -/
def State.reencode (s : State) (oid : BitVec 40) (span : Nat) : State :=
  let mine := s.slices.toList.flatMap fun x => x.store.commits.filter fun m => m.obj.oid == oid && m.span == span && m.st == .held
  (mine.flatMap (·.plates)).foldl (fun s q => match q.slot with
    | some t => s.onSlice t.1 fun x => { x with store := { x.store with encoding := x.store.encoding + 1 } } | none => s) s

/-- The source's part of the end of a move: at the commit its entry goes, an AWAY entry takes its place where the object was created
here, and the frame is to be freed; after an abort the span is served as before. -/
def State.moveLeft (s : State) (m : MvSrc) (toHome : HomeWord) : State :=
  let span := m.span.toNat
  let s0 := (s.onEph fun h => { h with srcs := h.srcs.filter fun k => k.no != m.no }).dropMoveReqs m.oid span
  if !toHome.valid then (s0.onEph fun h => { h with dir := markMotion h.dir m.oid span false }).mirDir
  else
    let frame : List (SliceNo × Nat × Nat × BitVec 40 × Nat) := match s.eph.serves m.oid span with
      | .at p base e => if e.noFrame then [] else [(p, base / 16, e.extents, m.oid, span)]
      | _ => []
    let away : List DirEnt := match s.eph.objectEnt m.oid with
      | some o => if toHome.block = s.block then [] else [{ obj := o.obj, kind := .away span, stamp := s.now ephIsl }]
      | none => []
    let moved : HomeAt := { block := toHome.block, slice := Fin.ofNat 32 toHome.slice.toNat }
    let s1 := s0.onEph fun h =>
      let e : EphS := { h with
        dir := dirRemove h.dir m.oid span ++ away, freeing := h.freeing ++ frame
        moved := (h.moved.filter fun k => !(k.1 == m.oid && k.2.1 == span)) ++ [(m.oid, span, moved)] }
      e.forgetSpan m.oid span
    let s2 := s1.reencode m.oid span
    ({ s2 with slices := s2.slices.map fun x => (x.dropIndex m.oid span).unhold m.oid span } : State).mirDir

/-- The destination's part: at the commit its entry serves, and the frame's unused tail goes back; after an abort what was allocated
is freed. -/
def State.moveCame (s : State) (d : MvDst) (toHome : HomeWord) : State :=
  let o := d.obj
  let span := d.span.toNat
  let mine (e : DirEnt) : Bool := e.incoming && e.obj.oid == o.oid && match e.kind with | .span _ t _ => t == span | _ => false
  let s0 := s.onEph fun h => { h with dsts := h.dsts.filter fun k => !(k.obj.oid == o.oid && k.span == d.span) }
  if !(toHome.valid && toHome.block == s.block) then
    ((s0.onEph fun h => { h with dir := h.dir.filter fun e => !mine e }).release d.slice d.base d.extents).mirDir
  else
    let n := spanPlates o span
    let b := (d.index.filter fun e => e.1 = 0).flatMap (fun e => fit 512 e.2) ++ (d.index.filter fun e => e.1 = 1).flatMap fun e => fit 512 e.2
    let ix := if o.code = 2 && indexOk o span n b then some (indexOf o span n b) else none
    let ext := match ix with | some i => min d.extents (frameExtents o n i.1) | none => d.extents
    let served (e : DirEnt) : DirEnt := { e with incoming := false, inMotion := false, extents := ext }
    let s1 := s0.onEph fun h =>
      let e : EphS := { h with
        dir := (mapIf mine served h.dir).filter fun e => !(e.obj.oid == o.oid && e.kind == .away span)
        moved := h.moved.filter fun k => !(k.1 == o.oid && k.2.1 == span) }
      d.written.foldl (fun e k => e.markWritten o.oid k (d.poisoned.contains k)) (e.forgetSpan o.oid span)
    let s2 := s1.release d.slice (d.base + ext) (d.extents - ext)
    let cache (x : Slice) : Slice := match ix with
      | some i => { x with home := x.home.putIndex o.oid span i.1 i.2 } | none => x.dropIndex o.oid span
    (s2.onSlice d.slice cache).mirDir

/-- The slice for whose span a placement waits for its commit (R441). -/
def State.placeSlice (s : State) (oid : BitVec 40) (span : Nat) : Option SliceNo :=
  match s.eph.places.find? fun q => q.obj.oid == oid && q.span == span with
  | some q => some q.slice
  | none => (List.finRange 32).find? fun p =>
      (s.slice p).store.commits.any fun m => m.obj.oid == oid && m.span == span && m.st == .placing

/-- Whether a COMMIT_ACK can be taken up: the lines of a span on its way here have been answered, and the entry that a span leaves finds
room for what is left of it and for its AWAY entry (R418, R437). -/
def State.ackFits (s : State) (oid : BitVec 40) (span : Nat) (newHome : HomeWord) : Bool :=
  (match s.eph.dsts.find? fun d => d.obj.oid == oid && d.span.toNat == span with | some d => d.left == 0 | none => true) &&
  (!(newHome.valid && s.eph.srcs.any fun m => m.oid == oid && m.span.toNat == span) ||
    s.eph.leaveFits oid span (if (s.eph.objectEnt oid).isSome && newHome.block != s.block then 1 else 0))

/-- COMMIT_ACK (R437 steps 6 to 8, R438, R439, R441): at the commit, or the abort, of a span move its source and its destination take up
their new roles; the commit of a placement lets it go on. -/
def execCommitAck (oid : BitVec 40) (span : BitVec 18) (newHome : HomeWord) (s : State) : Outcome :=
  let sp := span.toNat
  let src := s.eph.srcs.find? fun m => m.oid == oid && m.span == span
  let dst := s.eph.dsts.find? fun d => d.obj.oid == oid && d.span == span
  let req := s.reqs.find? fun r => r.why == .place oid sp && r.ptype == ptCommit
  guarded (s.ephLive && s.ackFits oid sp newHome) s
    (match req with
    | some r =>
      let t := s.dropReq r.unit r.tid
      (match s.placeSlice oid sp with
      | some p => t.placeAnswered p oid sp newHome.valid
      | none => t)
    | none =>
      if src.isNone && dst.isNone then s.lateAnswer
      else
        let s1 := match src with | some m => s.moveLeft m newHome | none => s
        let s2 := match dst with | some d => s1.moveCame d newHome | none => s1
        s2.onEph fun h => { h with
          places := if dst.isNone then h.places else h.places.filter fun q => !(q.obj.oid == oid && q.span == sp && q.incoming.isSome) })

end Sys2Proof.Machine
end

