-- ==== Sys2Proof/Machine/Mgr.lean ====
section
/-! DEFINITION. The managers of a placement domain and what members tell them (R413-R423, R437, R439-R442, R468, R477, R478). -/

namespace Sys2Proof.Machine

/-! Placement requests (R420, R422). -/

/-- An answer of the manager that carries words. -/
def State.mgrAnswer (s : State) (r : Requester) (pt : Nat) (st : BitVec 4) (oid : BitVec 40) (idx : Nat) (words : List W64) : State :=
  s.post unitEph pt (fabWords pt r.block s.block (transWord r.tid r.unit unitEph st 0)
    (word2 oid (BitVec.ofNat 24 idx) :: words))

/-- LOOKUP (R420, R429): the object entry and the override entry of the span's group, null where it has none. -/
def execLookup (src : Requester) (oid : BitVec 40) (span : BitVec 18) (s : State) : Outcome :=
  guarded s.ephLive s
    (match s.managerRefuses oid, s.eph.map.obj oid with
    | some st, _ => s.mgrAnswer src ptLookupRsp st oid span.toNat (List.replicate 16 0)
    | none, none => s.mgrAnswer src ptLookupRsp fsNoObject oid span.toNat (List.replicate 16 0)
    | none, some o => s.mgrAnswer src ptLookupRsp fsOk oid span.toNat (o.words ++ (s.eph.map.ovrOrNull oid span.toNat).words))

/-- OBJ_REQ (R201, R422): the record of an object. -/
def execObjReq (src : Requester) (oid : BitVec 40) (s : State) : Outcome :=
  guarded s.ephLive s
    (match s.managerRefuses oid, s.eph.map.obj oid with
    | some st, _ => s.mgrAnswer src ptObjRsp st oid 0 [0, 0]
    | none, none => s.mgrAnswer src ptObjRsp fsNoObject oid 0 [0, 0]
    | none, some o => s.mgrAnswer src ptObjRsp fsOk oid 0 [o.obj.w0, o.obj.w1])

/-- The creating block of an object that a block registers (R413): that block; HBLOCK for a COPY of this block. -/
def State.creatorOf (s : State) (b : BitVec 12) (record : RecWords) : BitVec 12 :=
  if b != s.block then b
  else match s.cmd.runs.find? fun r => r.newRec == some record with | some r => r.cblock | none => b

/-- REGISTER (R413, R422): the manager makes the object entry, mirrors it and acknowledges; or it answers why it does not. -/
def execRegister (src : Requester) (record : RecWords) (s : State) : Outcome :=
  let oid := (ObjRec.ofWords record).oid
  let ack (st : BitVec 4) : State := s.ackTo src unitEph st oid 0
  let creator := s.creatorOf src.block record
  guarded s.ephLive s
    (match s.managerRefuses oid with
    | some st => ack st
    | none =>
      if !(s.ephConf.members.contains src.block && s.ephConf.members.contains creator) then ack fsMismatch
      else match s.eph.map.obj oid with
        | some o => ack (if o.obj = record then fsOk else fsMismatch)
        | none =>
          if 65536 ≤ s.eph.map.size then ack fsNoSpace
          else
            let il := s.interleaveOf creator
            let e : MapObj := { obj := record, cblock := creator, icount := il.1, islice := il.2 }
            (s.onEph fun h => { h with map := { h.map with objs := h.map.objs ++ [e] } }).mirrorOut [e.words] [] [src] oid 0)

/-! Residency commands (R436, R440). -/

/-- A request of a residency command to the home of a span. -/
def State.jobRequest (s : State) (pt : Nat) (oid : BitVec 40) (span : Nat) (h : BitVec 12) (arg : BitVec 32) (why : ReqWhy) : State :=
  s.request { unit := unitEph, tid := 0, ptype := pt, dest := h, dunit := unitEph, oid := oid, idx := BitVec.ofNat 24 span, arg := arg
              why := why }

/-- The slot of a span in the map. -/
def PMap.slot (m : PMap) (oid : BitVec 40) (span : Nat) : OvrSlot :=
  match m.ovr oid span with | some v => v.slots[Fin.ofNat 8 span] | none => {}

/-- Whether a span has an entry in the move table. -/
def EphS.inMoves (h : EphS) (oid : BitVec 40) (span : Nat) : Bool := h.moves.any fun m => m.oid == oid && m.span.toNat == span

/-- Span moves join those that wait for the move table, in increasing span number (R437). -/
def State.queueMoves (s : State) (l : List SpanMove) : State :=
  s.onEph fun h => { h with
    movesWait := h.movesWait ++ l.zipIdx.map fun e => { e.1 with no := BitVec.ofNat 32 (h.moveNo + e.2) }, moveNo := h.moveNo + l.length }

/-- A command at the manager: with nothing to do it ends at once. -/
def State.startJob (s : State) (j : CmdxJob) : State :=
  if j.left = 0 then s.jobEnd j else s.onEph fun h => { h with jobs := h.jobs ++ [j] }

/-- The span moves that a MOVE, PREFETCH or EVICT makes of a span (R440). -/
def State.residencyMove (s : State) (src : Requester) (job op : Nat) (oid : BitVec 40) (w2 : W64) (span : Nat) : Option SpanMove :=
  let m (why : MoveWhy) (b : BitVec 12) (sl : Nat) (any : Bool) (tier : Nat) : SpanMove :=
    { no := 0, oid := oid, span := BitVec.ofNat 18 span, why := why, job := some job, toHome := { block := b, slice := Fin.ofNat 32 sl }
      anySlice := any, tier := tier }
  let home := (s.eph.map.home oid span).map (·.block)
  match op with
  | 0x06 => some (m .move (bits 12 w2 28) (fld w2 27 23) (bitAt w2 22) 0)
  | 0x08 =>
    if home == some src.block || (s.eph.map.slot oid span).pinned || s.eph.inMoves oid span then none
    else some (m .prefetch src.block 0 true 0)
  | _ =>
    if home != some src.block then none
    else if bitAt w2 24 then some (m .evict 0 0 true (fld w2 39 38)) else some (m .evict (bits 12 w2 25) 0 true 0)

/-- PIN and UNPIN (R440): the slots are set or cleared and mirrored, and each span's home is told. -/
def State.pinSpans (s : State) (src : Requester) (j : CmdxJob) (spans : List Nat) (pin : Bool) : State :=
  let oid := j.oid
  let mark (a : State × List (List W64) × Nat × Bool) (t : Nat) : State × List (List W64) × Nat × Bool :=
    if pin && (a.1.eph.map.ovr oid t).isNone && 65536 ≤ a.1.eph.map.size then (a.1, a.2.1, a.2.2.1, true)
    else
      let s1 := a.1.onEph fun h => { h with map := h.map.setSlot oid t fun q => { q with pinned := pin } }
      match s1.eph.map.home oid t with
      | some h => (s1.jobRequest ptPinSet oid t h.block (if pin then 1 else 0) (.pinSpan j.id), a.2.1 ++ s1.homeEntries oid t, a.2.2.1 + 1, a.2.2.2)
      | none => (s1, a.2.1 ++ s1.homeEntries oid t, a.2.2.1, a.2.2.2)
  let r := spans.foldl mark (s, [], 0, false)
  let es := r.2.1
  let pairs := (List.range (cdiv es.length 2)).map fun i => (es.drop (2 * i)).take 2
  let s1 := pairs.foldl (fun (s : State) e => s.mirrorOut e [] [] oid 0) r.1
  s1.startJob { j with left := r.2.2.1, status := if r.2.2.2 then fsNoSpace else fsOk, src := src }

/-- EVICT with DISCARD (R440): FREE goes to the home of each span; a pinned span is not freed. -/
def State.discardSpans (s : State) (j : CmdxJob) (spans : List Nat) (all : Bool) : State :=
  let pinned := spans.filter fun t => (s.eph.map.slot j.oid t).pinned
  let go := spans.filterMap fun t =>
    if pinned.contains t then none else (s.eph.map.home j.oid t).map fun h => (t, h.block)
  let s1 := go.foldl (fun (s : State) e => s.jobRequest ptFree j.oid e.1 e.2 0 (.freeSpan j.id)) s
  s1.startJob { j with
    left := go.length, whole := all && pinned.isEmpty, status := if pinned.isEmpty then fsOk else fsPinned }

/-- CMDX (R436, R437, R440): the manager takes a residency command and makes its span moves, marks or frees. -/
def execCmdx (src : Requester) (opcode : BitVec 8) (words : List W64) (s : State) : Outcome :=
  let w1 := words.getD 0 0
  let w2 := words.getD 1 0
  let oid := bits 40 w1 24
  let refuse (st : BitVec 4) : State := s.ackTo src unitEph st oid 0 noHome 0 3
  guarded s.ephLive s
    (match s.managerRefuses oid, s.eph.map.obj oid with
    | some st, _ => refuse st
    | none, none => refuse fsNoObject
    | none, some e =>
      let o := ObjRec.ofWords e.obj
      let n := fld w2 63 40
      let spans := if n = 0 then List.range (spanCount o) else (List.range n).map fun i => fld w1 17 0 + i
      let i := s.newId
      let j : CmdxJob := { id := i.1, src := src, opcode := opcode, oid := oid }
      match opcode.toNat with
      | 0x0A => i.2.pinSpans src j spans true
      | 0x0B => i.2.pinSpans src j spans false
      | op =>
        if op = 0x09 && bitAt w2 37 then i.2.discardSpans j spans (spans.length == spanCount o)
        else
          let ms := spans.filterMap fun t => s.residencyMove src i.1 op oid w2 t
          (i.2.queueMoves ms).startJob { j with left := ms.length })

/-- Whether the span move at a place of the wait may enter the table (R437): there is room, no entry and no earlier wait of its span,
and no earlier one of its command. -/
def EphS.mayMove (h : EphS) (i : Nat) (m : SpanMove) : Bool :=
  h.moves.length < 256 && !h.inMoves m.oid m.span.toNat &&
  !((h.movesWait.take i).any fun k => (k.oid == m.oid && k.span == m.span) || (k.job.isSome && k.job == m.job))

/-- SPAN_MOVE_START (R437 step 1, R440): a span move leaves the wait: it ends at once, or MV_START goes to the span's home. -/
def execSpanMoveStart (index : Nat) (s : State) : Outcome :=
  match s.eph.movesWait[index]? with
  | none => .next s
  | some m =>
    guarded (s.ephLive && s.actsFor (domainOf m.oid) && s.eph.mayMove index m) s
      (let s0 := s.onEph fun h => { h with movesWait := h.movesWait.eraseIdx index }
      let span := m.span.toNat
      match s.eph.map.obj m.oid, s.eph.map.home m.oid span with
      | some e, some home =>
        let pins := match m.why with | .prefetch => false | _ => true
        (match s.moveTarget m (ObjRec.ofWords e.obj) home.block with
        | none => s0.moveEnds m fsNoSpace 0
        | some toHome =>
          if toHome = home then s0.moveEnds m fsOk 0
          else if pins && (s.eph.map.slot m.oid span).pinned then s0.moveEnds m fsPinned 0
          else
            let m1 := { m with toHome := toHome, source := home, st := .asked }
            (s0.onEph fun h => { h with moves := h.moves ++ [m1] }).request {
              unit := unitEph, tid := 0, ptype := ptMvStart, dest := home.block, dunit := unitEph, oid := m.oid
              idx := BitVec.ofNat 24 span, arg := m.no, rest := [homeWord toHome.word], why := .mvStart m.no })
      | _, _ => s0.moveEnds m fsNoObject 0)

/-! The commit of a move (R437 step 5, R439, R441, R478). -/

/-- A span move has failed at the manager: the map stays as it is, source and destination are told. -/
def State.abortMove (s : State) (m : SpanMove) (src : Option Requester) (st : BitVec 4) : State :=
  ((s.bump ephIsl ephMovesAbort).commitAcks m.oid m.span src m.toHome true).moveEnds m st 0

/-- COMMIT (R437 step 5, R439, R441, R478): the manager writes the new home into the map and mirrors it; an abort drops the move. A
commit without an entry is accepted where the map still shows the sender as the home, as that of a placement is. -/
def execCommit (src : Requester) (oid : BitVec 40) (span : BitVec 18) (newHome : HomeWord) (abort : Bool) (why : BitVec 4) (s : State) :
    Outcome :=
  let sp := span.toNat
  let toHome : HomeAt := { block := newHome.block, slice := Fin.ofNat 32 newHome.slice.toNat }
  let idx : BitVec 24 := BitVec.ofNat 24 sp
  let write (t : State) (m : SpanMove) : State := (t.setMapHome oid sp toHome).mirrorOut ((t.setMapHome oid sp toHome).homeEntries oid sp) [m.no] [] oid idx
  guarded s.ephLive s
    (match s.managerRefuses oid with
    | some st => s.ackTo src unitEph st oid idx
    | none =>
      match s.eph.moves.find? fun m => m.oid == oid && m.span == span with
      | some m =>
        if m.st = .applied then s
        else if abort then s.abortMove m (some src) (if why = fsOk then fsUnreachable else why)
        else if !s.eph.map.slotFits oid sp toHome then s.abortMove m (some src) fsNoSpace
        else
          let m1 := { m with st := .applied, toHome := toHome, commitBy := some src }
          write (s.onEph fun h => { h with moves := mapIf (fun k => k.no == m.no) (fun _ => m1) h.moves }) m1
      | none =>
        let home := s.eph.map.home oid sp
        if home = some toHome then s.commitAcks oid span (some src) toHome false
        else if abort then s.commitAcks oid span (some src) toHome true
        else if (home.map (·.block)) = some src.block then
          if !s.eph.map.slotFits oid sp toHome then s.ackTo src unitEph fsNoSpace oid idx
          else
            let m : SpanMove := {
              no := BitVec.ofNat 32 s.eph.moveNo, oid := oid, span := span, why := .move, toHome := toHome
              source := home.getD default, st := .applied, commitBy := some src }
            write (s.onEph fun h => { h with moves := h.moves ++ [m], moveNo := h.moveNo + 1 }) m
        else s.ackTo src unitEph fsUnreachable oid idx)

/-- MIRROR (R427, R437 step 5, R477): the mirror's MIR applies the changed entries to its copy of the map, takes note of the beat, and
acknowledges. -/
def execMirror (src : Requester) (entries : List (List W64)) (s : State) : Outcome :=
  let used (ws : List W64) : Bool := ws.any fun w => w != 0
  guarded (s.awake mirIsl) s
    (((s.onEph fun h => { h with
      mirMap := (entries.filter used).foldl PMap.apply h.mirMap, beatSeen := true, beatAt := s.now mirIsl
      }).endStep7 (s.eph.step7At.isSome && s.ephConf.role == 2)).ackTo src unitMir fsOk 0 0)

/-! Homes and the manager (R440-R442). -/

/-- FREE (R418, R440, R472): the home gives up a span: its entry goes, where a split finds room, and its frame once the reads begun
earlier have ended. A FREE that names the span after the last ends the object on its creating block (log entry 21). -/
def execFree (src : Requester) (oid : BitVec 40) (span : BitVec 18) (s : State) : Outcome :=
  let sp := span.toNat
  let idx : BitVec 24 := BitVec.ofNat 24 sp
  let ack (t : State) (st : BitVec 4) : State := t.ackTo src unitEph st oid idx (if st = fsNotHome then s.newHome oid sp else noHome)
  let gone (t : State) : State := { t with slices := t.slices.map fun x => x.dropIndex oid sp }
  guarded (s.ephLive && s.eph.leaveFits oid sp 0) s
    (if s.isHalted (domainOf oid) then ack s fsHalted
    else match s.eph.objectEnt oid with
      | some o =>
        if sp = spanCount o.obj then
          ack (s.onEph fun h => { h with dir := h.dir.filter fun e => e.obj.oid != oid, moved := h.moved.filter fun k => k.1 != oid }).mirDir fsOk
        else match s.eph.serves oid sp with
          | .notHome => ack s fsNotHome
          | .unwritten _ _ => ack s fsOk
          | .at p base e =>
            let h1 : EphS := { s.eph with
              dir := dirRemove s.eph.dir oid sp
              freeing := if e.noFrame then s.eph.freeing else s.eph.freeing ++ [(p, base / 16, e.extents, oid, sp)] }
            ack (gone { s with eph := h1.forgetSpan oid sp }).mirDir fsOk
      | none => match s.eph.serves oid sp with
        | .at p base e =>
          let h1 : EphS := { s.eph with
            dir := dirRemove s.eph.dir oid sp
            freeing := if e.noFrame then s.eph.freeing else s.eph.freeing ++ [(p, base / 16, e.extents, oid, sp)] }
          ack (gone { s with eph := h1.forgetSpan oid sp }).mirDir fsOk
        | _ => ack s fsNotHome)

/-- PIN_SET (R440): the home marks, or unmarks, the entry that covers the span. -/
def execPinSet (src : Requester) (oid : BitVec 40) (span : BitVec 18) (pinned : Bool) (s : State) : Outcome :=
  let sp := span.toNat
  let idx : BitVec 24 := BitVec.ofNat 24 sp
  guarded s.ephLive s
    (if s.isHalted (domainOf oid) then s.ackTo src unitEph fsHalted oid idx
    else match s.eph.serves oid sp with
      | .notHome => s.ackTo src unitEph fsNotHome oid idx (s.newHome oid sp)
      | _ =>
        let mark (e : DirEnt) : DirEnt := { e with pinned := pinned }
        ((s.onEph fun h => { h with dir := mapIf (fun e => e.obj.oid == oid && (e.frameOf sp).isSome) mark h.dir }).mirDir).ackTo
          src unitEph fsOk oid idx)

/-- EVICT_REQ (R441): the manager runs a span move to the tier asked for, trying far where deep is refused; a request about a span that
is no longer homed on the asking block is dropped. -/
def execEvictReq (src : Requester) (oid : BitVec 40) (span : BitVec 18) (tier : BitVec 2) (s : State) : Outcome :=
  let sp := span.toNat
  let idx : BitVec 24 := BitVec.ofNat 24 sp
  guarded s.ephLive s
    (match s.managerRefuses oid with
    | some st => s.ackTo src unitEph st oid idx
    | none => match s.eph.map.home oid sp with
      | none => s.ackTo src unitEph fsNoObject oid idx
      | some h =>
        if h.block != src.block then s.ackTo src unitEph fsOk oid idx
        else s.queueMoves [{
          no := 0, oid := oid, span := span, why := .capacity src, toHome := h, anySlice := true, tier := if tier = 2 then 3 else 1 }])

/-! Members (R423, R508). -/

/-- The occupancy of a member put in the table of 256. -/
def EphS.putOcc (h : EphS) (o : Occ) : EphS :=
  if h.occ.any fun q => q.block == o.block then { h with occ := mapIf (fun q => q.block == o.block) (fun _ => o) h.occ }
  else if h.occ.length < 256 then { h with occ := h.occ ++ [o] } else h

/-- JOIN (R423): a manager notes a member's role, interleave and free extents, and acknowledges; a block that is no manager of its
domain answers UNREACHABLE. -/
def execJoin (src : Requester) (role : BitVec 4) (icount : BitVec 8) (islice : List Byte) (freeExtents : BitVec 64) (s : State) : Outcome :=
  let old : Occ := (s.eph.occ.find? fun o => o.block == src.block).getD { block := src.block }
  let ic := min 32 icount.toNat
  guarded s.ephLive s
    (if s.ephConf.role = 1 || s.ephConf.role = 2 then
      (s.onEph fun h => h.putOcc { old with
        role := role, icount := ic, islice := (islice.take ic).map (·.toNat), free := [freeExtents]
        freeEntries := if old.free.isEmpty then 1 else old.freeEntries }).ackTo src unitEph fsOk 0 0
    else s.ackTo src unitEph fsUnreachable 0 0)

/-- OCC (R423): a manager notes a member's latest occupancy. -/
def execOcc (src : Requester) (freeExtents : List (BitVec 64)) (freeEntries : BitVec 64) (s : State) : Outcome :=
  let old : Occ := (s.eph.occ.find? fun o => o.block == src.block).getD { block := src.block }
  guarded s.ephLive s (s.onEph fun h => h.putOcc { old with free := freeExtents.take 32, freeEntries := freeEntries })

/-- Free extents of each slice's device. -/
def EphS.freeOf (h : EphS) : List Nat := h.free.toList.map fun l => (l.map (·.count)).sum

/-- What a block reports of itself (R418, R423, R474): zeros once a quadrant is shut or in reset. -/
def State.occWords (s : State) : List W64 :=
  if (List.finRange 4).any s.quadGone then List.replicate 33 0
  else s.eph.freeOf.map (BitVec.ofNat 64) ++ [BitVec.ofNat 64 s.eph.dirFree]

/-- OCC_SEND (R423, R508): from the first acknowledgement of its JOIN a member sends OCC to its primary manager every 2^20 EPH cycles. -/
def execOccSend (s : State) : Outcome :=
  let d := s.ephConf.domain.toNat
  guarded (s.ephLive && !s.eph.joinAck.isEmpty && decide (2 ^ 20 ≤ elapsed (s.now ephIsl) s.eph.occAt)) s
    (let s1 := s.onEph fun h => { h with occAt := s.now ephIsl }
    match s.managerOf d with
    | none => s1
    | some m => s1.post unitEph ptOcc (fabWords ptOcc m s.block (transWord 0 unitEph unitEph 0 0) (0 :: s.occWords)))

end Sys2Proof.Machine
end

