-- ==== Sys2Proof/Machine/FabReq.lean ====
section
/-! DEFINITION. Requests between blocks at homes and at requesters: reads, writes, contributions, signals, answers, timeouts (R206, R350,
R419-R422, R427-R429, R436, R446, R468, R478). -/

namespace Sys2Proof.Machine

/-! At a home. -/

/-- Whether a read that reaches this block would be parked, and finds the park table full (R455). -/
def State.parkBlocks (s : State) (oid : BitVec 40) (plate : BitVec 24) : Bool :=
  s.parkFull && s.eph.isDark oid plate && !s.isHalted (domainOf oid) && (s.eph.serves oid (spanOf plate.toNat)).slice?.isSome

/-- RD_REQ (R159, R419, R438, R454, R455, R468): the home serves the read, parks it, or says that it is not the home. A read that would
be parked waits while the park table is full. -/
def execRdReq (p : SliceNo) (src : Requester) (oid : BitVec 40) (plate : BitVec 24) (s : State) : Outcome :=
  let refuse (st : BitVec 4) (h : HomeWord) : State :=
    s.post (unitPs p) ptRdRsp (fabWords ptRdRsp src.block s.block
      (transWord src.tid src.unit (unitPs p) st 0) [word2 oid plate, homeWord h])
  guarded (s.homeLive p && s.ephLive && !s.parkBlocks oid plate) s
    (if s.isHalted (domainOf oid) then refuse fsHalted noHome
    else match s.eph.serves oid (spanOf plate.toNat) with
      | .notHome => refuse fsNotHome (s.newHome oid (spanOf plate.toNat))
      | .at _ _ e => s.readHome e.obj plate (.fabric src)
      | .unwritten _ o => s.readHome o plate (.fabric src))

/-- A plate write from its words as they travel (R18, R427; log entry 17). -/
def travelled (o : ObjRec) (k : BitVec 24) (d : PlateWords) : PWrite :=
  let w : PWrite := { obj := o, plate := k, body := d.body, scale := d.scale, poisoned := d.poison }
  match o.code with
  | 0 => { w with map := fieldMap o.format (unpackElems o.format (fit (denseSize o.format) d.body)) d.scale }
  | 1 => { w with
      header := d.body.take 64, body := d.body.drop 64, poisoned := d.poison || (FrcHdr.ofBytes (d.body.take 64)).poisoned }
  | 2 =>
    let h := ZfcHdr.ofBytes d.body
    if h.nfields = 0 && !h.poisoned && !d.poison then { w with body := [] }
    else { w with map := (zfcUnpack o.format d.body).2, poisoned := d.poison || h.poisoned }
  | _ => w

/-- WR_REQ (R206, R419, R438, R468): the home takes a plate write, or says that it is not the home. -/
def execWrReq (p : SliceNo) (src : Requester) (oid : BitVec 40) (plate : BitVec 24) (data : PlateWords) (s : State) : Outcome :=
  let ack (st : BitVec 4) (h : HomeWord) : State := s.ackTo src (unitPs p) st oid plate h
  let take (q : SliceNo) (o : ObjRec) : State :=
    if s.keyLoaded q o.key then s.receiveWrite q { travelled o plate data with src := some src } else ack fsUnreachable noHome
  guarded (s.homeLive p && s.ephLive) s
    (if s.isHalted (domainOf oid) then ack fsHalted noHome
    else match s.eph.serves oid (spanOf plate.toNat) with
      | .notHome => ack fsNotHome (s.newHome oid (spanOf plate.toNat))
      | .at q _ e => take q e.obj
      | .unwritten q o => take q o)

/-- The F32 values of a contribution (R444). -/
def redValues (rcc : Nat) (data : List Byte) : List F32 :=
  match rcc with
  | 0 => (unpackElems .h16 (fit 32768 data)).map fun c => elemF32 .h16 c 0
  | 1 => rccDecode 4 data
  | _ => rccDecode 8 data

/-- RED_DATA (R443, R446, R468): the sum home takes a contribution; an archive node answers NOT_COMPUTE. -/
def execRedData (p : SliceNo) (src : Requester) (oid : BitVec 40) (plate : BitVec 24) (rcc : BitVec 2) (data : List Byte) (poison : Bool)
    (s : State) : Outcome :=
  let ack (st : BitVec 4) (h : HomeWord) : State := s.ackTo src (unitPs p) st oid plate h
  let take (q : SliceNo) (o : ObjRec) : State :=
    if o.code != 0 || rcc = 3 then ack fsMismatch noHome
    else if !s.keyLoaded q o.key then ack fsUnreachable noHome
    else s.onSlice q fun x => { x with home := { x.home with sums := x.home.sums ++ [{
      obj := o, plate := plate, src := src, vals := redValues rcc.toNat data, poison := poison }] } }
  guarded (s.homeLive p && s.ephLive) s
    (if (match s.conf (psIsl p) with | some c => c.archive | none => false) then ack fsNotCompute noHome
    else if s.isHalted (domainOf oid) then ack fsHalted noHome
    else match s.eph.serves oid (spanOf plate.toNat) with
      | .notHome => ack fsNotHome (s.newHome oid (spanOf plate.toNat))
      | .at q _ e => take q e.obj
      | .unwritten q o => take q o)

/-- SIG (R350): the target CMD changes its counter and acknowledges. -/
def execSig (src : Requester) (set : Bool) (counter : BitVec 8) (value : BitVec 32) (s : State) : Outcome :=
  guarded (s.awake cmdIsl) s ((s.onCmd fun c => c.signal set counter value).ackTo src unitCmd fsOk 0 0)

/-! At a requester: what a request that does not succeed leaves. -/

/-- The slice of a unit code. -/
def sliceOfUnit (u : BitVec 6) : SliceNo := Fin.ofNat 32 u.toNat

/-- A plate that slice p's Eyepiece awaits will not come. -/
def State.readFailed (s : State) (p : SliceNo) (id : Nat) (st : BitVec 4) : State :=
  match (s.slice p).eye.wantOf id with
  | none => s
  | some (t, w) => match w.use with
    | .heal oid k => (s.healStored oid k false).onSlice p fun x => { x with eye := x.eye.wantDone id }
    | _ => s.failRun (some t.run) (statusOf st)

/-- Whether a want or a write is one of a group of spans. -/
def inGroup (oid : BitVec 40) (span : Nat) (o : ObjRec) (k : BitVec 24) : Bool := o.oid == oid && spanOf k.toNat / 8 == span / 8

/-- What waits for the placement of a group of spans will not get it (R414, R429). -/
def State.lookupFailed (s : State) (oid : BitVec 40) (span : Nat) (st : BitVec 4) : State :=
  let s0 := s.onEph fun h => { h with
    refused := (h.refused.filter fun e => e.1 != oid) ++ [(oid, st)]
    lookedUp := h.lookedUp.filter fun e => !(e.1 == oid && e.2 == span / 8) }
  (List.finRange 32).foldl (fun s p =>
    let x := s.slice p
    let heads := x.eye.streams.filterMap fun t => match t.wants with
      | w :: _ => if inGroup oid span w.obj w.plate then some (t.run, w) else none | [] => none
    let s1 := heads.foldl (fun (s : State) e => match e.2.use with
      | .heal o k => s.healStored o k false
      | _ => s.failRun (some e.1) (statusOf st)) s
    let s2 := match x.storeNext with
      | some (e, _) => if inGroup oid span e.obj e.plate then
          (if e.heal then s1.healStored e.obj.oid e.plate false else s1.failRun e.run (statusOf st)) else s1
      | none => s1
    let away (w : PWrite) : Bool := inGroup oid span w.obj w.plate && w.src.isNone && (s.eph.serves oid (spanOf w.plate.toNat)).slice?.isNone
    let lost := x.home.inq.filter away
    let s3 := s2.onSlice p fun x => { x with home := { x.home with inq := x.home.inq.filter fun w => !away w } }
    lost.foldl (fun s w => (s.failRun w.run (statusOf st)).releaseSlot w.slot) s3) s0

/-- A request of a residency command has been answered (R439, R440): with all of them answered the command ends; where it has freed every
span, the object itself goes first (log entry 21). -/
def State.jobAnswered (s : State) (id : Nat) (st : BitVec 4) : State :=
  match s.eph.jobs.find? fun j => j.id == id with
  | none => s
  | some j =>
    let j1 := { j with left := j.left - 1, status := if j.status = 0 then st else j.status }
    let put (t : State) (j : CmdxJob) : State := t.onEph fun h => { h with jobs := mapIf (fun k => k.id == id) (fun _ => j) h.jobs }
    if j1.left != 0 then put s j1
    else if j1.whole && j1.status = 0 then
      match s.eph.map.obj j.oid with
      | none => (put s j1).jobEnd j1
      | some e =>
        let s1 := (s.onEph fun h => { h with map := h.map.apply (removeWords e.obj) }).mirrorOut [removeWords e.obj] [] [] j.oid 0
        (put s1 { j1 with left := 1, whole := false }).jobRequest ptFree j.oid (spanCount (ObjRec.ofWords e.obj)) e.cblock 0 (.freeSpan id)
    else (put s j1).jobEnd j1

/-- An object is registered (R422): its command may write, and its creating block makes the OBJECT entry. -/
def State.registered (s : State) (run : Nat) (w : RecWords) : State :=
  match s.findRun run with
  | none => s
  | some r =>
    let o := ObjRec.ofWords w
    let il := s.interleaveOf s.block
    let s1 := s.onRun run fun r => { r with registered := true }
    if r.cblock != s.block || (s.eph.objectEnt o.oid).isSome then s1
    else (s1.onEph fun h => { h with dir := h.dir ++ [{
      obj := o, kind := .object, stamp := s.now ephIsl, icount := il.1, islice := il.2 }] }).mirDir

/-- A plate write that a home did not take is tried again at another, or waits for the home to be looked up (R420, R438). -/
def State.rewrite (s : State) (r : FabReq) (run : Option Nat) (slot : Option (SliceNo × Fin 64)) (newHome : HomeWord) : State :=
  let p := sliceOfUnit r.unit
  match s.recordOf r.oid with
  | none => (s.failRun run stUnreachable).releaseSlot slot
  | some o =>
    let w : PWrite := { travelled o r.idx r.data with run := run, slot := slot, tries := r.tries + 1 }
    if newHome.valid && newHome.block != s.block then
      s.sendWrite p { block := newHome.block, slice := Fin.ofNat 32 newHome.slice.toNat } w
    else s.receiveWrite p w

/-- A request has come to nothing, with the status of its answer or UNREACHABLE after its timeouts (R429, R436); a domain that an
answer calls halted is halted here too (R468). -/
def State.reqFails (s : State) (r : FabReq) (st : BitVec 4) : State :=
  let s0 := if st = fsHalted && r.oid != 0 then s.haltDomain (domainOf r.oid) false else s
  let span := r.idx.toNat
  match r.why with
  | .read p id => s0.readFailed p id st
  | .write run slot _ =>
    let s1 := (s0.failRun run (statusOf st)).releaseSlot slot
    if run.isNone then s1.healStored r.oid r.idx false else s1
  | .lookup => s0.lookupFailed r.oid span st
  | .register run _ => s0.failRun (some run) (statusOf st)
  | .object _ => s0.onEph fun h => { h with refused := (h.refused.filter fun e => e.1 != r.oid) ++ [(r.oid, st)] }
  | .cmdx run | .signal run => (s0.failRun (some run) (statusOf st)).onRun run fun r => { r with waiting := false }
  | .reduce run => s0.failRun (some run) (statusOf st)
  | .mirror .. => { s0 with reqs := s0.reqs ++ [{ r with again := true }] }
  | .mvStart no => match s0.eph.moves.find? fun m => m.no == no with
    | some m => (s0.bump ephIsl ephMovesAbort).moveEnds m (if st = fsHalted then st else fsUnreachable) 0
    | none => s0
  | .freeSpan job | .pinSpan job => s0.jobAnswered job st
  | .evictReq p _ _ => s0.victimAnswered p false
  | .place oid sp => match s0.placeSlice oid sp with | some p => s0.placeAnswered p oid sp false | none => s0
  | .join => s0
  | .header k => s0.healHeader r.oid k r.idx.toNat none
  | .copyDone => match s0.eph.srcs.find? fun m => m.oid == r.oid && m.span.toNat == spanOf span with
    | some m => s0.moveFails m.no.toNat | none => s0
  | .commit => match s0.eph.srcs.find? fun m => m.oid == r.oid && m.span.toNat == span with
    | some m => if m.failed then s0.moveLeft m noHome else s0.onSrc m.no fun m => { m with failed := true, committed := false }
    | none => s0

/-- A home has answered NOT_HOME (R420): the request goes to the home it names, or the home is found again; the ninth such answer
ends the attempt UNREACHABLE. -/
def State.notHome (s : State) (r : FabReq) (newHome : HomeWord) : State :=
  let span := spanOf r.idx.toNat
  let s0 := (s.bump ephIsl ephNotHome).forgetHome r.oid span r.dest
  let other := newHome.valid && newHome.block != s.block
  let toHome (r : FabReq) : FabReq := { r with
    dest := newHome.block, dunit := BitVec.ofNat 6 newHome.slice.toNat, tries := r.tries + 1, again := false }
  if 9 ≤ r.tries + 1 then s0.reqFails r fsUnreachable
  else match r.why with
    | .write run slot _ => s0.rewrite r run slot newHome
    | .read p id =>
      if other then s0.request (toHome r)
      else
        let back (e : Eye) : Eye := match e.wantOf id with
          | some (t, w) => e.onStream t.id fun t => { t with
              wants := { w with tries := r.tries + 1 } :: t.wants, asked := t.asked.filter fun v => v.id != id }
          | none => e
        (s0.onSlice p fun x => { x with eye := back x.eye }).eyeAsk p
    | .reduce _ | .header _ =>
      if other then s0.request (toHome r)
      else match s0.homeOf r.oid span with
        | some h => s0.request { r with dest := h.block, dunit := unitPs h.slice, tries := r.tries + 1 }
        | none => s0.reqFails r fsUnreachable
    | _ => s0.reqFails r fsUnreachable

/-! Answers. -/

/-- A plate that has come from a home elsewhere, as it reaches the Eyepiece. -/
def arrivedFrom (w : Want) (d : PlateWords) : Arrived :=
  if d.body.isEmpty then { id := w.id, body := [], unwritten := true, marked := d.poison }
  else if w.obj.code = 1 then
    { id := w.id, body := d.body.drop 64, header := d.body.take 64, scale := d.scale, marked := d.poison }
  else { id := w.id, body := d.body, scale := d.scale, marked := d.poison, lines := if w.obj.code = 2 then d.body.length / 512 else 0 }

/-- RD_RSP (R419, R420, R428, R429): the reader takes the plate, or pursues the new home, or ends its command. -/
def execRdRsp (p : SliceNo) (tid : BitVec 16) (status : BitVec 4) (newHome : HomeWord) (plate : PlateWords) (s : State) : Outcome :=
  guarded (s.awake (psIsl p)) s
    (match s.findReq (unitPs p) tid with
    | none => s.lateAnswer
    | some r =>
      let t := s.dropReq r.unit r.tid
      match r.why with
      | .read q id =>
        if status = fsOk then
          match (t.slice q).eye.wantOf id with
          | none => t
          | some (_, w) => t.onSlice q fun x => { x with eye := { x.eye with arrived := x.eye.arrived ++ [arrivedFrom w plate] } }
        else if status = fsNotHome then t.notHome r newHome
        else t.reqFails r status
      | .header k =>
        if status = fsOk then t.healHeader r.oid k r.idx.toNat (if plate.body.isEmpty then none else some (plate.body.take 64))
        else if status = fsNotHome then t.notHome r newHome
        else t.reqFails r status
      | _ => s.lateAnswer)

/-- LOOKUP_RSP (R420, R428, R429): the entries are cached; where they name this block, which is not the home, the manager is asked again, up
to the ninth time; an answer that leaves no home to go to ends what waited for it. -/
def execLookupRsp (tid : BitVec 16) (status : BitVec 4) (object override : List W64) (s : State) : Outcome :=
  guarded s.ephLive s
    (match s.findReq unitEph tid with
    | none => s.lateAnswer
    | some r =>
      let t := s.dropReq r.unit r.tid
      let span := r.idx.toNat
      if r.why != .lookup then s.lateAnswer
      else if status != fsOk then t.reqFails r status
      else
        let t1 := t.onEph fun h => h.fillCache (mapObjOf object) (mapOvrOf override)
        let home := t1.eph.cache.home r.oid span
        -- the home it names is this block, which does not serve the span: a NOT_HOME of its own
        let stale := home.map (·.block) == some s.block && (t.eph.serves r.oid span).slice?.isNone && (t.eph.movedTo r.oid span).isNone
        if home.isNone || (stale && 8 ≤ r.tries) then t1.lookupFailed r.oid span fsUnreachable
        else if stale then ((t1.forgetHome r.oid span s.block).request { r with tries := r.tries + 1, again := false }).bump ephIsl ephLookups
        else t1)

/-- OBJ_RSP (R201, R422): the record asked for, or the reason why there is none. -/
def execObjRsp (tid : BitVec 16) (status : BitVec 4) (record : RecWords) (s : State) : Outcome :=
  guarded s.ephLive s
    (match s.findReq unitEph tid with
    | none => s.lateAnswer
    | some r =>
      let t := s.dropReq r.unit r.tid
      match r.why with
      | .object _ =>
        if status = fsOk then
          t.onEph fun h => { h with queried := (h.queried.filter fun w => (ObjRec.ofWords w).oid != r.oid) ++ [record] }
        else t.reqFails r status
      | _ => s.lateAnswer)

/-- CMDX_RESULT (R345, R429, R436): the manager's result ends a residency command. -/
def execCmdxResult (tid : BitVec 16) (status : BitVec 4) (plates : BitVec 24) (s : State) : Outcome :=
  guarded (s.awake cmdIsl) s
    (match s.findReq unitCmd tid with
    | none => s.lateAnswer
    | some r =>
      let t := s.dropReq r.unit r.tid
      match r.why with
      | .cmdx run =>
        let t1 := t.onRun run fun r => { r with plates := r.plates + plates.toNat, waiting := false }
        if status = fsOk then t1 else t1.reqFails r status
      | _ => s.lateAnswer)

/-- What an answer OK does for whom it answers. -/
def State.reqDone (s : State) (r : FabReq) (plates : Nat) : State :=
  match r.why with
  | .write run slot poisoned =>
    let s1 := s.releaseSlot slot
    (match run with
    | some id => s1.onRun id fun c => { c with
        plates := c.plates + 1, poisoned := c.poisoned || poisoned, stored := c.stored ++ [(r.oid, r.idx.toNat)] }
    | none => s1.healStored r.oid r.idx true)
  | .register run w => s.registered run w
  | .signal run => s.onRun run fun c => { c with waiting := false }
  | .reduce run => s.onRun run fun c => { c with plates := c.plates + 1 }
  | .mirror moves answers =>
    (s.endStep7 s.eph.step7At.isSome).mirrored moves answers r.oid r.idx
  | .freeSpan job | .pinSpan job => s.jobAnswered job fsOk
  | .evictReq p _ _ => s.victimAnswered p true
  | .place oid sp => match s.placeSlice oid sp with | some p => s.placeAnswered p oid sp true | none => s
  | .join =>
    let c := s.ephConf
    let acts := r.dest == c.manager || s.eph.acting.getLsbD c.domain.toNat
    (s.endStep7 (c.role == 0 && acts)).onEph fun h => { h with
      joinAck := (h.joinAck.filter (· != r.dest)) ++ [r.dest]
      occAt := if h.joinAck.isEmpty then s.now ephIsl else h.occAt }
  | .cmdx run => s.onRun run fun c => { c with plates := c.plates + plates, waiting := false }
  | .mvStart _ | .read .. | .lookup | .object _ | .copyDone | .commit | .header _ => s

/-- FABRIC_ACK (R427-R429): a requester takes the ACK of one of its requests. -/
def execFabricAck (unit : BitVec 6) (tid : BitVec 16) (status : BitVec 4) (newHome : HomeWord) (plates : BitVec 24) (s : State) : Outcome :=
  let up := match unitIsl unit with | some k => s.awake k | none => false
  guarded up s
    (match s.findReq unit tid with
    | none => s.lateAnswer
    | some r =>
      let t := s.dropReq r.unit r.tid
      if status = fsOk then
        t.reqDone r plates.toNat
      else if status = fsNotHome && (r.ptype == ptWrReq || r.ptype == ptRdReq || r.ptype == ptRedData) then t.notHome r newHome
      else t.reqFails r status)

/-! Timeouts (R436). -/

/-- Whether a type of request is sent again once. -/
def reissues (pt : Nat) : Bool :=
  pt == ptRdReq || pt == ptWrReq || pt == ptLookup || pt == ptObjReq || pt == ptRegister || pt == ptCmdx

/-- Whether a request goes to the manager of its object's domain. -/
def toManager (pt : Nat) : Bool :=
  pt == ptLookup || pt == ptObjReq || pt == ptRegister || pt == ptCmdx || pt == ptCommit || pt == ptEvictReq

/-- REQUEST_TIMEOUT (R436, R478): a request unanswered for 2^22 cycles of its unit is sent once more with a new TID, a manager request to
the other block of the pair, which is from then on taken to act; after the last timeout it has come to nothing. -/
def execRequestTimeout (unit : BitVec 6) (tid : BitVec 16) (s : State) : Outcome :=
  match s.findReq unit tid with
  | none => .next s
  | some r =>
    let up := match unitIsl unit with | some k => s.awake k | none => false
    guarded (up && r.ptype != ptMirror && decide (2 ^ 22 ≤ elapsed (s.unitNow unit) r.at_)) s
      (let t := (s.dropReq r.unit r.tid).bump ephIsl ephTimeouts
      let d := domainOf r.oid
      let e := s.mgrEntry d
      if toManager r.ptype && !r.again && e.valid then
        (t.onEph fun h => { h with acting := setBit h.acting d true }).request { r with
          again := true, dest := if r.dest = e.manager then e.mirror else e.manager }
      else if reissues r.ptype && !r.again then t.request { r with again := true }
      else
        -- the loss of both managers halts the domain in Consistent mode (R467)
        let lost := if toManager r.ptype && r.again && s.consistent then t.haltDomain d false else t
        lost.reqFails r fsUnreachable)

end Sys2Proof.Machine
end

