-- ==== Sys2Proof/Machine/FabRx.lean ====
section
/-! DEFINITION. Packets between the fabric and the units: arrival and relaying, and the way from the per-peer queues to the
link groups (R424-R434). -/

namespace Sys2Proof.Machine

/-- The words of a packet that goes on: HOPS raised by one (R433). -/
def raiseHops (ws : List PWord) : List PWord :=
  match ws with
  | [] => []
  | p :: r => { p with w := p.w + BitVec.ofNat 64 (2 ^ 8) } :: r

/-- A packet that a link group has brought, as its quadrant takes it (R433): one for another block has HOPS raised by one. -/
def State.taken (s : State) (v : Fin 8) (p : Pkt) : Pkt :=
  { p with
    cargo := .fabric (v.val / 2)
    words := if (pktHead p.words).dest = s.block then p.words else raiseHops p.words }

/-- Where a packet goes that a link group has brought (R433): nowhere once HOPS would exceed 6. -/
def State.legIn (s : State) (x : QuadNo) (v : Fin 8) (p : Pkt) : Leg :=
  if (pktHead p.words).dest != s.block && 6 < (pktHead p.words).hops + 1 then .lost xqHopDrop
  else s.leg x (s.taken v p) v.val (xqIsl x)

/-- FABRIC_PACKET_ARRIVE (R433, R434): the quadrant takes the packet at the front of the queue of local link group j, channel v, and
sends it on to its unit or to the per-peer queue of its block. -/
def execFabricPacketArrive (x : QuadNo) (j : Fin 4) (v : Fin 8) (parity : ParityObs) (s : State) : Outcome :=
  let q := 0x2020 + 16 * j.val + 8 + v.val
  let c := (s.quad x).queue q
  match c.packets with
  | [] => .next s
  | p :: _ =>
    guarded (s.mayLeg x (s.legIn x v p) && p.visible && !c.wedged && s.legOpen (s.legIn x v p) p) s
      (let r := s.readPacket x q parity
      match r.1 with
      | none => r.2
      | some p =>
        let l := s.legIn x v p
        let s1 := r.2.goOn x (s.taken v p) l
        match l with
        | .queue .. => if (pktHead p.words).dest = s.block then s1 else s1.bump (xqIsl x) xqRelayPkts
        | _ => s1)

/-- Whether a link group is DOWN or SHUT (R431). -/
def State.groupDown (s : State) (g : Nat) : Bool :=
  let i : GroupNo := Fin.ofNat 16 g
  !s.awake (lgIsl i) || (s.group i).st == .down

/-- The group, the direction and whether it is the alternate, by which packets for a block now leave; none where they wait
(R431). -/
def State.firstHop (s : State) (e : BitVec 32) : Option (GroupNo × Nat × Bool) :=
  if !rtValid e then none
  else if !s.groupDown (rtLg e) then some (Fin.ofNat 16 (rtLg e), rtDir e, false)
  else if rtAltEn e then some (Fin.ofNat 16 (rtAltLg e), rtAltDir e, true)
  else none

/-- Where the packets of per-peer queue q of quadrant x go now: the link group, whether it is the alternate, and the next queue;
none where they wait (R431, R432). -/
def State.peerLeg (s : State) (x : QuadNo) (q : Nat) : Option (GroupNo × Bool × Leg) :=
  let b : BitVec 12 := BitVec.ofNat 12 (4 * (q / 8) + x.val)
  (s.firstHop (s.routeOf x b)).map fun h => (h.1, h.2.2, legTo x (lgIsl h.1) (2 * (q % 8 / 2) + h.2.1))

/-- Where the packet at the front of a per-peer queue goes now; none where it must wait. -/
def State.peerNext (s : State) (x : QuadNo) (q : Nat) : Option (GroupNo × Bool × Leg) :=
  let c := (s.quad x).queue q
  match c.packets with
  | [] => none
  | p :: _ => if !p.visible || c.wedged then none else (s.peerLeg x q).filter fun n => s.legOpen n.2.2 p

/-- The per-peer queues of channel v of a pool that hold a packet, in the order of service after the peer served last. -/
def Quad.peersAfter (d : Quad) (v : Fin 8) : List Nat :=
  let l := (d.queues.map (·.1)).filter fun q => q < 0x2000 && q % 8 == v.val && !(d.queue q).packets.isEmpty
  let last := d.lastPeer[v]
  (l.filter fun q => last < q / 8) ++ l.filter fun q => !(last < q / 8)

/-- PEER_QUEUE_DISPATCH (R431, R432): round robin among the peers whose next packet can open a packet in the queue of its
route, the quadrant moves one whole packet there. -/
def execPeerQueueDispatch (x : QuadNo) (v : Fin 8) (parity : ParityObs) (s : State) : Outcome :=
  match ((s.quad x).peersAfter v).find? fun q => (s.peerNext x q).isSome with
  | none => .next s
  | some q =>
    match s.peerNext x q with
    | none => .next s
    | some n =>
      guarded (s.begins (xqIsl x)) s
        (let r := s.readPacket x q parity
        let s1 := r.2.onQuad x fun d => { d with lastPeer := d.lastPeer.set v (q / 8) }
        match r.1 with
        | none => s1
        | some p =>
          let s2 := s1.goOn x { p with cargo := .outbound n.1 } n.2.2
          if n.2.1 then s2.bump (xqIsl x) xqAltUsed else s2)

/-- The cells of the producer's next open on a queue (R31): of the packet its outbox has for it; of the packet a link group has begun to
receive; of the packets a quadrant has to move into it; of one word where none is in sight. -/
def State.nextOpen (s : State) (x : QuadNo) (q : Nat) : Nat :=
  let k := queueProducer x q
  let out := (((s.isl k).outbox.filter fun p => p.quad == x && p.queue.toNat == q).take 1).map fun p => cellsFor p.words.length
  let link := if 0x2020 ≤ q && q < 0x2060 && 8 ≤ q % 16 then
      let b := ((s.group (Fin.ofNat 16 (4 * x.val + (q - 0x2020) / 16))).chans[Fin.ofNat 8 (q % 8)]).slots.flatten
      if b.length < 8 then [] else [cellsFor (fld (leWord b) 31 16)]
    else []
  let y := quadOf k
  let fronts := if k != xqIsl y then [] else (s.quad y).queues.filterMap fun e => e.2.packets.head?.bind fun p =>
    let l := if e.1 < 0x2000 then (s.peerLeg y e.1).map (·.2.2)
      else if queueOwner y e.1 != xqIsl y then none
      else if 0x2020 ≤ e.1 && e.1 < 0x2060 then some (s.legIn y (Fin.ofNat 8 (e.1 % 8)) p)
      else some (s.leg y p (pktChannel e.1 p) (xqIsl y))
    if l = some (.queue x q) then some p.cells.length else none
  (out ++ link ++ fronts).foldl max 1

end Sys2Proof.Machine
end

