-- ==== Sys2Proof/Machine/Arrive.lean ====
section
/-! DEFINITION. PACKET_CONSUME: a packet reaches the island it is for, which does what the row of its type says (R33, R39, R154, R427, R486). -/

namespace Sys2Proof.Machine

/-- The state that a command leaves. -/
def ran (o : Outcome) (s : State) : State := match o with | .next t => t | _ => s

/-- Word i of a fabric packet after word 2 (R427). -/
def Pkt.w (p : Pkt) (i : Nat) : W64 := ((p.words[i + 3]?).map (·.w)).getD 0
/-- The words of a packet after word 2, from word i of them on, as bytes. -/
def Pkt.bytesFrom (p : Pkt) (i : Nat) : List Byte := wordsBytes ((p.words.drop (i + 3)).map (·.w))
/-- A home word as its fields (R427). -/
def homeWordOf (w : W64) : HomeWord := { valid := bitAt w 31, slice := bits 5 w 12, block := bits 12 w 0 }

/-- The packet with the scale line of a plate, as it waits in an inbox: the one that came on the same queue for the same read or
write, or with the same head (R154, R427). -/
def isScaleOf (q : BitVec 16) (p : Pkt) (e : BitVec 16 × Pkt) : Bool :=
  e.1 == q && match p.cargo, e.2.cargo with
  | .plate t i .., .scale u j => t == u && i == j
  | .write t i _, .scale u j => t == u && i == j
  | .fabric _, .fabric _ =>
    let a := pktHead p.words
    let b := pktHead e.2.words
    b.ptype == ptScale && a.src == b.src && a.sunit == b.sunit && a.tid == b.tid && a.word2 == b.word2
  | _, _ => false

/-- The bytes of the scale line that has come ahead of a plate: of a fabric packet, after its head. -/
def scaleBytes (e : BitVec 16 × Pkt) : List Byte :=
  match e.2.cargo with | .fabric _ => e.2.bytesFrom 0 | _ => wordsBytes (e.2.words.map (·.w))

/-- A plate that came in a packet, from word i after word 2 on, with its scale line (R33, R154). -/
def Pkt.plateAt (p : Pkt) (i : Nat) (scale : Option (BitVec 16 × Pkt)) : PlateWords :=
  { body := p.bytesFrom i, scale := match scale with | some e => scaleBytes e | none => []
    poison := p.poisoned || match scale with | some e => e.2.poisoned | none => false }

/-- Whether a part of a moving frame can be taken: its move is known here, or what its object is, and no frame is being sought. -/
def State.mvReady (s : State) (oid : BitVec 40) (span : Nat) : Bool :=
  (s.eph.dsts.any fun d => d.obj.oid == oid && d.span.toNat == span) ||
    (!(s.eph.places.any fun q => q.obj.oid == oid && q.span == span && q.incoming.isSome) && s.known oid != .unknown)

/-- Whether the unit can take a packet now; else the packet waits in its queue. -/
def State.canTake (s : State) (p : Pkt) : Bool :=
  match p.cargo with
  | .fabric _ =>
    let h := pktHead p.words
    let q := sliceOfUnit h.dunit
    let oid : BitVec 40 := bits 40 h.word2 24
    if h.ptype = ptRdReq then s.homeLive q && s.ephLive && !s.parkBlocks oid (bits 24 h.word2 0)
    else if h.ptype = ptWrReq || h.ptype = ptRedData then s.homeLive q && s.ephLive
    else if h.ptype = ptMvData then s.homeLive q && s.ephLive && s.mvReady oid (spanOf (fld h.word2 23 0))
    else if h.ptype = ptFree then s.ephLive && s.eph.leaveFits oid (fld h.word2 17 0) 0
    else if h.ptype = ptAck && h.arg = 2 then s.ephLive && s.ackFits oid (fld h.word2 17 0) (homeWordOf (p.w 0))
    else h.dunit != unitEph || s.ephLive
  | _ => true

/-- What a packet that cannot be taken yet asks for: the record of a moving frame's object (R437). -/
def State.askRecord (s : State) (p : Pkt) : State :=
  let h := pktHead p.words
  let oid : BitVec 40 := bits 40 h.word2 24
  match p.cargo with
  | .fabric _ => if h.ptype = ptMvData && s.ephLive && s.known oid == .unknown then (s.lookup oid (spanOf (fld h.word2 23 0))).2 else s
  | _ => s

/-- What the unit that a fabric packet is for makes of it: what the row of its type says. CMDX keeps no opcode in its words, and is left
to its row (log entry 114). -/
def State.takeFabric (s : State) (p : Pkt) (scale : Option (BitVec 16 × Pkt)) : Option State :=
  let h := pktHead p.words
  let src : Requester := { block := h.src, unit := h.sunit, tid := h.tid }
  let oid : BitVec 40 := bits 40 h.word2 24
  let k : BitVec 24 := bits 24 h.word2 0
  let span : BitVec 18 := bits 18 h.word2 0
  let u := sliceOfUnit h.dunit
  let eight (i : Nat) : List W64 := (List.range 8).map fun j => p.w (i + j)
  let rec_ : RecWords := { w0 := p.w 0, w1 := p.w 1 }
  let go (o : Outcome) : Option State := some (ran o s)
  if h.ptype = ptRdReq then go (execRdReq u src oid k s)
  else if h.ptype = ptRdRsp then
    let d := if h.status = fsOk then p.plateAt 0 scale else { body := [] }
    go (execRdRsp u h.tid h.status (if h.status = fsOk then noHome else homeWordOf (p.w 0)) d s)
  else if h.ptype = ptWrReq then go (execWrReq u src oid k (p.plateAt 0 scale) s)
  else if h.ptype = ptLookup then go (execLookup src oid span s)
  else if h.ptype = ptLookupRsp then go (execLookupRsp h.tid h.status (eight 0) (eight 8) s)
  else if h.ptype = ptRegister then go (execRegister src rec_ s)
  else if h.ptype = ptObjReq then go (execObjReq src oid s)
  else if h.ptype = ptObjRsp then go (execObjRsp h.tid h.status rec_ s)
  else if h.ptype = ptMvStart then go (execMvStart src oid span (homeWordOf (p.w 0)) h.arg s)
  else if h.ptype = ptMvData then
    go (execMvData u src oid k (bits 4 (p.w 0) 0) (bits 16 (p.w 0) 16) (p.plateAt 1 scale) s)
  else if h.ptype = ptCommit then go (execCommit src oid span (homeWordOf (p.w 0)) (h.arg.getLsbD 0) h.status s)
  else if h.ptype = ptMirror then go (execMirror src [eight 0, eight 8] s)
  else if h.ptype = ptFree then go (execFree src oid span s)
  else if h.ptype = ptPinSet then go (execPinSet src oid span (h.arg.getLsbD 0) s)
  else if h.ptype = ptEvictReq then go (execEvictReq src oid span (bits 2 (p.w 0) 0) s)
  else if h.ptype = ptJoin then
    go (execJoin src (bits 4 (p.w 0) 60) (bits 8 (p.w 0) 48) ((p.bytesFrom 1).take 32) (put (fld (p.w 0) 47 0) 0) s)
  else if h.ptype = ptOcc then go (execOcc src ((List.range 32).map p.w) (p.w 32) s)
  else if h.ptype = ptSig then go (execSig src (bitAt (p.w 0) 50) (bits 8 (p.w 0) 32) (bits 32 (p.w 0) 0) s)
  else if h.ptype = ptRedData then
    go (execRedData u src oid k (bits 2 (p.w 0) 0) (p.plateAt 1 scale).body (p.plateAt 1 scale).poison s)
  else if h.ptype = ptAck then
    let home := homeWordOf (p.w 0)
    let plates : BitVec 24 := bits 24 (p.w 1) 0
    go (if h.arg = 1 then execCopyDone src oid span h.status home s
      else if h.arg = 2 then execCommitAck oid span home s
      else if h.arg = 3 then execCmdxResult h.tid h.status plates s
      else execFabricAck h.dunit h.tid h.status home plates s)
  else none

/-- A plate that has come over the crossing queues as the Eyepiece takes it. -/
def arrivedPkt (p : Pkt) (scale : Option (BitVec 16 × Pkt)) (id : Nat) (header badLine marked unwritten : Bool) (lines : Nat) :
    Arrived :=
  let b := wordsBytes (p.words.map (·.w))
  let poison := marked || p.poisoned || match scale with | some e => e.2.poisoned | none => false
  if unwritten then { id := id, body := [], marked := poison, unwritten := true }
  else {
    id := id, body := if header then b.drop 64 else b, header := if header then b.take 64 else []
    scale := match scale with | some e => scaleBytes e | none => [], badLine := badLine, marked := poison, lines := lines }

/-- The command that a plate packet brings a plate for; of an answer of another block, only where its words fail in this block's own
queue (log entry 137). -/
def State.plateRun (s : State) (p : Pkt) : Option Nat :=
  match p.cargo with
  | .plate dst id .. => (s.slice dst).eye.runOf id
  | .write _ _ w => w.run
  | .fabric _ =>
    let h := pktHead p.words
    if h.ptype != ptRdRsp || p.poisonIn then none
    else match s.findReq h.dunit h.tid with
      | some r => (match r.why with | .read q id => (s.slice q).eye.runOf id | _ => none)
      | none => none
  | _ => none

/-- A command whose plate comes with a word that failed in a queue takes note of it (R466). -/
def State.noteQueue (s : State) (p : Pkt) (scale : Option (BitVec 16 × Pkt)) : State :=
  let bad := p.poisoned || match scale with | some e => e.2.poisoned | none => false
  if bad then s.noteTaint (s.plateRun p).toList else s

/-- What the island that takes a packet makes of it; none where the packet is kept: a scale line until its plate comes, and words of
which the manual does not say. -/
def State.takePkt (s : State) (p : Pkt) (scale : Option (BitVec 16 × Pkt)) : Option State :=
  match p.cargo with
  | .fabric _ => s.takeFabric p scale
  | .scale .. | .words | .outbound _ => none
  | .plate dst id header _ badLine marked unwritten lines =>
    some (if ((s.slice dst).eye.runOf id).isNone then s
      else s.arrive dst (arrivedPkt p scale id header badLine marked unwritten lines))
  | .write dst _ w =>
    let d : PlateWords := {
      body := wordsBytes (p.words.map (·.w)), scale := match scale with | some e => scaleBytes e | none => []
      poison := w.poisoned || p.poisoned || match scale with | some e => e.2.poisoned | none => false }
    some (s.receiveWrite dst { travelled w.obj w.plate d with run := w.run, slot := w.slot, heal := w.heal, tries := w.tries })
  | .almanac dst isA k bad => some (s.takeAlmanac dst isA k (bad || p.poisoned) (wordsBytes (p.words.map (·.w))))
  | .image dst n gen => some (s.takeImage dst n gen (wordsBytes (p.words.map (·.w))) p.poisoned)
  | .imageAgain q n gen => some (s.imageAgain q n gen)
  | .hist q run => some (s.takeHist q run (Hist.ofWords (p.words.map (·.w))) p.poisoned)
  | .bridgeReq q id => some (s.takeBridgeReq q id p.poisoned)
  | .bridgeLine _ q id => some (s.takeBridgeLine q id (wordsBytes (p.words.map (·.w))) p.poisoned)
  | .report r => some { s with log := { s.log with arriving := s.log.arriving ++ [{ r with poisoned := r.poisoned || p.poisoned }] } }

/-- A packet read out by island k: its scale line leaves the inbox with it, and the unit acts, or keeps the packet (R33, R39, R154). -/
def State.takeIn (s : State) (k : IslandNo) (q : BitVec 16) (p : Pkt) : State :=
  let scale := (s.isl k).inbox.find? (isScaleOf q p)
  let t := match scale with | some e => s.onIsl k fun i => { i with inbox := i.inbox.erase e } | none => s
  match (t.noteQueue p scale).takePkt p scale with
  | some u => u
  | none => t.onIsl k fun i => { i with inbox := i.inbox ++ [(q, p)] }

/-- Whether an island takes the packets of a queue for itself, by PACKET_CONSUME: a slice or a service island. A quadrant and a link group
read theirs by QUADRANT_FORWARD, FABRIC_PACKET_ARRIVE, PEER_QUEUE_DISPATCH and FLIT_SEND, and software its own by CQ_READ and LOG_READ. -/
def takesFor (k : IslandNo) (q : Nat) : Bool := (k.val < 32 || 52 ≤ k.val) && q < 0x2100

/-- PACKET_CONSUME (R39, R33, R35): the consumer reads the front packet in order and frees its cells, and does what the packet asks; one that the
unit cannot take yet stays. -/
def execPacketConsume (x : QuadNo) (q : BitVec 16) (parity : ParityObs) (s : State) : Outcome :=
  let c := (s.quad x).queue q.toNat
  let owner := queueOwner x q.toNat
  match c.packets with
  | [] => .next s
  | p :: _ =>
    guarded (s.awake owner && s.awake (xqIsl x) && takesFor owner q.toNat && p.visible && !c.wedged) s
      (if !s.canTake p then s.askRecord p else
      let r := s.readPacket x q.toNat parity
      match r.1 with
      | none => r.2
      | some p => r.2.takeIn owner q p)

end Sys2Proof.Machine
end

