-- ==== Sys2Proof/Machine/Eyepiece.lean ====
section
/-! DEFINITION. The Eyepiece: contexts, admission, decode lanes, the table cache (R227-R237, R453). -/

namespace Sys2Proof.Machine

/-- Whether slice p's datapath works. -/
def State.pathLive (s : State) (p : SliceNo) : Bool := s.awake (psIsl p) && !(s.slice p).dataShut

/-- The stream that has waited longest and holds no context (R228); streams that move stored forms hold none, and commands for the twin
of a joined pair's lead wait (R292). -/
def Slice.ctxWaiting (x : Slice) : Option EStream :=
  x.eye.streams.find? fun t => !x.eye.ctxs.toList.contains (some t.id) && !t.wants.isEmpty && !t.stored && x.takesRun t.run

/-- CONTEXT_SWITCH (R228): a context that is free, or whose stream has no plate in flight, passes to the stream that has
waited longest; the stream it leaves joins the back of the wait. With none waiting, the context's stream asks on. -/
def execContextSwitch (p : SliceNo) (ctx : Fin 16) (s : State) : Outcome :=
  let e := (s.slice p).eye
  let old := e.ctxs[ctx].bind fun i => e.streams.find? fun t => t.id == i
  guarded (s.pathLive p && s.running (psIsl p)) s
    (match (s.slice p).ctxWaiting with
    | none => s.eyeAsk p
    | some t =>
      if (match old with | some o => o.flying != 0 | none => false) then s.eyeAsk p
      else
        let sw (x : Slice) : Slice :=
          let moved := match old with
            | some o => (x.eye.streams.filter fun u => u.id != o.id) ++ [o] | none => x.eye.streams
          { x with eye := { x.eye with ctxs := x.eye.ctxs.set ctx (some t.id), streams := moved } }
        let s1 := s.onSlice p sw
        ((if old.isSome then s1.bump (psIsl p) psEyeSwitch else s1).eyeAsk p))

/-- Takes an arrived plate out of those that have arrived. -/
def State.takeArrived (s : State) (p : SliceNo) (id : Nat) : State :=
  s.onSlice p fun x => { x with eye := { x.eye with arrived := x.eye.arrived.filter fun a => a.id != id } }

/-- A stored form copied as it is (COPY without conversion, R264, R268): the header of a ZFC plate names its new place, a plate that
carries poison is stored (R245), an FRC plate never written is copied as such (log entry 113). -/
def State.copyForm (s : State) (p : SliceNo) (r : CmdRun) (dst : BitVec 24) (a : Arrived) : Bool × State :=
  match r.dst with
  | none => (true, s)
  | some o =>
    let poison := a.marked || a.badLine
    let h := ZfcHdr.ofBytes a.body
    let body := if o.code = 2 && a.unwritten then (if poison then poisonedZeros o.oid dst o.format else [])
      else if o.code = 2 then
        let g := { h with oid := o.oid, plate := dst, poisoned := h.poisoned || poison }
        splice a.body 0 (g.bytes.take 32)
      else if a.unwritten && o.code = 1 then []
      else if a.unwritten then List.replicate (512 * bodyLines o) 0 else a.body
    let map := if a.unwritten then 0 else if o.code = 2 then observedMap o.format a.body a.scale
      else if o.code = 0 then fieldMap o.format (unpackElems o.format a.body) a.scale else 0
    let r1 := s.homeWrite p {
      obj := o, plate := dst, body := body, header := if a.unwritten then [] else a.header, scale := a.scale, map := map, poisoned := poison, run := some r.id }
    (r1.1, if r1.1 then r1.2.onRun r.id fun r => { r with poisoned := r.poisoned || poison } else r1.2)

/-- An FRC plate at the Eyepiece (R207, R211, R237): its header is checked, and it is admitted, parked or refused. -/
def State.frcArrive (s : State) (p : SliceNo) (run : Nat) (stream : Nat) (w : Want) (a : Arrived) : State :=
  let h := FrcHdr.ofBytes a.header
  let pl := voidPlate w (fmtOf h.fmt)
  let give (ctr arg : Nat) (master : BitVec 40) (marked : Bool) : State :=
    if marked then s.eyeDeliver p run w pl master else s.eyeRefuse p run w ctr arg pl master
  if !frcHdrOk w.obj.rate a.header then
    (if a.marked then s.eyeDeliver p run w (voidPlate w .h16) 0 else s.eyeRefuse p run w psFrcHdrErr 2 (voidPlate w .h16) 0)
  else if a.badLine && !a.marked && !h.poisoned then give psEyePoisonRef 5 h.masterOid false
  else
    let c := (s.slice p).slots[Fin.ofNat 64 h.slot]
    let f : InFlight := { run := run, stream := stream, want := w, arr := a, hdr := h }
    match c.judge h.gen with
    | .letIn => s.eyeAdmit p f
    | .park => s.onSlice p fun x => { x with eye := { x.eye with flight := x.eye.flight ++ [{ f with parked := true }] } }
    | .stale => give psEyeStale 1 h.masterOid (a.marked || h.poisoned)

/-- A raw, ZFC or byte plate at the Eyepiece (R233, R237, R269): an unpack unit expands it in the step of its admission (log
entry 126). A plate that its stored form or the Ephemeris marks as poisoned is delivered poisoned. -/
def State.plainArrive (s : State) (p : SliceNo) (run : Nat) (w : Want) (a : Arrived) : State :=
  let o := w.obj
  let h := ZfcHdr.ofBytes a.body
  let buf := s.buffers run w o.format
  let master := if o.code = 0 then o.oid else 0
  let refuse (ctr arg : Nat) (pl : Plate) : State := s.eyeRefuse p run w ctr arg pl master buf
  if o.code != 2 then
    (if a.badLine && !a.marked then refuse psEyePoisonRef 5 (unpackPlate w a true)
    else s.eyeDeliver p run w (unpackPlate w a a.marked) master false 0 buf)
  else
    let lines := if a.lines = 0 then h.lines else a.lines
    match zfcCheck o.oid w.plate o.format lines a.body with
    | none =>
      if a.badLine && !a.marked && !h.poisoned then refuse psEyePoisonRef 5 (unpackPlate w a true)
      else s.eyeDeliver p run w (unpackPlate w a (a.marked || h.poisoned)) 0 (h.nfields == 0 && !h.poisoned)
        (if if w.xpose then h.bfailCol else h.bfailRow then h.bound else 0) buf
    | some e =>
      let pl := voidPlate w o.format
      if a.marked || (e == .body && h.poisoned) then s.eyeDeliver p run w pl 0 false 0 buf
      else if a.badLine then refuse psEyePoisonRef 5 pl
      else match e with
        | .header => refuse psZfcHdrErr 2 pl
        | .body => refuse psZfcCrcErr 4 pl

/-- Whether a plate that has become admissible can be admitted now (R232, R236, R252). -/
def State.hasRoom (s : State) (p : SliceNo) (run : Nat) (w : Want) (a : Arrived) : Bool :=
  if a.unwritten then s.consumerFree p w.use
  else if w.obj.code = 1 then
    let h := FrcHdr.ofBytes a.header
    match frcHdrOk w.obj.rate a.header, ((s.slice p).slots[Fin.ofNat 64 h.slot]).judge h.gen with
    | true, .letIn => (s.slice p).eye.tableRoom h.slot && s.stagingFree p run w (fmtOf h.fmt)
    | true, .park => true
    | _, _ => s.consumerFree p w.use
  else s.consumerFree p w.use && s.stagingFree p run w w.obj.format

/-- The number of the context that holds a stream; past the last where none does. -/
def Eye.ctxOf (e : Eye) (stream : Nat) : Nat := (e.ctxs.toList.findIdx? (· == some stream)).getD 16

/-- The plate that the Eyepiece admits next (R229): of those that can be admitted the first that became admissible, where a plate that
waits holds back the later ones of its context (DEDUCED, log entry 127); of several in one cycle, the one whose context follows the
last that had a plate admitted. -/
def State.nextAdmit (s : State) (p : SliceNo) : Option Nat :=
  let e := (s.slice p).eye
  let l := e.arrived.filterMap fun a => (e.wantOf a.id).bind fun t =>
    if t.2.use.stored then none else some (a, t.1.id, t.1.run, t.2)
  let waits := l.filter fun q => !s.hasRoom p q.2.2.1 q.2.2.2 q.1
  let free := l.zipIdx.filter fun q => s.hasRoom p q.1.2.2.1 q.1.2.2.2 q.1.1 &&
    !((l.take q.2).any fun r => r.2.1 == q.1.2.1 && waits.any fun v => v.1.id == r.1.id)
  match free with
  | [] => none
  | q :: _ =>
    let same := (free.map (·.1)).filter fun r => r.1.at_ == q.1.1.at_
    let after (r : Arrived × Nat × Nat × Want) : Nat := (e.ctxOf r.2.1 + 16 - e.lastCtx) % 17
    (same.foldl (fun (b : Option (Arrived × Nat × Nat × Want)) r => match b with
      | some c => if after r < after c then some r else b
      | none => some r) none).map fun r => r.1.id

/-- PLATE_ADMISSIBLE (R211, R229, R233-R237, R159, R271): a plate that has reached slice p is admitted, parked, refused or,
where no lane is needed, delivered. -/
def execPlateAdmissible (p : SliceNo) (id : Nat) (s : State) : Outcome :=
  let e := (s.slice p).eye
  match e.arrived.find? fun a => a.id == id, e.wantOf id with
  | some a, some (t, w) =>
    guarded (s.pathLive p && !s.parkFull && (if w.use.stored then s.consumerFree p w.use else s.nextAdmit p == some id)) s
      (let s0 := s.takeArrived p id
      let s1 := if w.use.stored then s0 else s0.onSlice p fun x => { x with eye := { x.eye with lastCtx := e.ctxOf t.id } }
      match w.use with
      | .copy dst =>
        (match s1.findRun t.run with
        | none => s1
        | some r =>
          if s.mustRegister (some r.id) then s.registerObject (some r.id)
          else
            let c := s1.copyForm p r dst a
            if c.1 then c.2.onSlice p (fun x => { x with eye := x.eye.wantDone id }) else { c.2 with slices := s.slices })
      | .lines j =>
        (match s1.findRun t.run with
        | none => s1
        | some r =>
          let b := fit (denseSize w.obj.format) a.body ++ (if hasScale w.obj.format && w.obj.code != 3 then fit 512 a.scale else [])
          let b := if w.obj.code = 3 then fit 32768 a.body else b
          let fin (r : CmdRun) : CmdRun := { r with
            work := r.work.filter fun q => q.src != j, poisoned := r.poisoned || a.marked || a.badLine }
          ((s1.hostWriteBytes r (bits 4 (r.entry.words.getD 2 0) 36) ((r.entry.words.getD 3 0).toNat + j * b.length) b).onRun r.id fin).onSlice
            p fun x => { x with eye := x.eye.wantDone id })
      | _ =>
        if a.unwritten then s1.eyeDeliver p t.run w (zeroPlate w w.obj.format a.marked) 0 (!a.marked)
        else if w.obj.code = 1 then s1.frcArrive p t.run t.id w a
        else s1.plainArrive p t.run w a)
  | some _, none => guarded (s.pathLive p) s (s.takeArrived p id)
  | _, _ => .next s

/-! Decode lanes. -/

/-- The lowest-numbered free lane that is not masked (R231). -/
def Eye.freeLane (e : Eye) : Option (Fin 128) :=
  (List.finRange 128).find? fun l => e.lanes[l].isNone && !e.masked.getLsbD l.val

/-- LANE_ASSIGN (R231, R232): the next sub-stream, in order of admission, takes the lowest free lane, once its plate's decode tables are
ready. -/
def execLaneAssign (p : SliceNo) (s : State) : Outcome :=
  let e := (s.slice p).eye
  match e.flight.find? fun f => !f.parked && !f.subs.isEmpty, e.freeLane with
  | some f, some l =>
    guarded (s.pathLive p && e.tcache.contains (Fin.ofNat 64 f.hdr.slot)) s
      (s.onSlice p fun x => { x with eye := { x.eye with
        lanes := x.eye.lanes.set l (some (f.want.id, f.subs.headD 0))
        flight := mapIf (fun g => g.want.id == f.want.id) (fun g => { g with subs := g.subs.drop 1 }) x.eye.flight } })
  | _, _ => .next s

/-- The sub-stream a lane decodes: its plate in flight and its number. -/
def Eye.laneHolds (e : Eye) (l : Fin 128) : Option (InFlight × Nat) :=
  e.lanes[l].bind fun h => (e.flight.find? fun f => f.want.id == h.1).map fun f => (f, h.2)

/-- The table a slice decodes a plate with. -/
def Slice.tableFor (x : Slice) (f : InFlight) : List Codebook := tableOf (x.slots[Fin.ofNat 64 f.hdr.slot]).image

/-- Whether decoding a sub-stream passes its 160th counted cycle before it ends (R197). -/
def subTimesOut (t : List Codebook) (floor : Bool) (l : List Bool) : Bool :=
  let step := if floor then decodeFloorGroup else decodeGroup t
  let r := (List.range 32).foldl (fun (a : Option SubDec × Bool) _ => match a.1 with
    | none => a
    | some d => if 160 ≤ d.cycles then (none, true) else (step d, a.2)) (some { rest := l }, false)
  r.2 || match r.1 with | some d => 160 < d.cycles | none => false

/-- A plate all of whose sub-streams have ended: its body check, and its delivery or refusal (R207, R212). -/
def State.frcFinish (s : State) (p : SliceNo) (f : InFlight) : State :=
  let s1 := (s.dropFlight p f.want.id).leaveSlot p f.hdr.slot
  let marked := f.arr.marked || f.hdr.poisoned
  let bad : Option (Nat × Nat) := if f.failed then some (psFrcSubErr, 3)
    else if crc32c f.arr.body != f.hdr.bodyCrc then some (psFrcCrcErr, 4) else none
  match bad with
  | some b =>
    let pl := voidPlate f.want (fmtOf f.hdr.fmt)
    if marked then s1.eyeDeliver p f.run f.want pl f.hdr.masterOid false 0 f.buf
    else s1.eyeRefuse p f.run f.want b.1 b.2 pl f.hdr.masterOid f.buf
  | none =>
    let vals := (List.range 16).flatMap fun i => KMap.getD f.done i []
    let x := vals.zipIdx.map fun e =>
      if isPadding f.want.obj f.want.plate.toNat (e.2 / 128) (e.2 % 128) then (0 : F32) else e.1
    (s1.bump (psIsl p) psFrcDecPlates).eyeDeliver p f.run f.want
      (formPlate f.want (fmtOf f.hdr.fmt) x (BitVec.allOnes 256) marked) f.hdr.masterOid false 0 f.buf

/-- A sub-stream has left its lane, decoded or failed. -/
def State.subDone (s : State) (p : SliceNo) (l : Fin 128) (f : InFlight) (i : Nat) (r : Option (List F32 × Nat)) : State :=
  let f1 : InFlight := { f with
    done := KMap.put f.done i (match r with | some v => v.1 | none => []), failed := f.failed || r.isNone }
  let s1 := s.onSlice p fun x => { x with eye := { x.eye with
    lanes := x.eye.lanes.set l none
    flight := mapIf (fun g => g.want.id == f.want.id) (fun _ => f1) x.eye.flight } }
  let s2 := s1.bump (psIsl p) psEyeLaneCyc (match r with | some v => v.2 | none => 160)
  if f1.done.length = 16 then s2.frcFinish p f1 else s2

/-- Whether a plate's sub-stream can end: the last one hands the plate to its consumer, or to the park table (R252, R455). -/
def State.mayFinish (s : State) (p : SliceNo) (f : InFlight) : Bool :=
  f.done.length < 15 || (s.consumerFree p f.want.use && !s.parkFull)

/-- SUBSTREAM_END (R198, R207, R231, R453): a lane has decoded its sub-stream; where the lane's own check fails, the
sub-stream starts again on another lane. -/
def execSubstreamEnd (p : SliceNo) (lane : Fin 128) (s : State) : Outcome :=
  match (s.slice p).eye.laneHolds lane with
  | none => .next s
  | some (f, i) =>
    let t := (s.slice p).tableFor f
    let floor := f.hdr.floor.getLsbD i
    let l := subBits f.hdr.rate f.arr.body i
    guarded (s.pathLive p && !subTimesOut t floor l && s.mayFinish p f) s
      (let j := s.inject (psIsl p) 0x0106 lane.val
      if j.1 then
        (j.2.event (psIsl p) {
          code := 0x0106, inst := BitVec.ofNat 16 lane.val, oid := f.want.obj.oid, plate := f.want.plate, injected := true }).onSlice
          p fun x => { x with eye := { x.eye with
            lanes := x.eye.lanes.set lane none
            flight := mapIf (fun g => g.want.id == f.want.id) (fun g => { g with subs := i :: g.subs }) x.eye.flight } }
      else s.subDone p lane f i (decodeSub t floor (f.hdr.used.getD i 0) l))

/-- SUBSTREAM_DECODE_TIMEOUT (R197, R207): a sub-stream not ended at its 160th counted cycle is a decode error. -/
def execSubstreamDecodeTimeout (p : SliceNo) (lane : Fin 128) (s : State) : Outcome :=
  match (s.slice p).eye.laneHolds lane with
  | none => .next s
  | some (f, i) =>
    guarded (s.pathLive p && s.mayFinish p f &&
        subTimesOut ((s.slice p).tableFor f) (f.hdr.floor.getLsbD i) (subBits f.hdr.rate f.arr.body i)) s
      (s.subDone p lane f i none)

/-- TABLE_CACHE_FILL (R232): a missing slot's decode tables are expanded, in place of the least recently used entry that no
plate in flight uses. -/
def execTableCacheFill (p : SliceNo) (slot : Fin 64) (s : State) : Outcome :=
  let e := (s.slice p).eye
  let old := e.tcache.reverse.find? fun n => !e.slotsUsed.contains n.val
  guarded (s.pathLive p && !e.tcache.contains slot && e.slotsUsed.contains slot.val && (e.tcache.length < 8 || old.isSome)) s
    (s.onSlice p fun x => { x with eye := { x.eye with
      tcache := slot :: (if x.eye.tcache.length < 8 then x.eye.tcache
        else match old with | some n => x.eye.tcache.filter (· != n) | none => x.eye.tcache) } })

end Sys2Proof.Machine
end

