-- ==== Sys2Proof/Machine/DpeOps.lean ====
section
/-! DEFINITION. The arithmetic of the transit arrays, row blocks, passes and what they need (R273-R293, R452). -/

namespace Sys2Proof.Machine

/-! Arithmetic (R275, R276). -/

/-- The exact value of an element in a product; an element under scale 0xFF is not a number (R276). -/
def opVal (f : Fmt) (code : Nat) (x : Byte) : FVal := if hasScale f && x == 0xFF then .nan else valElem f code

/-- One segment value (R275, R276): 32 exact products of element values summed exactly, times the power of two of the two
scales, rounded once to F32. A pair in which an element lies in a known-zero field counts +0. -/
def segValue (f : Fmt) (xa xs : Byte) (l : List (Bool × Nat × Nat)) : F32 :=
  let sum := l.foldl (fun (a : FVal) e =>
    if e.1 then a else a.add ((opVal f e.2.1 xa).mul (opVal f e.2.2 xs))) (.zero false)
  let scaled := if hasScale f then sum.scale ((xa.toNat : Int) + xs.toNat - 254) else sum
  match scaled with | .zero _ => 0 | v => toF32 v

/-- Whether element (r, c) of a plate lies in a known-zero field. -/
def Plate.knownZero (pl : Plate) (r c : Nat) : Bool := !pl.map.getLsbD (16 * (r / 8) + c / 8)

/-- Row r of a plate's codes. -/
def Plate.row (pl : Plate) (r : Nat) : List Nat := (pl.codes.drop (128 * r)).take 128

/-- The 128 outputs of an array for activation row r of plate a with stationary plate b (R273-R275). -/
def arrayRow (a b : Plate) (r : Nat) : List F32 :=
  let x := a.row r
  (List.range 128).map fun n =>
    let y := b.row n
    let seg (j : Nat) : F32 := segValue a.fmt (scaleAt a.scales r (32 * j)) (scaleAt b.scales n (32 * j))
      ((List.range 32).map fun k => let c := 32 * j + k
        (a.knownZero r c || b.knownZero n c, x.getD c 0, y.getD c 0))
    f32Add (f32Add (f32Add (seg 0) (seg 1)) (seg 2)) (seg 3)

/-- Groups of 64 MAC cells zero-gated for row r (R277). -/
def gatedGroups (a b : Plate) (r : Nat) : Nat :=
  ((List.range 256).filter fun i => !a.map.getLsbD (16 * (r / 8) + i % 16) || !b.map.getLsbD (16 * (i / 16) + i % 16)).length

/-- Sums rows of an adder tree in the order that free numbers choose (R279): two rows at a time, until one is left. -/
def treeSum : List Nat → List (List F32) → List F32
  | d :: ds, a :: b :: l =>
    let all := a :: b :: l
    let i := d % all.length
    let rest := all.eraseIdx i
    let j := d / all.length % rest.length
    treeSum ds ((rest.eraseIdx j) ++ [List.zipWith f32Add (all.getD i []) (rest.getD j [])])
  | _, a :: _ => a
  | _, [] => []

/-- Draws n free numbers. -/
def State.freeNats (s : State) (n : Nat) : List Nat × State :=
  ((List.range n).map fun i => Config.freeNat (s.freeIdx + i), { s with freeIdx := s.freeIdx + n })

/-! Row blocks (R278, R280). -/

/-- The largest P of at most 5 for which kp columns of plates of `b` bytes fit, with the activation mode: resident
double-buffered 0, resident single-buffered 1, streamed 2 (R280). -/
def blockFit (kps b : Nat) : Nat × Nat :=
  let v (p : Nat) : Nat := cdiv (p * kps * b) 65536 * 65536
  let best (lim : Nat) : Nat := ((List.range 6).filter fun p => 0 < p && v p ≤ lim).foldl max 0
  if best (4 * 2 ^ 20) != 0 then (best (4 * 2 ^ 20), 0)
  else if best (8 * 2 ^ 20) != 0 then (best (8 * 2 ^ 20), 1)
  else (1, 2)

/-- Pmax under the accumulators' limit (R280). -/
def pmaxAcc (arrays kps p : Nat) : Nat :=
  max 1 (((List.range (p + 1)).filter fun q => (cdiv arrays kps + 2) * q ≤ 40).foldl max 0)

/-- The sizes of the row blocks of q plate rows (R278): as equal as can be, the larger ones first. -/
def blockSizes (q pmax : Nat) : List Nat :=
  let n := cdiv q pmax
  (List.range n).map fun i => if i < q % n then q / n + 1 else q / n

/-! Arrays (R279, R288, R293). -/

/-- Whether slice p runs as a logical slice now (R289, R295). -/
def State.logical (s : State) (p : SliceNo) : Bool :=
  (s.isJoint p && s.sliceIn (twinOf p)) || ((s.slice p).pair.joined && (s.slice p).pair.lead)

/-- The unmasked arrays of slice p: those of PS2k first in a logical slice, numbered 0-31 for the lower and 32-63 for the
higher slice of the pair. Outside a logical slice they are numbered 0-31. -/
def State.arrays (s : State) (p : SliceNo) : List Nat :=
  let own (q : SliceNo) (off : Nat) : List Nat :=
    ((List.range 32).filter fun i => !(s.slice q).dpe.masked.getLsbD i).map (· + off)
  if s.logical p then own (Fin.ofNat 32 (p.val / 2 * 2)) 0 ++ own (Fin.ofNat 32 (p.val / 2 * 2 + 1)) 32 else own p 0

/-- The slice that holds an array of the engine of slice p. -/
def State.arraySlice (s : State) (p : SliceNo) (arr : Nat) : SliceNo :=
  if s.logical p then Fin.ofNat 32 (p.val / 2 * 2 + arr / 32) else p

/-- Repair steps take the lowest-numbered unmasked array other than the failing one (R452). -/
def placeRepairs : List DStep → List Nat → List (Nat × DStep)
  | [], _ => []
  | st :: rest, free =>
    match free.find? fun a => some a != st.avoid with
    | some a => (a, st) :: placeRepairs rest (free.erase a)
    | none => match free with
      | a :: more => (a, st) :: placeRepairs rest more
      | [] => []

/-- The uses of the next pass (R279, R452): repair steps first, then the steps of the block in order. -/
def Dpe.nextPass (d : Dpe) (arrays : List Nat) : List (Nat × DStep) :=
  let r := placeRepairs d.repair arrays
  r ++ (arrays.filter fun a => !(r.any fun e => e.1 == a)).zip d.steps

/-- The stage that runs. -/
def Dpe.cur (d : Dpe) : Option MatJob := if d.phase2 then d.job2 else d.job

/-! Operands (R274, R278). -/

/-- The stored plate that is A(i, kp), and B(n, kp). -/
def MatJob.aPlate (j : MatJob) (i kp : Nat) : Nat := if j.xposeA then kp * j.a.pcols + i else i * j.a.pcols + kp
def MatJob.bPlate (j : MatJob) (n kp : Nat) : Nat := if j.xposeB then kp * j.b.pcols + n else n * j.b.pcols + kp

/-- The rows of the running block. -/
def Dpe.rows (d : Dpe) : List Nat := (List.range d.blkP).map (d.blkRow + ·)

/-- The first plate row that is in no row block begun so far. -/
def Dpe.nextFirst (d : Dpe) : Nat := if d.blkP != 0 && d.only.isNone then d.blkRow + d.blkP else d.nextRow

/-- The rows of the next row block. -/
def Dpe.nextRows (d : Dpe) : List Nat := (List.range (d.blocks.headD 0)).map (d.nextFirst + ·)

/-! Pages (R280, R281, R285, R293). -/

/-- Pages of an activation block of p plate rows. -/
def MatJob.blockPages (j : MatJob) (p : Nat) : Nat := cdiv (p * j.kps * bufBytes j.cfmt) 65536

/-- Pages of the staged block of p plate rows of a pair. -/
def stagePages (j : MatJob) (j2 : Option MatJob) (p : Nat) : Nat :=
  match j2 with | some k => cdiv (p * j.cols * bufBytes k.cfmt) 65536 | none => 0

/-- Pages that activation blocks claim: the running block's, the next one's, and the staged block's. -/
def Dpe.actPages (d : Dpe) : Nat :=
  match d.job with
  | none => 0
  | some j =>
    (if d.streamed then 0
      else (if d.blkP != 0 && d.asked && !d.phase2 then j.blockPages d.blkP else 0) + (if d.ahead then j.blockPages (d.blocks.headD 0) else 0)) +
    (if d.blkP != 0 then stagePages j d.job2 d.blkP else 0)

/-- Pages that the accumulators of an engine, and its plates still draining, hold in slice q (R280, R284). -/
def Dpe.accPagesIn (d : Dpe) (q : SliceNo) : Nat :=
  ((d.accs.filter fun a => a.at_ == q).map (·.p)).sum +
  (((d.drain.filter fun o => o.at_ == q).map fun o => (o.n, o.row0, o.p)).eraseDups.map (·.2.2)).sum

/-- Pages that accumulators hold in slice q: its own engine's, and those of a logical slice that lie in it (R293). -/
def State.accPages (s : State) (q : SliceNo) : Nat := (s.slice q).dpe.accPagesIn q + (s.slice (twinOf q)).dpe.accPagesIn q

/-- Pages of slice q's plate buffer that hold plates of held commits, a page each (R261, R281). -/
def Slice.heldPages (x : Slice) : Nat := ((x.store.commits.filter fun m => m.st == .held).map fun m => m.plates.length).sum

/-- Whether slice q's plate buffer has so many more pages for activation blocks, and for accumulators, of an engine whose blocks claim
`act` pages: 128 and 40 at most, within what the field store and held commits leave of 192 (R280, R281). -/
def State.pagesFree (s : State) (q : SliceNo) (act more acc : Nat) : Bool :=
  let have_ := s.accPages q
  decide (act + more ≤ 128) && decide (have_ + acc ≤ 40) && decide (act + more + have_ + acc + (s.slice q).heldPages ≤ 168)

/-- The same in every slice of the engine of slice p. -/
def State.roomFor (s : State) (p : SliceNo) (more : Nat) : Bool :=
  let act := (s.slice p).dpe.actPages
  s.pagesFree p act more 0 && (!s.logical p || s.pagesFree (twinOf p) act more 0)

/-- The reduction plates of the stage that runs. -/
def Dpe.kps (d : Dpe) : Nat := match d.job, d.phase2 with
  | some j, true => j.cols
  | some j, false => j.kps
  | none, _ => 0

/-- The activation plate (i, kp), if it is present. -/
def Dpe.act (d : Dpe) (i kp : Nat) : Option Plate :=
  if d.phase2 then (d.staged.find? fun e => e.1 == i && e.2.1 == kp).map (·.2.2)
  else (d.acts.find? fun e => e.1 == i && e.2.1 == kp).map (·.2.2.1)

/-- Activation plates that the Eyepiece has delivered move into the block (R281). -/
def State.dpeAbsorb (s : State) (p : SliceNo) : State :=
  s.onSlice p fun x =>
    let run := match x.dpe.job with | some j => j.run | none => 0
    let mine (d : Delivered) : Bool := d.run == run && match d.want.use with | .act _ _ => true | _ => false
    let new := (x.eye.outs.filter mine).map fun d => match d.want.use with
      | .act i kp => (i, kp, d.plate, d.excess) | _ => (0, 0, d.plate, d.excess)
    { x with eye := { x.eye with outs := x.eye.outs.filter fun d => !mine d }, dpe := { x.dpe with acts := x.dpe.acts ++ new } }

/-- Asks for the activation plates of rows, in kp order (R281). -/
def State.askActs (s : State) (p : SliceNo) (j : MatJob) (rows kps : List Nat) : State :=
  s.openStream p j.run j.a (kps.flatMap fun kp => rows.map fun i => (j.aPlate i kp, Use.act i kp)) (some j.cfmt) j.xposeA

/-- Asks for the stationary plates of the next pass that have not been asked for, each through the Eyepiece of the slice
whose array takes it (R281, R282, R293), and, streamed, for its activation plates, one stream per kp (R281). -/
def State.askPass (s : State) (p : SliceNo) : State :=
  let d := (s.slice p).dpe
  match d.cur with
  | none => s
  | some j =>
    let new := (d.nextPass (s.arrays p)).filter fun e => !d.weights.contains (e.2.n, e.2.kp)
    let of (q : SliceNo) : List (Nat × Use) := (new.filter fun e => s.arraySlice p e.1 == q).map fun e =>
      (j.bPlate e.2.n e.2.kp, Use.weight e.2.n e.2.kp)
    let s1 := (s.openStream p j.run j.b (of p) (some j.cfmt) j.xposeB).openStream (twinOf p) j.run j.b
      (if s.logical p then of (twinOf p) else []) (some j.cfmt) j.xposeB
    let s2 := s1.onSlice p fun x => { x with dpe := { x.dpe with weights := x.dpe.weights ++ new.map fun e => (e.2.n, e.2.kp) } }
    if !d.streamed || d.phase2 then s2
    else
      let kps := ((d.nextPass (s.arrays p)).map fun e => e.2.kp).eraseDups.filter fun k => !d.actKeys.contains k
      (kps.foldl (fun s kp => s.askActs p j d.rows [kp]) s2).onSlice p fun x =>
        { x with dpe := { x.dpe with actKeys := x.dpe.actKeys ++ kps } }

/-- The stationary plate of a step, if a slice of the engine has it. -/
def State.weightAt (s : State) (p : SliceNo) (run : Nat) (st : DStep) : Option Plate :=
  let find (q : SliceNo) : Option Plate := ((s.slice q).eye.outs.find? fun d =>
    d.run == run && d.want.use == .weight st.n st.kp).map (·.plate)
  match find p with | some pl => some pl | none => find (twinOf p)

/-- Takes the stationary plates of a pass out of what the Eyepiece has delivered. -/
def Eye.dropWeights (e : Eye) (run : Nat) (l : List (Nat × Nat)) : Eye :=
  { e with outs := e.outs.filter fun d => !(d.run == run && match d.want.use with | .weight n kp => l.contains (n, kp) | _ => false) }

end Sys2Proof.Machine
end

