-- ==== Sys2Proof/Machine/XPort.lean ====
section
/-! DEFINITION. The Export/Import Ports (R64-R76). -/

namespace Sys2Proof.Machine

def State.onXp (s : State) (p : SliceNo) (f : Xp → Xp) : State := s.onSlice p fun x => { x with xp := f x.xp }

/-! Export. -/

/-- Scales of one beat (R65). -/
def scalesPerBeat : Fmt → Nat | .p4 => 16 | .p8 => 8 | _ => 0
/-- Beats of one plate (R65). -/
def beatsPerPlate (f : Fmt) : Nat := denseSize f / 256

/-- The beat that a plate sends next (R64-R69). -/
def TxPlate.next (t : TxPlate) : Beat :=
  let n := scalesPerBeat t.fmt
  { data := (t.rows.drop (256 * t.beat)).take 256, scale := fit 16 ((t.scales.drop (n * t.beat)).take n), fmt := t.fmt
    stream := t.stream, seq := t.seq, beat := BitVec.ofNat 8 t.beat, last := t.beat + 1 == beatsPerPlate t.fmt
    xpose := t.xpose, poison := t.poison }

/-- EXPORT_BEAT (R65-R69): one beat of the plate being sent transfers. -/
def execExportBeat (p : SliceNo) (s : State) : Outcome :=
  match (s.txNext p).bind fun i => ((s.slice p).xp.tx[i]?).map fun t => (i, t) with
  | none => .next s
  | some (i, t) =>
    guarded (s.pathLive p) s
      (let b := t.next
      let s1 := (s.onXp p fun x => { x with
        lastBeat := some b, txAt := s.now (psIsl p)
        tx := if b.last then x.tx.eraseIdx i else x.tx.set i { t with beat := t.beat + 1 } }).bump (psIsl p) psXpTxBeats
      if b.last then s1.onRun t.run fun r => { r with plates := r.plates + 1 } else s1)

/-- The plates a command is to export. -/
def CmdRun.exports (r : CmdRun) : Nat :=
  let e := r.second.getD r.entry
  if e.opcode = opMatmul then e.rows * e.cols else e.count

/-- EXPORT_ABANDON (R70): xp_tx_valid has been high for 2^20 slice cycles without a transfer. -/
def execExportAbandon (p : SliceNo) (s : State) : Outcome :=
  match (s.txNext p).bind fun i => (s.slice p).xp.tx[i]? with
  | none => .next s
  | some t =>
    guarded (s.pathLive p && 2 ^ 20 ≤ elapsed (s.now (psIsl p)) (s.slice p).xp.txAt) s
      (let n := match s.findRun t.run with | some r => r.exports - r.plates | none => 1
      let drop (x : Xp) : Xp :=
        { x with tx := x.tx.filter (fun u => u.run != t.run), txAbandonSeen := true, txAt := s.now (psIsl p) }
      ((s.onXp p drop).bump (psIsl p) psXpTxAbandon n).failRun (some t.run) stPortTimeout)

/-! Import. -/

/-- IMPORT_STREAM_OPEN (R71): of the imports that wait, the one that started first of those that can open does. -/
def execImportStreamOpen (p : SliceNo) (s : State) : Outcome :=
  let x := (s.slice p).xp
  match x.waiting.find? fun w => !(x.streams.any fun t => t.stream == w.2.1) && (s.slice p).takesRun w.1 with
  | none => .next s
  | some w =>
    guarded (s.pathLive p && s.begins (psIsl p) && decide (x.streams.length < 4)) s
      (s.onXp p fun x => { x with
        waiting := x.waiting.erase w
        streams := x.streams ++ [{ run := w.1, stream := w.2.1, fmt := w.2.2.1, count := w.2.2.2, at_ := s.now (psIsl p) }] })

def Xp.onStream (x : Xp) (n : BitVec 8) (f : ImpStream → ImpStream) : Xp :=
  { x with streams := mapIf (fun t => t.stream == n) f x.streams }

/-- An import ends with a failure status: plates already taken are still stored in Progress mode; in Consistent mode the
command leaves no effect (R73, R74, R466). -/
def State.importFails (s : State) (run : Nat) (st : BitVec 8) : State :=
  s.onRun run fun r => if s.consistent then r.fail st else { r with status := if r.status = 0 then st else r.status }

/-- An ordinal of a stream is done with; after the last the stream closes (R73). -/
def State.nextOrdinal (s : State) (p : SliceNo) (t : ImpStream) : State :=
  let u := { t with
    ordinal := t.ordinal + 1, beats := 0, data := [], scale := [], poison := false, discarding := false, at_ := s.now (psIsl p) }
  if u.ordinal < u.count then s.onXp p fun x => x.onStream t.stream fun _ => u
  else
    let s1 := s.onXp p fun x => { x with streams := x.streams.filter fun v => v.stream != t.stream }
    if t.broken then s1.importFails t.run stImportFormat else s1

/-- Beats that are discarded (R73). -/
def State.rxDiscard (s : State) (p : SliceNo) (n : Nat) : State :=
  (s.onXp p fun x => { x with rxDiscardSeen := true }).bump (psIsl p) psXpRxDiscard n

/-- The half cycles in which the store path takes one import beat, at one row of 128 elements a cycle (R75, R252). -/
def beatCost : Fmt → Nat | .p4 => 8 | .p8 => 4 | .h16 => 2 | .f32 => 1

/-- The destination plate of the plate open on an import stream (R73). -/
def State.importDst (s : State) (t : ImpStream) : BitVec 24 :=
  match s.findRun t.run with | some r => BitVec.ofNat 24 (r.entry.plate 1 + t.ordinal) | none => 0

/-- The beats of the plate open on a stream leave the import buffer unstored (R73, R74). -/
def State.dropBeats (s : State) (p : SliceNo) (t : ImpStream) : State :=
  s.onXp p fun x => { x with buf := x.buf.filter fun b => !(b.run == t.run && b.plate == s.importDst t) }

/-- A complete import plate goes to the store path (R74, R75). -/
def State.importPlate (s : State) (p : SliceNo) (t : ImpStream) : State :=
  match (s.findRun t.run).bind fun r => r.dst.map fun o => (r, o) with
  | none => s.dropBeats p t
  | some (r, o) =>
    let e : StoreIn := {
      run := some t.run, obj := o, plate := s.importDst t
      data := { fmt := t.fmt, codes := unpackElems t.fmt t.data, scales := t.scale, map := 0, poison := t.poison }
      bound := r.bound, master := r.master, slot := r.encSlot, isImport := true }
    s.onSlice p fun x => { x with store := { x.store with imports := x.store.imports ++ [e] } }

/-- IMPORT_BEAT (R71-R75): accepted while the import buffer can take a beat; discarded where its stream is not open or it
breaks R72. -/
def execImportBeat (p : SliceNo) (stream beat : BitVec 8) (fmt : Fmt) (data scale : List Byte) (last poison : Bool)
    (s : State) : Outcome :=
  let sd := s.importDrain p
  guarded (s.pathLive p && decide ((sd.slice p).xp.buf.length < 256)) s
    (let s0 := sd.bump (psIsl p) psXpRxBeats
    match (s.slice p).xp.streams.find? fun t => t.stream == stream with
    | none => s0.rxDiscard p 1
    | some t =>
      let bad := t.discarding || beat.toNat != t.beats || fmt != t.fmt || last != (t.beats + 1 == beatsPerPlate t.fmt)
      if bad then
        let s1 := (s0.rxDiscard p (t.beats + 1)).dropBeats p t
        let u := { t with discarding := true, broken := true, beats := 0, data := [], scale := [], at_ := s.now (psIsl p) }
        if last then s1.nextOrdinal p u else s1.onXp p fun x => x.onStream stream fun _ => u
      else
        let u := { t with
          beats := t.beats + 1, data := t.data ++ fit 256 data, scale := t.scale ++ fit (scalesPerBeat t.fmt) scale
          poison := t.poison || poison, at_ := s.now (psIsl p) }
        let s1 := s0.onXp p fun x => { x with buf := x.buf ++ [{ run := t.run, plate := s.importDst t, left := beatCost t.fmt }] }
        if last then (s1.importPlate p u).nextOrdinal p u else s1.onXp p fun x => x.onStream stream fun _ => u)

/-- A stream closes short (R74): its open plate is discarded and its IMPORT completes PORT_TIMEOUT. -/
def State.importTimeout (s : State) (p : SliceNo) (t : ImpStream) : State :=
  ((s.dropBeats p t).onXp p fun x => { x with streams := x.streams.filter fun v => v.stream != t.stream }).importFails
    t.run stPortTimeout

/-- IMPORT_PLATE_TIMEOUT (R74): a plate is open, or being discarded, and no beat has come for 2^20 slice cycles. -/
def execImportPlateTimeout (p : SliceNo) (stream : BitVec 8) (s : State) : Outcome :=
  match (s.slice p).xp.streams.find? fun t => t.stream == stream with
  | none => .next s
  | some t =>
    guarded (s.pathLive p && (t.beats != 0 || t.discarding) && 2 ^ 20 ≤ elapsed (s.now (psIsl p)) t.at_) s (s.importTimeout p t)

/-- IMPORT_STREAM_IDLE_TIMEOUT (R74): no plate is open, and no beat has come for 2^24 slice cycles. -/
def execImportStreamIdleTimeout (p : SliceNo) (stream : BitVec 8) (s : State) : Outcome :=
  match (s.slice p).xp.streams.find? fun t => t.stream == stream with
  | none => .next s
  | some t =>
    guarded (s.pathLive p && t.beats == 0 && !t.discarding && 2 ^ 24 ≤ elapsed (s.now (psIsl p)) t.at_) s (s.importTimeout p t)

end Sys2Proof.Machine
end

