-- ==== Sys2Proof/Machine/Dpe.lean ====
section
/-! DEFINITION. The Dense Plate Engine: row blocks, passes, rows, final plates, drains (R273-R288, R452). -/

namespace Sys2Proof.Machine

def State.onDpe (s : State) (p : SliceNo) (f : Dpe → Dpe) : State := s.onSlice p fun x => { x with dpe := f x.dpe }

/-! ROW_BLOCK_LOAD. -/

/-- Whether the engines of slice p may begin a row block: not while the pair is joined under its twin, nor while the twin
waits to join (R292). -/
def State.blocksFree (s : State) (p : SliceNo) : Bool :=
  let x := s.slice p
  !(x.pair.joined && !x.pair.lead) && (!(s.slice (twinOf p)).pair.joinWait || x.pair.joined)

/-- P and the activation mode of a command (R280, R285): of a STAGE pair both stages fit, and their blocks together; where one plate row
of both does not, the first stage is streamed (DESIGN CHOICE, log entry 129). -/
def blockPlan (arrays : Nat) (j : MatJob) (j2 : Option MatJob) : Nat × Nat :=
  let fit1 := blockFit j.kps (bufBytes j.cfmt)
  let p1 := pmaxAcc arrays j.kps fit1.1
  match j2 with
  | none => (p1, fit1.2)
  | some k =>
    let pm := min p1 (pmaxAcc arrays j.cols (blockFit j.cols (bufBytes k.cfmt)).1)
    if fit1.2 = 2 then (pm, 2)
    else
      let both := (List.range (pm + 1)).filter fun p => 0 < p && j.blockPages p + stagePages j j2 p ≤ 128
      if both.isEmpty then (1, 2) else (both.foldl max 0, fit1.2)

/-- A job as the slice starts it: with the values PS_ENGINE_BIAS holds then, of PS2k in a logical slice (R322, R323). -/
def State.biased (s : State) (p : SliceNo) (j : MatJob) : MatJob :=
  let x := s.slice (if s.logical p then Fin.ofNat 32 (p.val / 2 * 2) else p)
  { j with bias := x.bias.toNat, margin := x.biasMargin.toNat, group := max 1 x.biasGroup.toNat }

/-- Starts a job: its row blocks and activation mode (R278, R280, R285). -/
def State.beginMatmul (s : State) (p : SliceNo) (j : MatJob) (j2 : Option MatJob) (rest : List (MatJob × Option MatJob)) : State :=
  let masked := (s.slice p).dpe.masked
  let plan := blockPlan ((List.range 32).filter fun i => !masked.getLsbD i).length j j2
  s.onDpe p fun _ => { masked := masked, queue := rest, job := some (s.biased p j), job2 := j2, blocks := blockSizes j.rows plan.1, nextRow := j.row0
                       streamed := plan.2 == 2, doubleBuf := plan.2 == 0 }

/-- The steps of a row block for the column plates that have a job for the DPE in it (R279). -/
def Dpe.stepsOf (d : Dpe) (cols : List Nat) : List DStep :=
  let on (n : Nat) : Bool := d.rows.any fun i => !d.toSme.contains (i, n)
  (cols.filter on).flatMap fun n => (List.range d.kps).map fun kp => { n := n, kp := kp }

/-- Column plates of the stage that runs. -/
def Dpe.cols (d : Dpe) : List Nat := match d.cur with
  | some j => (List.range j.cols).map (j.col0 + ·) | none => []

/-- A row block of a re-dispatched job's own begins: one plate row, one column plate (R279). -/
def Dpe.openOwn (d : Dpe) (e : Nat × Nat) : Dpe :=
  let d1 := { d with blkRow := e.1, blkP := 1, only := some e.2, redo := d.redo.erase e, chosen := true, toSme := [] }
  { d1 with steps := d1.stepsOf [e.2] }

/-- The next row block begins (R278, R279): with the jobs re-dispatched to the DPE in its rows. A command forced to one engine needs no
choice (R317); under SME every job goes to it; under CHOICE the choice may have been made while the block before it ran (R320). -/
def Dpe.openBlock (d : Dpe) (p : Nat) (engine : Nat) : Dpe :=
  let d1 := { d with
    blkRow := d.nextRow, blkP := p, blocks := d.blocks.drop 1, asked := d.ahead, ahead := false, chosen := false, toSme := [], next := none
    redo := d.redo.filter fun e => !(d.nextRow ≤ e.1 && e.1 < d.nextRow + p) }
  let given : Option (List (Nat × Nat)) :=
    if engine = 1 then some []
    else if engine = 2 then some (d1.rows.flatMap fun i => d1.cols.map fun n => (i, n))
    else d.next.map fun l => l.filter fun e => !d.redo.contains e
  match given with
  | none => d1
  | some l => { { d1 with chosen := true, toSme := l } with steps := ({ d1 with toSme := l } : Dpe).stepsOf d1.cols }

/-- The jobs of a block that goes to the SME whole. -/
def smeJobs (d : Dpe) : List SJob := d.toSme.map fun e => { i := e.1, n := e.2 }

/-- The engine a job runs on: a STAGE pair runs on the DPE (R317). -/
def MatJob.engineOf (j : MatJob) : Nat := if j.dest = 2 then 1 else j.engine

/-- The last row of the running block's last pass has been issued (R281). -/
def Dpe.issued (d : Dpe) : Bool := d.chosen && d.steps.isEmpty && d.repair.isEmpty && d.pass.isEmpty

/-- Whether everything the engines hold of their job has left them. -/
def Slice.jobDone (x : Slice) : Bool :=
  x.dpe.accs.isEmpty && x.dpe.drain.isEmpty && x.dpe.redo.isEmpty && x.sme.jobs.isEmpty && x.sme.group.isEmpty

/-- The running block ends once its last row has been issued, and its pages are released: what is left in accumulators drains meanwhile
(R281, R284). The first stage of a pair ends once the staged block is whole; the second then runs over it (R285). -/
def Dpe.closeBlock (d : Dpe) : Dpe :=
  if d.job2.isSome && !d.phase2 then
    if d.accs.all (·.second) && d.drain.all (·.second) then
      let d1 := { d with phase2 := true, toSme := [], weights := [],
                           acts := if d.ahead then d.acts.filter fun e => d.nextFirst ≤ e.1 else [] }
      { d1 with steps := d1.stepsOf d1.cols }
    else d
  else
    let next := d.nextFirst
    { d with blkP := 0, only := none, phase2 := false, chosen := false, staged := [], toSme := [], weights := [], asked := false, actKeys := []
             nextRow := next, acts := if d.ahead then d.acts.filter fun e => next ≤ e.1 else [] }

/-- The re-dispatched job that no row block to come covers (R279). -/
def Dpe.ownRedo (d : Dpe) : Option (Nat × Nat) := d.redo.find? fun e => e.1 < d.nextFirst || d.blocks.isEmpty

/-- The next row block of slice p's job begins; the jobs that a command forced to the SME gives it join the SME's order. -/
def State.nextBlock (s : State) (p : SliceNo) (j : MatJob) (b : Nat) : State :=
  s.onSlice p fun x =>
    let d := x.dpe.openBlock b j.engineOf
    { x with dpe := d, sme := if j.engineOf = 2 then { x.sme with jobs := x.sme.jobs ++ smeJobs d } else x.sme }

/-- What ROW_BLOCK_LOAD does next (R278-R281): a queued job starts, a block begins, activation plates are asked for, once there are pages
for them, or taken in, a block or a job ends. -/
def State.blockLoad (s0 : State) (p : SliceNo) : State :=
  let s := s0.dpeAbsorb p
  let x := s.slice p
  let d := x.dpe
  match d.job with
  | none =>
    (match d.queue with
    | [] => s
    | (j, j2) :: rest =>
      if !s.blocksFree p || !s.begins (psIsl p) then s
      else if x.pair.joined && x.pair.run != some j.run then s
      else if j.join && !x.pair.joined then s.onSlice p fun x => { x with pair := { x.pair with joinWait := true } }
      else s.beginMatmul p j j2 rest)
  | some j =>
    if d.blkP = 0 then
      if d.blocks.isEmpty && d.redo.isEmpty then (if x.jobDone then s.onDpe p fun d => { masked := d.masked, queue := d.queue } else s)
      else if !s.blocksFree p || !s.running (psIsl p) then s
      else match d.ownRedo with
        | some e => s.onDpe p fun d => d.openOwn e
        | none => if s.begins (psIsl p) then s.nextBlock p j (d.blocks.headD 0) else s
    else if d.chosen && !d.asked && !d.steps.isEmpty && !d.phase2 then
      let have_ (i : Nat) : Bool := (List.range j.kps).all fun kp => (d.act i kp).isSome
      if d.streamed then (s.onDpe p fun d => { d with asked := true }).askPass p
      else if !s.roomFor p (j.blockPages d.blkP) then s
      else
        ((s.askActs p j (d.rows.filter fun i => !have_ i) (List.range j.kps)).onDpe p fun d => { d with asked := true }).askPass p
    else if d.issued then (s.onDpe p Dpe.closeBlock).askPass p
    else match d.blocks with
      | b :: _ =>
        if d.doubleBuf && !d.ahead && d.asked && d.only.isNone && s.roomFor p (j.blockPages b) then
          (s.askActs p j d.nextRows (List.range j.kps)).onDpe p fun d => { d with ahead := true }
        else s
      | [] => s

/-- ROW_BLOCK_LOAD (R278-R281, R292). -/
def execRowBlockLoad (p : SliceNo) (s : State) : Outcome := guarded (s.pathLive p) s (s.blockLoad p)

/-! PASS_START (R279, R282, R287, R288). -/

/-- The uses of the next pass with their stationary plates, where all are present. -/
def State.passUses (s : State) (p : SliceNo) (run : Nat) (l : List (Nat × DStep)) : Option (List PassUse) :=
  l.foldr (fun e (r : Option (List PassUse)) => match r, s.weightAt p run e.2 with
    | some us, some pl => some ({ arr := e.1, step := e.2, plate := pl } :: us)
    | _, _ => none) (some [])

/-- The column plates of a pass without an accumulator yet, each with the array that holds its first step in the pass (R282, R293). -/
def Dpe.newCols (d : Dpe) (l : List (Nat × DStep)) : List (Nat × Nat) :=
  (l.foldl (fun (a : List (Nat × Nat)) e => if a.any fun f => f.1 == e.2.n then a else a ++ [(e.2.n, e.1)]) []).filter fun e =>
    !d.accs.any fun a => a.n == e.1 && a.doneAt.isNone

/-- A new accumulator for a column plate of the running block, in the pages of slice q. -/
def Dpe.newAcc (d : Dpe) (n : Nat) (q : SliceNo) : Acc :=
  { n := n, row0 := d.blkRow, p := d.blkP, second := d.phase2, at_ := q
    rows := List.replicate (128 * d.blkP) (List.replicate 128 0), skip := d.rows.filter fun i => d.toSme.contains (i, n) }

/-- Whether the slices of the engine of slice p have pages for new accumulators. -/
def State.accRoom (s : State) (p : SliceNo) (need : List (Nat × Nat)) : Bool :=
  let d := (s.slice p).dpe
  [p, twinOf p].all fun q =>
    let n := (need.filter fun e => s.arraySlice p e.2 == q).length
    n == 0 || s.pagesFree q d.actPages 0 (d.blkP * n)

/-- Marks accumulators of a poisoned stationary plate in every plate row (R286). -/
def Acc.mark (a : Acc) (rows : List Nat) : Acc := { a with poison := a.poison ++ rows.filter fun i => !a.poison.contains i }

/-- PASS_START (R279, R282): with the shadows complete, the rows present and the accumulators claimed, the next pass starts
and the plates of the one after it begin to load; else the cause that holds it is noted. -/
def execPassStart (p : SliceNo) (s0 : State) : Outcome :=
  let s := s0.dpeAbsorb p
  let d := (s.slice p).dpe
  let l := d.nextPass (s.arrays p)
  match d.cur with
  | none => .next s0
  | some j =>
    guarded (s0.pathLive p && d.blkP != 0 && d.chosen && d.pass.isEmpty && !l.isEmpty && !s.abandoned j.run) s0
      (let need := d.newCols l
      let hold (c : Nat) : State := s.onDpe p fun d => { d with stall := c }
      match s.passUses p j.run l with
      | none => (hold 1).askPass p
      | some us =>
        if !(l.all fun e => d.rows.all fun i => (d.act i e.2.kp).isSome) then (hold 2).askPass p
        else if !s.accRoom p need then hold 3
        else
          let keys := l.map fun e => (e.2.n, e.2.kp)
          let bad := (us.filter fun u => u.plate.poison).map fun u => u.step.n
          let accs := (d.accs ++ need.map fun e => d.newAcc e.1 (s.arraySlice p e.2)).map fun a =>
            if a.doneAt.isNone && bad.contains a.n then a.mark d.rows else a
          let s1 := s.onDpe p fun d => { d with
            pass := us, row := 0, failed := [], stall := 0, accs := accs, repair := d.repair.filter fun st => !(l.any fun e => e.2 == st)
            steps := d.steps.filter fun st => !(l.any fun e => e.2 == st), weights := d.weights.filter fun k => !keys.contains k
            actKeys := [] }
          let drop (t : State) (q : SliceNo) : State := t.onSlice q fun x => { x with eye := x.eye.dropWeights j.run keys }
          (drop (drop s1 p) (twinOf p)).askPass p)

/-! ACTIVATION_ROW_ISSUE (R275-R277, R279, R282, R293, R452). -/

/-- The runs of consecutive arrays that hold the same column plate (R279): each array, in order, with what it holds in the pass and the
row it forms, none where it fails; an idle array ends a run. -/
def columnRuns (l : List (Option (Nat × List (Nat × List F32)))) : List (Nat × List (Nat × List F32)) :=
  let step (a : List (Nat × List (Nat × List F32)) × Option Nat) (e : Option (Nat × List (Nat × List F32))) :=
    match e, a.1 with
    | none, _ => (a.1, none)
    | some (n, y), (m, ys) :: more => if a.2 = some n then ((m, ys ++ y) :: more, some n) else ((n, y) :: a.1, some n)
    | some (n, y), [] => ([(n, y)], some n)
  ((l.foldl step ([], none)).1.reverse).filter fun e => !e.2.isEmpty

/-- One run's sum: the tree of the lower slice, then that of the higher one added to it (R293). -/
def runSum (draws : List Nat) (ys : List (Nat × List F32)) : List F32 :=
  let lo := (ys.filter fun e => e.1 < 32).map (·.2)
  let hi := (ys.filter fun e => !(e.1 < 32)).map (·.2)
  if hi.isEmpty then treeSum draws lo
  else if lo.isEmpty then treeSum draws hi
  else List.zipWith f32Add (treeSum draws lo) (treeSum (draws.drop lo.length) hi)

/-- Adds the sums of a row to their accumulators. -/
def addSums (accs : List Acc) (t : Nat) (sums : List (Nat × List F32)) : List Acc :=
  sums.foldl (fun l e => mapIf (fun a => a.n == e.1 && a.doneAt.isNone)
    (fun a => { a with rows := a.rows.set t (List.zipWith f32Add (a.rows.getD t []) e.2) }) l) accs

/-- The arrays whose check fails at this row: those named, and those an arming makes fail (R452, R494). -/
def State.rowFails (s : State) (p : SliceNo) (failing : List (Fin 64)) : List (Nat × Bool) :=
  let d := (s.slice p).dpe
  d.pass.filterMap fun u =>
    let k := psIsl (s.arraySlice p u.arr)
    if d.failed.contains u.arr || d.row < u.step.row0 then none
    else if failing.any fun f => f.val == u.arr then some (u.arr, false)
    else if (s.isl k).armedFor 0x0105 (u.arr % 32) then some (u.arr, true)
    else none

/-- A row check of an array has failed (R450, R452): its detector hears of it, and its step is repaired from this row on. -/
def State.rowFailed (s : State) (p : SliceNo) (j : MatJob) (e : Nat × Bool) : State :=
  let d := (s.slice p).dpe
  let k := psIsl (s.arraySlice p e.1)
  match d.pass.find? fun u => u.arr == e.1 with
  | none => s
  | some u =>
    let s1 := if e.2 then s.useInjection k else s
    let s2 := s1.event k {
      code := 0x0105, inst := BitVec.ofNat 16 (e.1 % 32), oid := j.b.oid, plate := BitVec.ofNat 24 (j.bPlate u.step.n u.step.kp)
      injected := e.2 }
    (s2.onDpe p fun d => { d with
      failed := d.failed ++ [e.1]
      repair := d.repair ++ [{ n := u.step.n, kp := u.step.kp, row0 := d.row, repair := true, avoid := some e.1 }] }).bump
      (psIsl p) psRepairSteps

/-- The last row of a pass has been issued (R279, R283): the pass ends; a column without a step left has its last row. -/
def State.passEnd (s : State) (p : SliceNo) : State :=
  let now := s.now (psIsl p)
  (s.onDpe p fun d =>
    let left (n : Nat) : Bool := d.steps.any (fun st => st.n == n) || d.repair.any fun st => st.n == n
    { d with
      pass := [], row := 0, failed := []
      acts := if d.streamed && !d.phase2 then d.acts.filter fun e => !(d.pass.any fun u => u.step.kp == e.2.1) else d.acts
      accs := d.accs.map fun a => if a.doneAt.isNone && !left a.n then { a with doneAt := some now } else a }).askPass p

/-- ACTIVATION_ROW_ISSUE: every array of the pass takes the next activation row. -/
def execActivationRowIssue (p : SliceNo) (failing : List (Fin 64)) (s : State) : Outcome :=
  let d := (s.slice p).dpe
  match d.cur with
  | none => .next s
  | some j =>
    guarded (s.pathLive p && !d.pass.isEmpty) s
      (let t := d.row
      let i := d.blkRow + t / 128
      let fails := s.rowFails p failing
      let on := d.pass.filter fun u => u.step.row0 ≤ t
      let good := on.filter fun u => !d.failed.contains u.arr && !(fails.any fun e => e.1 == u.arr)
      let a (u : PassUse) : Plate := (d.act i u.step.kp).getD (Plate.zeros j.cfmt)
      let held (arr : Nat) : Option (Nat × List (Nat × List F32)) := (d.pass.find? fun u => u.arr == arr).map fun u =>
        (u.step.n, if good.contains u then [(arr, arrayRow (a u) u.plate (t % 128))] else [])
      let draws := s.freeNats good.length
      let sums := (columnRuns ((List.range 64).filterMap fun arr =>
        if d.pass.any (fun u => u.arr == arr) || (s.arrays p).contains arr then some (held arr) else none)).map fun e => (e.1, runSum draws.1 e.2)
      let bad := (good.filter fun u => (a u).poison).map fun u => u.step.n
      let s1 := fails.foldl (fun s e => s.rowFailed p j e) draws.2
      let s2 := s1.onDpe p fun d => { d with
        row := t + 1, accs := (addSums d.accs t sums).map fun c =>
          if c.doneAt.isNone && bad.contains c.n then c.mark [i] else c }
      let of (q : SliceNo) (u : PassUse) : Bool := s.arraySlice p u.arr == q
      let count (s : State) (q : SliceNo) : State :=
        let us := on.filter (of q)
        if us.isEmpty then s else
        ((s.bump (psIsl q) psDpeIssue).bump (psIsl q) psDpeRows us.length).bump (psIsl q) psDpeGated
          (us.map fun u => gatedGroups (a u) u.plate (t % 128)).sum
      let s3 := count (count s2 p) (twinOf p)
      if t + 1 = 128 * d.blkP then s3.passEnd p else s3)

/-! OUTPUT_FINAL, ACCUMULATOR_DRAIN (R283-R286). -/

/-- The accumulator whose last row was issued first, of those whose last row has been issued; of several, the one claimed first (R284). -/
def Dpe.nextFinal (d : Dpe) (now : Ctr) : Option Acc :=
  d.accs.foldl (fun (b : Option Acc) a =>
    match a.doneAt, b with
    | none, _ => b
    | some _, none => some a
    | some t, some c => if elapsed now (c.doneAt.getD 0) < elapsed now t then some a else b) none

/-- OUTPUT_FINAL (R283, R284): a column whose last row was issued 48 cycles ago is final; its plates drain, those of jobs
given to the SME are discarded. -/
def execOutputFinal (p : SliceNo) (s : State) : Outcome :=
  let d := (s.slice p).dpe
  match d.nextFinal (s.now (psIsl p)) with
  | none => .next s
  | some a =>
    guarded (s.pathLive p && decide (48 ≤ elapsed (s.now (psIsl p)) (a.doneAt.getD 0))) s
      (let rows := (List.range a.p).map fun x => (a.row0 + x, x)
      let out := rows.filter fun e => !a.skip.contains e.1
      let plates := out.map fun e => {
        i := e.1, n := a.n, row0 := a.row0, p := a.p, second := a.second, at_ := a.at_
        rows := (a.rows.drop (128 * e.2)).take 128, poison := a.poison.contains e.1 : OutPlate }
      (s.onDpe p fun d => { d with accs := d.accs.erase a, drain := d.drain ++ plates }).bump
        (psIsl p) psDpeDiscard (rows.length - out.length))

/-- A finished output plate goes where the command says (R253, R285, R286): to the store path, or out of the export port. -/
def State.outPlate (s : State) (p : SliceNo) (j : MatJob) (i n : Nat) (vals : List F32) (poison trimmed : Bool) : State :=
  let s0 := if poison then s.onRun j.run fun r => { r with poisoned := true } else s
  if j.dest = 1 then
    let c := convertTo j.expFmt vals
    s0.txPush p {
      run := j.run, stream := j.expStream, seq := BitVec.ofNat 16 ((i - j.row0) * j.cols + (n - j.col0)), fmt := j.expFmt
      rows := packElems j.expFmt c.1, scales := c.2, poison := poison }
  else match s0.findRun j.run with
    | none => s0
    | some r => match r.dst with
      | none => s0
      | some o => s0.storeItem p {
          run := some j.run, obj := o, plate := BitVec.ofNat 24 (i * j.np + n)
          data := { fmt := .f32, codes := vals.map (·.toNat), scales := [], map := 0, poison := poison }
          bound := r.bound, trimmed := trimmed, master := r.master, slot := r.encSlot }

/-- Whether a finished plate can leave slice q now: the store path has room for it, or the export port sends no other plate of its
command (R252, R284, R311). -/
def State.outRoom (s : State) (q : SliceNo) (j : MatJob) : Bool :=
  if j.dest = 0 then decide ((s.slice q).storeHeld < 16) else if j.dest = 1 then !((s.slice q).xp.tx.any fun t => t.run == j.run) else true

/-- The engine whose plate drains from slice q next, and the plate: its own, or that of a logical slice which lies in it (R292, R293). -/
def State.drainFrom (s : State) (q : SliceNo) : Option (SliceNo × OutPlate) :=
  [q, twinOf q].findSome? fun p => ((s.slice p).dpe.drain.find? fun o => o.at_ == q).map fun o => (p, o)

/-- ACCUMULATOR_DRAIN (R284-R286, R292): of the plates that stand in slice q, the one that became final first drains, to the store path,
out of the export port, or into the staged block of the second stage. -/
def execAccumulatorDrain (q : SliceNo) (s : State) : Outcome :=
  match s.drainFrom q with
  | none => .next s
  | some (p, o) =>
    let d := (s.slice p).dpe
    match (if o.second then d.job2 else d.job) with
    | none => .next s
    | some j =>
      guarded (s.pathLive q && s.outRoom q j) s
        (let s1 := (s.onDpe p fun d => { d with drain := d.drain.erase o }).bump (psIsl q) psDpeJobs
        let s2 := if o.poison then s1.bump (psIsl q) psDpePoison else s1
        let vals := o.rows.flatten
        if j.dest = 2 then
          let f := match d.job2 with | some k => k.cfmt | none => .p4
          let c := convertTo f vals
          s2.onDpe p fun d => { d with staged := d.staged ++ [(o.i, o.n, {
            fmt := f, codes := c.1, scales := c.2, map := BitVec.allOnes 256, poison := o.poison })] }
        else s2.outPlate q j o.i o.n vals o.poison false)

end Sys2Proof.Machine
end

