-- ==== Sys2Proof/Machine/Pair.lean ====
section
/-! DEFINITION. The pair: joining for one command, and the failover bridge (R289-R295). -/

namespace Sys2Proof.Machine

def State.onPair (s : State) (p : SliceNo) (f : Pair → Pair) : State := s.onSlice p fun x => { x with pair := f x.pair }

/-- The engines of a slice have finished the row block they ran (R292). -/
def Slice.noBlock (x : Slice) : Bool := x.dpe.blkP == 0 && x.sme.jobs.isEmpty && x.sme.group.isEmpty && x.dpe.accs.isEmpty && x.dpe.drain.isEmpty

/-- The lower and the higher slice of a pair. -/
def pairLow (k : Fin 16) : SliceNo := ⟨2 * k.val, by omega⟩
def pairHigh (k : Fin 16) : SliceNo := ⟨2 * k.val + 1, by omega⟩

/-- The join flag of the command at the front of a slice's queue is declined: it runs unjoined (R292). -/
def State.declineJoin (s : State) (p : SliceNo) : State :=
  let run := ((s.slice p).dpe.queue.head?).map (·.1.run)
  let off (j : MatJob × Option MatJob) : MatJob × Option MatJob := ({ j.1 with join := false }, j.2)
  let s1 := (s.onSlice p fun x => { x with
    pair := { x.pair with joinWait := false }
    dpe := { x.dpe with queue := match x.dpe.queue with | j :: rest => off j :: rest | [] => [] } }).bump (psIsl p) psPairDeclined
  match run with | some id => s1.onRun id fun r => { r with joinDeclined := true } | none => s1

/-- The slices join for the command at the front of the lead's queue (R292). -/
def State.joinPair (s : State) (p : SliceNo) : State :=
  let run := ((s.slice p).dpe.queue.head?).map (·.1.run)
  ((s.onPair p fun q => { q with joined := true, lead := true, joinWait := false, run := run }).onPair (twinOf p) fun q =>
    { q with joined := true, lead := false, run := run }).bump (psIsl p) psPairJoins

/-- PAIR_JOIN (R292): with both row blocks at an end the pair joins under the slice that received the command; a join flag
that can no longer be met is declined. -/
def execPairJoin (pair : Fin 16) (s : State) : Outcome :=
  let a := pairLow pair
  let b := pairHigh pair
  let p := if (s.slice a).pair.joinWait then a else b
  guarded ((s.slice p).pair.joinWait && s.pathLive p && !(s.slice p).pair.joined) s
    (if s.joinDeclined p then s.declineJoin p
    else if (s.slice a).noBlock && (s.slice b).noBlock then s.joinPair p
    else s)

/-- Whether the last pass of a joined command has started its last row, or the command has gone (R292); while the SME has jobs of the
command, a pass may still come of their re-dispatch, and their lanes and sets lie in both slices (DEDUCED, log entry 130). -/
def Slice.joinOver (x : Slice) : Bool :=
  match x.dpe.job with
  | none => true
  | some j =>
    let d := x.dpe
    x.pair.run != some j.run ||
    (d.blocks.isEmpty && d.redo.isEmpty && x.sme.jobs.isEmpty && x.sme.group.isEmpty &&
      (d.blkP == 0 || (d.issued && (d.job2.isNone || d.phase2))))

/-- PAIR_SEPARATE (R292). -/
def execPairSeparate (pair : Fin 16) (s : State) : Outcome :=
  let p := if (s.slice (pairLow pair)).pair.lead then pairLow pair else pairHigh pair
  let off (q : Pair) : Pair := { q with joined := false, lead := false, run := none }
  guarded ((s.slice p).pair.joined && (s.slice p).pair.lead && (s.slice p).joinOver) s ((s.onPair p off).onPair (twinOf p) off)

/-- Whether a slice's pair is capable and its twin can serve its port end (R294). -/
def State.twinServes (s : State) (p : SliceNo) : Bool := s.pairCapable p && s.sliceWorks (twinOf p)

/-- Whether a port end has nothing outstanding and nothing to write back (R294). -/
def Mp.settled (m : Mp) : Bool :=
  m.tags.all (·.timedOut) && m.ahead.isEmpty && !(m.cache.any fun e => e.dirty || e.wb) && m.waiting.all fun r => r.isData

/-- PORT_END_READY_NOTICE (R294): the port end of a slice whose datapath is shut has finished its tags and its guard
write-backs; the notice is visible to the twin, which serves the port end from now. -/
def execPortEndReadyNotice (p : SliceNo) (s : State) : Outcome :=
  let x := s.slice p
  guarded ((s.isl (psIsl p)).live && x.dataShut && !x.pair.noticeSent && s.twinServes p && x.mp.settled) s
    ((s.onPair p fun q => { q with noticeSent := true }).onPair (twinOf p) fun q =>
      { q with serving := true, noticeAt := some (s.now (psIsl (twinOf p))) })

/-- TWIN_TAKE_UP (R294): slice p, which serves its twin's port end, takes up the home duties for its device; the index and
guard caches for it start empty. -/
def execTwinTakeUp (p : SliceNo) (s : State) : Outcome :=
  let o := twinOf p
  guarded (s.awake (psIsl p) && (s.slice p).pair.serving && !(s.slice o).mp.bridged && (s.slice o).pair.noticeSent) s
    (s.onSlice o fun x => { x with
      pair := { x.pair with portEnd := true }
      mp := { x.mp with bridged := true, cache := [] }
      home := { x.home with icache := [] } })

end Sys2Proof.Machine
end

