-- ==== Sys2Proof/Machine/SmeOps.lean ====
section
/-! DEFINITION. The Sparse Merge Engine, the shared operations: the engine choice, field products, the field store, the hash
accumulator, the spill strip (R297-R322). -/

namespace Sys2Proof.Machine

def State.onSme (s : State) (p : SliceNo) (f : Sme → Sme) : State := s.onSlice p fun x => { x with sme := f x.sme }

/-! Field products (R298-R300). -/

/-- Non-zero fields of a delivered map in column y. -/
def colFields (m : BitVec 256) (y : Nat) : List Nat := (List.range 16).filter fun x => m.getLsbD (16 * x + y)
/-- Non-zero fields of row x. -/
def rowFields (m : BitVec 256) (x : Nat) : List Nat := (List.range 16).filter fun y => m.getLsbD (16 * x + y)

/-- Matched pairs of two plates of one reduction index (R319). -/
def matchedPairs (ma mb : BitVec 256) : Nat :=
  ((List.range 16).map fun y => (colFields ma y).length * (colFields mb y).length).sum

/-- The product of field (fa, y) of A's plate and field (fb, y) of B's, 64 elements row by row (R299). -/
def fieldProduct (a b : Plate) (fa fb y : Nat) : List F32 :=
  (List.range 64).map fun e =>
    let ra := 8 * fa + e / 8
    let rb := 8 * fb + e % 8
    let x := a.row ra
    let z := b.row rb
    segValue a.fmt (scaleAt a.scales ra (8 * y)) (scaleAt b.scales rb (8 * y))
      ((List.range 8).map fun t => (false, x.getD (8 * y + t) 0, z.getD (8 * y + t) 0))

/-! The engine choice (R317-R320). -/

/-- Cycles in which an array takes one row (R273). -/
def cprOf : Fmt → Nat | .p4 => 1 | .p8 => 2 | _ => 8

/-- The unmasked merge lanes of the engine of slice p: 0-15 of PS2k and 16-31 of PS2k+1 in a logical slice (R322). -/
def State.lanes (s : State) (p : SliceNo) : List Nat :=
  let own (q : SliceNo) (off : Nat) : List Nat := ((List.range 16).filter fun i => !(s.slice q).sme.masked.getLsbD i).map (· + off)
  if s.logical p then own (Fin.ofNat 32 (p.val / 2 * 2)) 0 ++ own (Fin.ofNat 32 (p.val / 2 * 2 + 1)) 16 else own p 0

/-- The slice a merge lane lies in. -/
def State.laneSlice (s : State) (p : SliceNo) (l : Nat) : SliceNo :=
  if s.logical p then Fin.ofNat 32 (p.val / 2 * 2 + l / 16 % 2) else p

/-- Where the choice takes the map of an operand plate from (R318): the actual map and the bound the plate fails, the
Almanac at a home on this block or on another, or none: dense. Of an Almanac line on another block the manual gives no packet that
brings it: what the choice reads there is a free value (log entry 58). -/
inductive MapFrom where
  | actual (m : BitVec 256) (excess : Nat)
  | almanac (slice : SliceNo) (base : Nat)
  | away (oid : BitVec 40)
  | dense (noHistory : Bool)
deriving DecidableEq, Repr, Inhabited

/-- The source of the map of stored plate k of an operand; `held` is the plate as a resident block or the field store
holds it. -/
def State.mapFrom (s : State) (o : ObjRec) (k : Nat) (held : Option (Plate × Nat)) : MapFrom :=
  match (if o.code = 2 then held else none) with
  | some h => .actual h.1.map h.2
  | none =>
    if o.code != 0 && o.code != 2 then .dense false
    else match s.eph.serves o.oid (spanOf k) with
      | .at q base e => if e.noFrame then .dense true else if s.eph.isWritten o.oid k then .almanac q base else .dense true
      | .unwritten .. => .dense true
      | .notHome => .away o.oid

/-- The plates A(i, kp), or B(n, kp), that the jobs of a row block use, with what is held of them. -/
def Dpe.operands (x : Slice) (j : MatJob) (rows : List Nat) (isA : Bool) : List (Nat × Option (Plate × Nat)) :=
  let d := x.dpe
  if isA then rows.flatMap fun i => (List.range j.kps).map fun kp =>
    (j.aPlate i kp, (d.acts.find? fun e => e.1 == i && e.2.1 == kp).map fun e => (e.2.2.1, e.2.2.2))
  else ((List.range j.cols).map (j.col0 + ·)).flatMap fun n => (List.range j.kps).map fun kp =>
    (j.bPlate n kp, (x.sme.field.find? fun e => !e.1 && e.2.1 == n && e.2.2.1 == kp).map fun e => (e.2.2.2.1, e.2.2.2.2))

/-- Reads the Almanac lines that a choice needs, each once, and counts entries read and plates without history (R267, R268). -/
def State.askMaps (s : State) (p : SliceNo) (j : MatJob) (rows : List Nat) : State :=
  let x := s.slice p
  let all (isA : Bool) : List (Bool × Nat × MapFrom) := (Dpe.operands x j rows isA).map fun e =>
    (isA, e.1, s.mapFrom (if isA then j.a else j.b) e.1 e.2)
  let ops := (all true ++ all false).eraseDups
  let alm := ops.filter fun e => match e.2.2 with | .almanac .. => true | _ => false
  let away := ops.filter fun e => match e.2.2 with | .away _ => true | _ => false
  let bare := ops.filter fun e => e.2.2 == .dense true
  let line (e : Bool × Nat × MapFrom) : Bool × Nat := (e.1, e.2.1 / 16)
  let lines := alm.foldl (fun (l : List (Bool × Nat × MapFrom)) e => if l.any fun f => line f == line e then l else l ++ [e]) []
  let ask (s : State) (e : Bool × Nat × MapFrom) : State := match e.2.2 with
    | .almanac q base =>
      let i := s.newId
      i.2.beginJob q { id := i.1, obj := if e.1 then j.a else j.b, plate := BitVec.ofNat 24 e.2.1, dest := .almanac p e.1, base := base }
    | _ => s
  let s1 := s.onDpe p fun d => { d with mapsAsked := some (lines.map fun e => (e.1, e.2.1)) }
  ((lines.foldl ask s1).bump (psIsl p) psAlmRead (alm.length + away.length)).bump (psIsl p) psAlmNohist bare.length

/-- What the choice takes a plate for: its map as delivered, whether that is actual, read from the Almanac, overrunning. -/
structure MapUse where
  map : BitVec 256
  actual : Bool := false
  alm : Bool := false
  excess : Bool := false
deriving DecidableEq, Repr, Inhabited

/-- The map the choice uses for a plate (R318), oriented as delivered. -/
def State.mapUse (s : State) (d : Dpe) (o : ObjRec) (isA xpose : Bool) (k : Nat) (held : Option (Plate × Nat)) : MapUse :=
  match s.mapFrom o k held with
  | .actual m excess => { map := m, actual := true, excess := excess != 0 }
  | .almanac .. =>
    let m := match d.maps.find? fun e => e.1 == (isA, k) with | some e => e.2 | none => BitVec.allOnes 256
    { map := if xpose then transposeMap m else m, alm := true }
  | .away oid => { map := Config.almanacAway oid.toNat k s.freeIdx, alm := true }
  | .dense _ => { map := BitVec.allOnes 256 }

/-- Whether the SME takes a job of so many pairs (R319). -/
def smeTakes (pairs arrays kps cpr lanes bias : Nat) : Bool := decide (pairs * arrays * 256 < kps * 128 * cpr * lanes * bias)

/-- The choice for job (i, n): whether the SME takes it, whether every map was actual, whether an Almanac entry was used. -/
def State.chooseJob (s : State) (p : SliceNo) (j : MatJob) (i n : Nat) : Bool × Bool × Bool :=
  let x := s.slice p
  let ma := (List.range j.kps).map fun kp => s.mapUse x.dpe j.a true j.xposeA (j.aPlate i kp)
    ((x.dpe.acts.find? fun e => e.1 == i && e.2.1 == kp).map fun e => (e.2.2.1, e.2.2.2))
  let mb := (List.range j.kps).map fun kp => s.mapUse x.dpe j.b false j.xposeB (j.bPlate n kp)
    ((x.sme.field.find? fun e => !e.1 && e.2.1 == n && e.2.2.1 == kp).map fun e => (e.2.2.2.1, e.2.2.2.2))
  let pairs := (List.zipWith (fun a b => matchedPairs a.map b.map) ma mb).sum
  let excess := (ma ++ mb).any (·.excess)
  (!excess && smeTakes pairs (s.arrays p).length j.kps (cprOf j.cfmt) (s.lanes p).length j.bias,
    (ma ++ mb).all (·.actual), (ma ++ mb).any (·.alm))

/-! The field store (R303, R314, R315). -/

/-- Whether every element of field (x, y) of a delivered plate lies in padding of its object. -/
def fieldPadded (o : ObjRec) (k : Nat) (xpose : Bool) (x y : Nat) : Bool :=
  if xpose then isPadding o k (8 * y) (8 * x) else isPadding o k (8 * x) (8 * y)

/-- Fields beyond extent of A(i, kp) or B(n, kp) (R314): in padding of their own object, or of the other along the reduction. -/
def beyondExtent (j : MatJob) (isA : Bool) (r kp x y : Nat) : Bool :=
  if isA then fieldPadded j.a (j.aPlate r kp) j.xposeA x y || fieldPadded j.b (j.bPlate 0 kp) j.xposeB 0 y
  else fieldPadded j.b (j.bPlate r kp) j.xposeB x y || fieldPadded j.a (j.aPlate 0 kp) j.xposeA 0 y

/-- A map with every group of g fields of a row cut to its first b (R315). -/
def trimMap (m : BitVec 256) (code : Nat) : BitVec 256 :=
  let bg := (boundOf code).getD (16, 16)
  (List.range 256).foldl (fun (t : BitVec 256) f =>
    let x := f / 16
    let y := f % 16
    let before := ((rowFields m x).filter fun z => z / bg.2 == y / bg.2 && z < y).length
    if m.getLsbD f && bg.1 ≤ before then setBit t f false else t) m

/-- A delivered operand plate as the field store keeps it: its map without fields beyond extent, and trimmed where the
command forces the SME; with the bad indices and trimmed fields dropped. -/
def storeFields (j : MatJob) (isA : Bool) (r kp : Nat) (pl : Plate) (excess : Nat) : Plate × Nat × Nat :=
  let m1 := (List.range 256).foldl (fun (t : BitVec 256) f =>
    if pl.map.getLsbD f && beyondExtent j isA r kp (f / 16) (f % 16) then setBit t f false else t) pl.map
  let m2 := if j.engine = 2 && excess != 0 then trimMap m1 excess else m1
  let zfc := (if isA then j.a else j.b).code == 2
  ({ pl with map := m2 }, if zfc then popcount pl.map - popcount m1 else 0, popcount m1 - popcount m2)

/-- Operand plates that the Eyepiece has delivered move into the field store. -/
def State.smeAbsorb (s : State) (p : SliceNo) (j : MatJob) : State :=
  let mine (d : Delivered) : Bool := d.run == j.run && match d.want.use with | .sme .. => true | _ => false
  let outs := (s.slice p).eye.outs.filter mine
  let s0 := s.onSlice p fun x => { x with eye := { x.eye with outs := x.eye.outs.filter fun d => !mine d } }
  outs.foldl (fun s d => match d.want.use with
    | .sme isA r kp =>
      let f := storeFields j isA r kp d.plate d.excess
      let add (m : Sme) : Sme := { m with field := m.field ++ [(isA, r, kp, f.1, d.excess)] }
      let s1 := ((s.onSme p add).bump (psIsl p) psSmeBadidx f.2.1).bump (psIsl p) psSmeTrimmed f.2.2
      s1.onRun j.run fun r => { r with dropped := r.dropped + f.2.1 + f.2.2, trimmed := r.trimmed || f.2.2 != 0 }
    | _ => s) s0

/-- An operand plate in the field store, with the bound it fails. -/
def Sme.fieldAt (m : Sme) (isA : Bool) (r kp : Nat) : Option (Plate × Nat) :=
  (m.field.find? fun e => e.1 == isA && e.2.1 == r && e.2.2.1 == kp).map fun e => (e.2.2.2.1, e.2.2.2.2)

/-- The reduction plates of a chunk (R301). -/
def MatJob.chunkKps (j : MatJob) (c : Nat) : List Nat := (List.range 8).map (8 * c + ·) |>.filter (· < j.kps)
def MatJob.chunks (j : MatJob) : Nat := cdiv j.kps 8

/-- The updates of a task in the order of its merge (R304): y ascending, then the field row of B ascending. -/
def Sme.updates (m : Sme) (j : MatJob) (t : Task) : List HEnt :=
  (j.chunkKps t.c).flatMap fun kp =>
    match m.fieldAt true t.i kp, m.fieldAt false t.n kp with
    | some a, some b => (rowFields a.1.map t.a).flatMap fun y => (colFields b.1.map y).map fun c =>
        { k := t.i * j.np + t.n, f := 16 * t.a + c, v := fieldProduct a.1 b.1 t.a c y }
    | _, _ => []

/-! Jobs and tasks. -/

def SJob.key (g : SJob) : Nat × Nat := (g.i, g.n)
def Sme.onJob (m : Sme) (i n : Nat) (f : SJob → SJob) : Sme := { m with group := mapIf (fun g => g.i == i && g.n == n) f m.group }

/-- Unfinished tasks of the engine: queued and begun. -/
def Sme.tasks (m : Sme) : List Task := m.queues.toList.flatten ++ m.work.map (·.task)

/-- The plate jobs whose tasks of some chunk are unfinished, with the chunk. -/
def Sme.live (m : Sme) : List (Nat × Nat × Nat) := (m.tasks.map fun t => (t.i, t.n, t.c)).eraseDups

/-- The field store without the plates that no task needs any more: those of B whose chunk has been queued and worked off,
those of A of earlier chunks (R303). -/
def Sme.prune (m : Sme) : Sme :=
  { m with field := m.field.filter fun e =>
      e.2.2.1 / 8 == m.chunk || m.live.any fun t => t.2.2 == e.2.2.1 / 8 && (if e.1 then t.1 else t.2.1) == e.2.1 }

/-- A task's end: counted, and its job told (R305). -/
def State.taskEnds (s : State) (p : SliceNo) (lane : Nat) (t : Task) : State :=
  (s.onSme p fun m => ({ m with work := m.work.filter fun w => w.lane != lane }).onJob t.i t.n fun g => { g with done := g.done + 1 }).bump
    (psIsl (s.laneSlice p lane)) psSmeTasks

/-! The hash accumulator (R307, R308, R322). -/

/-- The set of a key: of 2,048, or of 4,096 in a logical slice. -/
def haccSet (joined : Bool) (k f : Nat) : Nat := 256 * (k % (if joined then 16 else 8)) + f

/-- Adds an update: to its entry, to a free way, or in the way of the oldest entry of its set, which spills; none where the
spill buffer is full. -/
def Sme.haccAdd (m : Sme) (joined : Bool) (np : Nat) (u : HEnt) : Option Sme :=
  if m.hacc.any fun e => e.k == u.k && e.f == u.f then
    some { m with hacc := mapIf (fun e => e.k == u.k && e.f == u.f) (fun e => { e with v := List.zipWith f32Add e.v u.v }) m.hacc }
  else
    let set := m.hacc.filter fun e => haccSet joined e.k e.f == haccSet joined u.k u.f
    match (if set.length < 4 then none else set.head?) with
    | none => some { m with hacc := m.hacc ++ [u] }
    | some old =>
      if 16 ≤ m.spill.length then none
      else some { m with
        hacc := (m.hacc.erase old) ++ [u], spill := m.spill ++ [old]
        group := mapIf (fun g => g.i * np + g.n == old.k) (fun g => { g with spilled := true }) m.group }

/-! The spill strip (R309-R313). -/

/-- The 32 KiB of a spill plate with its records (R309). -/
def spillPlate (l : List HEnt) : List Byte :=
  fit 504 (l.flatMap fun e => leBytes 4 (e.k * 256 + e.f)) ++ leBytes 2 l.length ++ List.replicate 6 0 ++
    fit 32256 (l.flatMap fun e => e.v.flatMap fun x => leBytes 4 x.toNat)

/-- The records of a spill plate. -/
def spillRecords (b : List Byte) : List HEnt :=
  let n := leNat ((b.drop 504).take 2)
  (List.range (min n 126)).map fun r =>
    let key := leNat ((b.drop (4 * r)).take 4)
    { k := key / 256, f := key % 256
      v := (List.range 64).map fun e => BitVec.ofNat 32 (leNat ((b.drop (512 + 256 * r + 4 * e)).take 4)) }

/-- Gives spill plate x of a group to the strip's home; false while that home is not known. -/
def State.stripWrite (s : State) (p : SliceNo) (j : MatJob) (x : Nat) (l : List HEnt) : Bool × State :=
  s.homeWrite (s.storeOf p) { obj := j.spill, plate := BitVec.ofNat 24 x, body := spillPlate l }

/-- Whether the homes of the first n spill plates are known, and the state with a LOOKUP for the first that is not. -/
def State.stripKnown (s : State) (j : MatJob) (n : Nat) : Bool × State :=
  match (List.range n).find? fun x => (s.homeOf j.spill.oid (spanOf x)).isNone with
  | none => (true, s)
  | some x => (false, (s.lookup j.spill.oid (spanOf x)).2)

/-- A record had to be written and the strip is full (R313): the command stops with SPILL_EXHAUSTED; plates already drained
stay written, every other result is discarded. -/
def State.exhaust (s : State) (p : SliceNo) (run : Nat) : State :=
  let drop (x : Slice) : Slice :=
    if x.dpe.runs run then { x with
      eye := x.eye.dropRun run, dpe := x.dpe.dropRun run
      sme := { masked := x.sme.masked, exhaustSeen := x.sme.exhaustSeen } }
    else { x with eye := x.eye.dropRun run }
  let s1 := s.onSme p fun m => { m with exhaustSeen := true }
  if s.consistent then s1.failRun (some run) stSpillExhausted
  else
    let s2 := (s1.onSlice p drop).onSlice (twinOf p) drop
    let inStore : List (BitVec 40 × Nat) := (List.finRange 32).flatMap fun q =>
      ((s.slice q).store.queue.filter fun e => e.run == some run).map fun e => (e.obj.oid, e.plate.toNat)
    let atHome : List (BitVec 40 × Nat) := (List.finRange 32).flatMap fun q =>
      ((s.slice q).home.inq.filter fun w => w.run == some run).map fun w => (w.obj.oid, w.plate.toNat)
    s2.onRun run fun r => { r with
      status := if r.status = 0 then stSpillExhausted else r.status
      dests := r.dests.filter fun d => r.stored.contains d || inStore.contains d || atHome.contains d }

/-- The 128 rows of an output plate from the entries of the accumulator: a field with no entry is +0 (R311). -/
def Sme.plateOf (m : Sme) (k : Nat) : List F32 :=
  let es := m.hacc.filter fun e => e.k == k
  (List.range 16384).map fun x =>
    let r := x / 128
    let c := x % 128
    match es.find? fun e => e.f == 16 * (r / 8) + c / 8 with
    | some e => e.v.getD (8 * (r % 8) + c % 8) 0
    | none => 0

/-- The slice from which an output plate of the engine of slice p drains (R322). -/
def State.drainSlice (s : State) (p : SliceNo) (k : Nat) : SliceNo :=
  if s.logical p then Fin.ofNat 32 (p.val / 2 * 2 + k % 16 / 8) else p

/-- Drains the plate of a job: to its destination; its entries are freed and it counts as drained (R311, R316). -/
def State.drainJob (s : State) (p : SliceNo) (j : MatJob) (g : SJob) : State :=
  let k := g.i * j.np + g.n
  let vals := (s.slice p).sme.plateOf k
  let s1 := s.outPlate (s.drainSlice p k) j g.i g.n vals g.poisoned g.trimmed
  (s1.onSme p fun m => { m.onJob g.i g.n (fun g => { g with drained := true }) with
    hacc := m.hacc.filter (fun e => e.k != k), roundOf := m.roundOf.filter fun e => e != g.key }).bump (psIsl p) psSmeJobs

/-- Drains plates in order, as far as their slices can take them (R252, R311). -/
def State.drainJobs (p : SliceNo) (j : MatJob) : List SJob → State → State
  | [], s => s
  | g :: rest, s =>
    if s.outRoom (s.drainSlice p (g.i * j.np + g.n)) j then State.drainJobs p j rest (s.drainJob p j g) else s

end Sys2Proof.Machine
end

