-- ==== Sys2Proof/Machine/Sme.lean ====
section
/-! DEFINITION. The Sparse Merge Engine and the engine choice, the commands (R297-R322). -/

namespace Sys2Proof.Machine

/-- The rows of the row block that the choice is for: the running one, else, once that is chosen, the next one (R320). -/
def Dpe.choiceRows (d : Dpe) : List Nat :=
  if d.blkP != 0 && !d.chosen then d.rows else if d.next.isSome then [] else d.nextRows

/-- ENGINE_CHOICE (R317-R320): the Almanac lines that the choice for a row block needs are read; once they have come, each job of the
block goes to the DPE or joins the SME's order. The choice for a block is made while the block before it runs. -/
def execEngineChoice (p : SliceNo) (s0 : State) : Outcome :=
  let s := s0.dpeAbsorb p
  let d := (s.slice p).dpe
  match d.job with
  | none => .next s0
  | some j =>
    let here := d.blkP != 0 && !d.chosen
    guarded (s0.pathLive p && !d.choiceRows.isEmpty && j.engineOf == 0) s0
      (match d.mapsAsked with
      | none => s.askMaps p j d.choiceRows
      | some l =>
        if !(l.all fun a => d.maps.any fun e => e.1 == a) then s
        else
          let jobs := d.choiceRows.flatMap fun i => d.cols.map fun n => (i, n)
          let picks := jobs.map fun e => (e, s.chooseJob p j e.1 e.2)
          let sme : List ((Nat × Nat) × Bool × Bool × Bool) := picks.filter fun e => e.2.1
          let sjobs : List SJob := sme.map fun e => { i := e.1.1, n := e.1.2, check := !e.2.2.1 }
          let d0 : Dpe := { d with maps := [], mapsAsked := none }
          let d1 : Dpe := if here then { d0 with toSme := sme.map (fun e => e.1), chosen := true } else { d0 with next := some (sme.map fun e => e.1) }
          let d2 : Dpe := if here then { d1 with steps := d1.stepsOf d1.cols } else d1
          let s1 := s.onSlice p fun x => { x with dpe := d2, sme := { x.sme with jobs := x.sme.jobs ++ sjobs } }
          ((s1.bump (psIsl p) psChoiceSme sme.length).bump (psIsl p) psChoiceDpe (picks.length - sme.length)).bump (psIsl p) psChoiceAlm
            (picks.filter fun e => e.2.2.2).length)

/-! CHUNK_QUEUE (R302, R303, R321). -/

/-- The next group: jobs of one plate row, at most GROUP of them (R302). -/
def Sme.formGroup (m : Sme) (size : Nat) : Sme :=
  match m.jobs with
  | [] => m
  | g :: _ =>
    let l := (m.jobs.takeWhile fun e => e.i == g.i).take size
    { m with jobs := m.jobs.drop l.length, group := l, chunk := 0, jobIx := 0, asked := false, aAsked := false, strip := [], stripOut := 0 }

/-- Asks for the plates of the next job and chunk: A's once per group and chunk, B's for each job (R302). -/
def State.askChunk (s : State) (p : SliceNo) (j : MatJob) (g : SJob) : State :=
  let m := (s.slice p).sme
  let ks := j.chunkKps m.chunk
  let s1 := if m.aAsked then s else
    s.openStream p j.run j.a (ks.map fun kp => (j.aPlate g.i kp, Use.sme true g.i kp)) (some j.cfmt) j.xposeA
  (s1.openStream p j.run j.b (ks.map fun kp => (j.bPlate g.n kp, Use.sme false g.n kp)) (some j.cfmt) j.xposeB).onSme p fun m =>
    { m with asked := true, aAsked := true }

/-- A job becomes void and goes back to the DPE (R321). -/
def State.voidJob (s : State) (p : SliceNo) (j : MatJob) (g : SJob) : State :=
  let k := g.i * j.np + g.n
  let of (t : Task) : Bool := t.i == g.i && t.n == g.n
  let s1 := s.onSlice p fun x => { x with
    sme := { x.sme.onJob g.i g.n fun g => { g with void := true } with
      queues := x.sme.queues.map fun q => q.filter fun t => !of t
      work := mapIf (fun w => of w.task) (fun w => { w with left := [] }) x.sme.work
      hacc := x.sme.hacc.filter fun e => e.k != k }
    dpe := { x.dpe with redo := x.dpe.redo ++ [(g.i, g.n)] } }
  (s1.bump (psIsl p) psSmeRedispatch).onRun j.run fun r => { r with redispatch := r.redispatch + 1 }

/-- Queues the 16 tasks of a job and chunk: task a on the (a mod L)-th unmasked lane (R302). -/
def Sme.queueTasks (m : Sme) (lanes : List Nat) (g : SJob) (c : Nat) : Sme :=
  (List.range 16).foldl (fun m a =>
    let l : Fin 32 := Fin.ofNat 32 (lanes.getD (a % lanes.length) 0)
    { m with queues := m.queues.set l (m.queues[l] ++ [{ i := g.i, n := g.n, c := c, a := a }]) }) m

/-- The plates of a job and chunk have all come: its tasks are queued, and a job chosen from a map that was not actual is
checked again (R302, R321). -/
def State.queueChunk (s : State) (p : SliceNo) (j : MatJob) (g : SJob) : State :=
  let m := (s.slice p).sme
  let ks := j.chunkKps m.chunk
  let a := ks.filterMap fun kp => m.fieldAt true g.i kp
  let b := ks.filterMap fun kp => m.fieldAt false g.n kp
  let pairs := (List.zipWith (fun a b => matchedPairs a.1.map b.1.map) a b).sum
  let excess := (a ++ b).any fun e => e.2 != 0
  let g1 := { g with
    pairs := g.pairs + pairs, queued := g.queued + 1, poisoned := g.poisoned || (a ++ b).any (·.1.poison)
    trimmed := g.trimmed || (j.engine == 2 && excess) }
  let s1 := s.onSme p fun m =>
    { (m.onJob g.i g.n fun _ => g1).queueTasks (s.lanes p) g m.chunk with jobIx := m.jobIx + 1, asked := false }
  let again := g.check && j.engine == 0 && (excess ||
    decide (j.kps * 128 * cprOf j.cfmt * (s.lanes p).length * j.bias * j.margin ≤ g1.pairs * (s.arrays p).length * 256 * 256))
  if again then s1.voidJob p j g1 else s1

/-- What the SME loads next (R302, R303): a group is formed, plates are asked for, a chunk is queued or done with. -/
def State.chunkNext (s0 : State) (p : SliceNo) (j : MatJob) : State :=
  let s := s0.smeAbsorb p j
  let m := (s.slice p).sme
  if m.group.isEmpty then
    if m.jobs.isEmpty || !m.hacc.isEmpty || !m.tasks.isEmpty then s else s.onSme p fun m => m.formGroup j.group
  else if j.chunks ≤ m.chunk then s
  else match m.group[m.jobIx]? with
    | none => s.onSme p fun m => ({ m with chunk := m.chunk + 1, jobIx := 0, asked := false, aAsked := false }).prune
    | some g =>
      if g.void then s.onSme p fun m => { m with jobIx := m.jobIx + 1, asked := false }
      else if !m.asked then
        if 2 ≤ m.live.length then s else (s.onSme p Sme.prune).askChunk p j g
      else if (j.chunkKps m.chunk).all fun kp => (m.fieldAt true g.i kp).isSome && (m.fieldAt false g.n kp).isSome then
        s.queueChunk p j g
      else s

/-- CHUNK_QUEUE (R302, R303). -/
def execChunkQueue (p : SliceNo) (s : State) : Outcome :=
  match (s.slice p).dpe.job with
  | none => .next s
  | some j => guarded (s.pathLive p && !(s.slice p).sme.draining && !(s.lanes p).isEmpty && !s.abandoned j.run) s (s.chunkNext p j)

/-! TASK_RUN, WORK_STEAL (R304-R308, R453). -/

/-- A lane issues its next matched pair (R305, R307, R308): where the pair spills and the spill buffer is full, the lane
waits. A pair whose check fails is issued again, and a second time by the next lane (R453). -/
def State.lanePair (s : State) (p : SliceNo) (j : MatJob) (w : LaneWork) : State :=
  let q := s.laneSlice p w.lane
  match w.left with
  | [] => s.taskEnds p w.lane w.task
  | u :: rest =>
    let i := s.inject (psIsl q) 0x0107 (w.lane % 16)
    let s1 := if i.1 then i.2.event (psIsl q) {
        code := 0x0107, inst := BitVec.ofNat 16 (w.lane % 16), oid := j.b.oid, injected := true } else s
    if i.1 && !w.failed then
      s1.onSme p fun m => { m with work := mapIf (fun v => v.lane == w.lane) (fun v => { v with failed := true }) m.work }
    else match (s1.slice p).sme.haccAdd (s.logical p) j.np u with
      | none => s
      | some m1 =>
        let s2 := ((s1.onSme p fun _ =>
          { m1 with work := mapIf (fun v => v.lane == w.lane) (fun v => { v with left := rest, failed := false }) m1.work }).bump
            (psIsl q) psSmePairs).bump (psIsl q) psSmeBusy
        if rest.isEmpty then s2.taskEnds p w.lane w.task else s2

/-- TASK_RUN (R304-R308): a lane goes on with its task by one matched pair, or starts the task at the head of its queue. -/
def execTaskRun (p : SliceNo) (lane : Fin 32) (s : State) : Outcome :=
  let m := (s.slice p).sme
  match (s.slice p).dpe.job with
  | none => .next s
  | some j =>
    guarded (s.pathLive p) s
      (match m.work.find? fun w => w.lane == lane.val with
      | some w => s.lanePair p j w
      | none =>
        match m.queues[lane] with
        | [] => s
        | t :: rest =>
          if !(s.lanes p).contains lane.val || s.abandoned j.run then s
          else
            let us := m.updates j t
            let s1 := s.onSme p fun m => { m with queues := m.queues.set lane rest }
            if us.isEmpty then s1.taskEnds p lane.val t
            else s1.onSme p fun m => { m with work := m.work ++ [{ lane := lane.val, task := t, left := us }] })

/-- The first unmasked lane after l in the ring with two tasks queued (R306). -/
def Sme.victim (m : Sme) (ring : Nat) (lanes : List Nat) (l : Nat) : Option Nat :=
  ((List.range ring).drop 1).map (fun d => (l + d) % ring) |>.find? fun v =>
    lanes.contains v && 2 ≤ (m.queues[Fin.ofNat 32 v]).length

/-- WORK_STEAL (R306): a lane whose queue is empty moves half the tasks of the first lane that has two or more, from the
tail, into its own queue. -/
def execWorkSteal (p : SliceNo) (lane : Fin 32) (s : State) : Outcome :=
  let m := (s.slice p).sme
  let ls := s.lanes p
  match m.victim (if s.logical p then 32 else 16) ls lane.val with
  | none => .next s
  | some v0 =>
    let v : Fin 32 := Fin.ofNat 32 v0
    let q := m.queues[v]
    guarded (s.pathLive p && ls.contains lane.val && m.queues[lane].isEmpty && !(m.work.any fun w => w.lane == lane.val)) s
      (let r := q.length / 2
      (s.onSme p fun m => { m with
        queues := (m.queues.set v (q.take (q.length - r))).set lane ((q.drop (q.length - r)).reverse) }).bump
        (psIsl (s.laneSlice p lane.val)) psSmeSteals r)

/-! Spilling and draining (R308-R313). -/

/-- Adds records to the strip, or finds it full (R309, R313). -/
def State.stripAdd (s : State) (p : SliceNo) (j : MatJob) (l : List HEnt) : Option State :=
  let m := (s.slice p).sme
  if 126 * j.spillPlates < m.strip.length + l.length then none
  else some (((s.onSme p fun m => { m with strip := m.strip ++ l }).bump (psIsl p) psHaccSpills l.length).onRun j.run fun r =>
    { r with spilled := r.spilled || !l.isEmpty })

/-- Writes the spill plates that are full and not written; `all`: the last one too, at the end of a group (R309). -/
def State.stripFlush (s : State) (p : SliceNo) (j : MatJob) (all : Bool) : State :=
  let m := (s.slice p).sme
  let n := if all then cdiv m.strip.length 126 else m.strip.length / 126
  ((List.range n).drop m.stripOut).foldl (fun s x =>
    (s.stripWrite p j x ((m.strip.drop (126 * x)).take 126)).2) (s.onSme p fun m => { m with stripOut := max n m.stripOut })

/-- SPILL_RECORD_WRITE (R308, R309, R313): the oldest record leaves the spill buffer for the strip. -/
def execSpillRecordWrite (p : SliceNo) (s : State) : Outcome :=
  let m := (s.slice p).sme
  match m.spill, (s.slice p).dpe.job with
  | r :: rest, some j =>
    guarded (s.pathLive p) s
      (match (s.onSme p fun m => { m with spill := rest }).stripAdd p j [r] with
      | none => s.exhaust p j.run
      | some t =>
        let k := s.stripKnown j (cdiv (m.strip.length + 1) 126)
        if k.1 then t.stripFlush p j false else k.2)
  | _, _ => .next s

/-- The spilled plates of the group that have not drained. -/
def Sme.undrained (m : Sme) : List SJob := m.group.filter fun g => g.spilled && !g.void && !g.drained

/-- The group has been drained whole. -/
def Sme.endGroup (m : Sme) : Sme :=
  { m with group := [], hacc := [], spill := [], strip := [], stripOut := 0, draining := false, round := false, roundOf := [], field := []
           chunk := 0 }

/-- The plates of the group that did not spill and have not drained, in increasing plate index (R311). -/
def Sme.plain (m : Sme) : List SJob := m.group.filter fun g => !g.spilled && !g.void && !g.drained

/-- GROUP_END (R311, R313): the last task of the group has finished and its spill records have left the buffer; the plates
that did not spill drain, as fast as their destination takes them, and then what is left in the accumulator goes to the strip. -/
def execGroupEnd (p : SliceNo) (s : State) : Outcome :=
  let m := (s.slice p).sme
  match (s.slice p).dpe.job with
  | none => .next s
  | some j =>
    guarded (s.pathLive p && !m.group.isEmpty && !m.draining && decide (j.chunks ≤ m.chunk) && m.tasks.isEmpty && m.spill.isEmpty) s
      (let keys := m.undrained.map fun g => g.i * j.np + g.n
      let rest := m.hacc.filter fun e => keys.contains e.k
      let known := s.stripKnown j (if keys.isEmpty then 0 else cdiv (m.strip.length + rest.length) 126)
      if !known.1 then known.2
      else
        let s1 := State.drainJobs p j m.plain s
        if !(s1.slice p).sme.plain.isEmpty then s1
        else if keys.isEmpty then s1.onSme p Sme.endGroup
        else match (s1.onSme p fun m => { m with hacc := [], draining := true }).stripAdd p j rest with
          | none => s1.exhaust p j.run
          | some t => t.stripFlush p j true)

/-- The plates of the next drain round (R312): in increasing plate index, four of each residue. -/
def roundJobs (joined : Bool) (np : Nat) (l : List SJob) : List SJob :=
  l.foldl (fun acc g =>
    let res (g : SJob) : Nat := (g.i * np + g.n) % (if joined then 16 else 8)
    if (acc.filter fun h => res h == res g).length < 4 then acc ++ [g] else acc) []

/-- The plates of the running drain round drain, as fast as their destination takes them; the round, or the group, then ends. -/
def State.drainRound (s : State) (p : SliceNo) (j : MatJob) : State :=
  let t := State.drainJobs p j ((s.slice p).sme.group.filter fun g => (s.slice p).sme.roundOf.contains g.key) s
  if !(t.slice p).sme.roundOf.isEmpty then t
  else if (t.slice p).sme.undrained.isEmpty then t.onSme p Sme.endGroup
  else t.onSme p fun m => { m with round := false }

/-- DRAIN_ROUND (R312): a round reads the group's spill plates back; once they have come, the records of its plates are added
into the accumulator in order and the plates drain. -/
def execDrainRound (p : SliceNo) (s : State) : Outcome :=
  let m := (s.slice p).sme
  match (s.slice p).dpe.job with
  | none => .next s
  | some j =>
    guarded (s.pathLive p && m.draining) s
      (if !m.round then
        ((s.openStream p j.run j.spill ((List.range m.stripOut).map fun x => (x, Use.strip x)) none false).onSme p fun m =>
          { m with round := true }).bump (psIsl p) psHaccRounds
      else if !m.roundOf.isEmpty then s.drainRound p j
      else
        let isStrip (d : Delivered) : Bool := d.run == j.run && match d.want.use with | .strip _ => true | _ => false
        let outs := (s.slice p).eye.outs.filter isStrip
        let at_ (x : Nat) : Option Delivered := outs.find? fun d => d.want.use == .strip x
        if !((List.range m.stripOut).all fun x => (at_ x).isSome) then s
        else
          let jobs := roundJobs (s.logical p) j.np m.undrained
          let keys := jobs.map fun g => g.i * j.np + g.n
          let got := (List.range m.stripOut).filterMap at_
          let recs := (got.flatMap fun d => spillRecords (d.plate.codes.map (BitVec.ofNat 8))).filter fun e => keys.contains e.k
          let bad := got.any fun d => d.plate.poison
          let s1 := s.onSlice p fun x => { x with
            eye := { x.eye with outs := x.eye.outs.filter fun d => !isStrip d }
            sme := recs.foldl (fun m e => (m.haccAdd (s.logical p) j.np e).getD m) x.sme }
          let mine (g : SJob) : Bool := jobs.any fun h => h.key == g.key
          (s1.onSme p fun m => { m with
            roundOf := jobs.map SJob.key, group := mapIf mine (fun g => { g with poisoned := g.poisoned || bad }) m.group }).drainRound p j)

end Sys2Proof.Machine
end

