-- ==== Sys2Proof/Machine/Rs.lean ====
section
/-! DEFINITION. Blocks, scrambling, forward error correction and the training sequence of Meridian Link
(R379, R384-R386). Field and generator polynomial of RS(544,514) are those of IEEE 802.3 Clause 91, to which
R385 refers: x^10 + x^3 + 1 and the product of (x - a^i) for i = 0 to 29 (log entry 11). -/

namespace Sys2Proof.Machine

/-- Multiplication by x in GF(2^10). -/
def gx (a : Nat) : Nat := if a ≥ 512 then (2 * a % 1024) ^^^ 0x009 else 2 * a

/-- Multiplication in GF(2^10). -/
def g10 (a b : Nat) : Nat :=
  ((List.range 10).foldl (fun (s : Nat × Nat) i =>
    (if b / 2 ^ i % 2 = 1 then s.1 ^^^ s.2 else s.1, gx s.2)) (0, a)).1

/-- Powers of the primitive element. -/
def gexp : Array Nat :=
  ((List.range 1023).foldl (fun (s : Array Nat × Nat) _ => (s.1.push s.2, gx s.2)) (#[], 1)).1

/-- The power `a ^ (n mod 1023)` of the primitive element. -/
def apow (n : Nat) : Nat := gexp.getD (n % 1023) 1

/-- Logarithms to the primitive element. -/
def glog : Array Nat :=
  (List.range 1023).foldl (fun t i => t.setIfInBounds (gexp.getD i 0) i) (Array.replicate 1024 0)

/-- Multiplication by logarithms, equal to `g10`. -/
def gm (a b : Nat) : Nat :=
  if a = 0 || b = 0 then 0 else apow (glog.getD a 0 + glog.getD b 0)

/-- The inverse of a non-zero element. -/
def gdiv (a b : Nat) : Nat :=
  if a = 0 then 0 else apow (glog.getD a 0 + 1023 - glog.getD b 0)

/-- Evaluation of a polynomial given by coefficients, lowest first. -/
def polyEval (p : List Nat) (x : Nat) : Nat := p.foldr (fun c a => gm a x ^^^ c) 0

/-- The generator polynomial, lowest coefficient first, without its leading 1. -/
def rsGen : List Nat :=
  ((List.range 30).foldl (fun (p : List Nat) i =>
    List.zipWith (· ^^^ ·) (0 :: p) (p.map (gm (apow i)) ++ [0])) [1]).take 30

/-- The 30 parity symbols of a message of 514 symbols, the first message symbol of highest degree (R385). -/
def rsParity (msg : List Nat) : List Nat :=
  let top := rsGen.reverse
  msg.foldl (fun (r : List Nat) m =>
    let f := m ^^^ r.headD 0
    List.zipWith (· ^^^ ·) (r.drop 1 ++ [0]) (top.map (gm f))) (List.replicate 30 0)

/-- A codeword: message symbols then parity. -/
def rsEncode (msg : List Nat) : List Nat := msg ++ rsParity msg

/-- The 30 syndromes of 544 received symbols. -/
def rsSyndromes (cw : List Nat) : List Nat :=
  (List.range 30).map fun i => cw.foldl (fun a c => gm a (apow i) ^^^ c) 0

/-- Berlekamp-Massey: state of the error-locator search. -/
structure BM where
  c : List Nat
  b : List Nat
  l : Nat
  m : Nat
  bb : Nat

/-- Sum of two polynomials. -/
def polyAdd (a b : List Nat) : List Nat :=
  let n := max a.length b.length
  List.zipWith (· ^^^ ·) (a ++ List.replicate (n - a.length) 0) (b ++ List.replicate (n - b.length) 0)

/-- One step of the error-locator search. -/
def bmStep (syn : List Nat) (s : BM) (n : Nat) : BM :=
  let d := (List.range (s.l + 1)).foldl (fun a i => a ^^^ gm (s.c.getD i 0) (syn.getD (n - i) 0)) 0
  if d = 0 then { s with m := s.m + 1 }
  else
    let t := List.replicate s.m 0 ++ s.b.map (gm (gdiv d s.bb))
    let c' := polyAdd s.c t
    if 2 * s.l ≤ n then { c := c', b := s.c, l := n + 1 - s.l, m := 1, bb := d }
    else { s with c := c', m := s.m + 1 }

/-- Decodes 544 symbols: the corrected symbols and how many were corrected, or none where more than 15
symbols are in error (R385, R386). -/
def rsDecode (cw : List Nat) : Option (List Nat × List Nat) :=
  let syn := rsSyndromes cw
  if syn.all (· == 0) then some (cw, [])
  else
    let s := (List.range 30).foldl (bmStep syn) { c := [1], b := [1], l := 0, m := 1, bb := 1 }
    if s.l > 15 then none
    else
      let pos := (List.range 544).filter fun j => polyEval s.c (apow (1023 - (543 - j))) == 0
      if pos.length ≠ s.l then none
      else
        -- error values: solved by Forney's rule with first root a^0
        let omega := ((List.range 30).map fun k =>
          (List.range (k + 1)).foldl (fun a i => a ^^^ gm (s.c.getD i 0) (syn.getD (k - i) 0)) 0)
        let deriv := (List.range s.c.length).filterMap fun i =>
          if i % 2 = 1 then some (i - 1, s.c.getD i 0) else none
        let fixed := pos.foldl (fun (w : List Nat) j =>
          let x := apow (543 - j)
          let xi := apow (1023 - (543 - j))
          let den := deriv.foldl (fun a t => a ^^^ gm t.2 (apow (glog.getD xi 0 * t.1))) 0
          let v := gm x (gdiv (polyEval omega xi) den)
          w.set j (w.getD j 0 ^^^ v)) cw
        if (rsSyndromes fixed).all (· == 0) then some (fixed, pos) else none

/-- One bit of the scrambling sequence x^58 + x^39 + 1 (R384), the state as 58 bits, newest lowest. -/
def scrambleStep (st : Nat) : Bool × Nat :=
  let b := (st / 2 ^ 57 + st / 2 ^ 38) % 2 == 1
  (b, (2 * st + b.toNat) % 2 ^ 58)

/-- Adds the scrambling sequence to bits: the result and the state after them (R384). Adding it twice gives
the bits back. -/
def scramble (st : Nat) (l : List Bool) : List Bool × Nat :=
  let r := l.foldl (fun (a : List Bool × Nat) b =>
    let s := scrambleStep a.2
    ((b != s.1) :: a.1, s.2)) ([], st)
  (r.1.reverse, r.2)

/-- The scrambler's state at the first frame bit of a data period: all ones (R384). -/
def scrambleStart : Nat := 2 ^ 58 - 1

/-- The next 128-bit period word of the training sequence PRBS31, x^31 + x^28 + 1 (R379). -/
def prbsWord (st : Nat) : BitVec 128 × Nat :=
  let r := (List.range 128).foldl (fun (a : List Bool × Nat) _ =>
    let b := (a.2 / 2 ^ 30 + a.2 / 2 ^ 27) % 2 == 1
    (b :: a.1, (2 * a.2 + b.toNat) % 2 ^ 31)) ([], st)
  (BitVec.ofNat 128 (lsbNat r.1.reverse), r.2)

/-- The eight 257-bit blocks of a flit: a framing bit, 1 for block 0 only, and 256 flit bits (R384). -/
def flitBlocks (flit : List Byte) : List Bool :=
  ((chunks 256 8 (lsbBits (fit 256 flit))).zipIdx.map fun c => (c.2 == 0) :: c.1).flatten

/-- The flit of eight blocks: its bytes, and whether every framing bit is as R384 gives. -/
def blocksFlit (b : List Bool) : List Byte × Bool :=
  let cs := (chunks 257 8 b).zipIdx
  (bytesOfLsb (cs.map fun c => c.1.drop 1).flatten |>.take 256, cs.all fun c => c.1.headD false == (c.2 == 0))

/-- The message symbols of one codeword from its 5,140 bits, first bit of ten least significant (R385). -/
def symbolsOf (l : List Bool) : List Nat := (chunks 10 514 l).map lsbNat

/-- The three codewords of a scrambled frame of 15,420 bits, 544 symbols each (R385). -/
def frameCodewords (frame : List Bool) : List (List Nat) :=
  (chunks 5140 3 frame).map fun c => rsEncode (symbolsOf c)

/-- The symbols each used lane sends for a frame: symbol j of codeword c goes to used lane (j + 4c) mod N, in
increasing j and, for equal j, increasing c (R386). -/
def stripe (n : Nat) (cws : List (List Nat)) : List (List (BitVec 10)) :=
  (List.range n).map fun u =>
    ((List.range 544).map fun j => (List.range 3).filterMap fun c =>
      if (j + 4 * c) % n = u then some (BitVec.ofNat 10 ((cws.getD c []).getD j 0)) else none).flatten

/-- The bits of a lane's symbols, each least significant bit first (R386). -/
def symBits (l : List (BitVec 10)) : List Bool := l.flatMap fun x => natLsb 10 x.toNat
/-- The symbols that a lane's bits spell. -/
def bitSyms (l : List Bool) : List (BitVec 10) := (chunks 10 (l.length / 10) l).map fun c => BitVec.ofNat 10 (lsbNat c)
/-- The bits of lane words in the order of the wire, bit 0 of each first (R95). -/
def wordBits (l : List (BitVec 128)) : List Bool := l.flatMap fun w => natLsb 128 w.toNat
/-- The whole lane words that bits fill, bit 0 of each first on the wire (R95), and the bits left over. -/
def bitWords (l : List Bool) : List (BitVec 128) × List Bool :=
  ((chunks 128 (l.length / 128) l).map (fun c => BitVec.ofNat 128 (lsbNat c)), l.drop (l.length / 128 * 128))
/-- Bits of a frame on each of n used lanes (R383). -/
def laneFrameBits (n : Nat) : Nat := 10 * (1632 / n)

/-- Undoes `stripe`: the three codewords from the lanes' symbols, with the used lane of each symbol. -/
def destripe (n : Nat) (lanes : List (List (BitVec 10))) : List (List (Nat × Nat)) :=
  let r := ((List.range 544).flatMap fun j => (List.range 3).map fun c => (j, c)).foldl
    (fun (s : List (List (BitVec 10)) × List (Nat × Nat × Nat)) jc =>
      let u := if n = 0 then 0 else (jc.1 + 4 * jc.2) % n
      let l := s.1.getD u []
      (s.1.set u (l.drop 1), (jc.2, u, (l.headD 0).toNat) :: s.2)) (lanes, [])
  let all := r.2.reverse
  (List.range 3).map fun c => all.filterMap fun t => if t.1 = c then some (t.2.1, t.2.2) else none

end Sys2Proof.Machine
end

