-- ==== Sys2Proof/Machine/LinkRx.lean ====
section
/-! DEFINITION. Meridian Link, the shared operations: lane sets, training, packets in clear and encrypted, the receive
streams, replay and fresh hellos (R378-R412). -/

namespace Sys2Proof.Machine

/-- The configuration of a link group: zero lanes where there is none. -/
def State.linkOn (s : State) (g : GroupNo) : Bool :=
  match s.conf (lgIsl g) with | some c => c.linkEnabled g.val | none => false
def State.linkLanes (s : State) (g : GroupNo) : Nat :=
  match s.conf (lgIsl g) with | some c => c.lanes g.val | none => 0
def State.linkLaneEn (s : State) (g : GroupNo) : BitVec 12 :=
  match s.conf (lgIsl g) with | some c => c.laneEn g.val | none => 0
def State.ownBlock (s : State) (k : IslandNo) : BitVec 12 := match s.conf k with | some c => c.blockId | none => 0
def State.peerBlockOf (s : State) (g : GroupNo) : BitVec 12 :=
  match s.conf (lgIsl g) with | some c => c.peerBlock g.val | none => 0
def State.peerGroupOf (s : State) (g : GroupNo) : BitVec 4 :=
  match s.conf (lgIsl g) with | some c => c.peerGroup g.val | none => 0

/-- The quadrant of a link group and its local number there (R24). -/
def grpQuad (g : GroupNo) : QuadNo := Fin.ofNat 4 (g.val / 4)
def grpLocal (g : GroupNo) : Nat := g.val % 4

/-- The crossing queues of a channel of a group: to the link, and from it (R24, R397, R402). -/
def txQueueOf (g : GroupNo) (v : Nat) : Nat := 0x2020 + 16 * grpLocal g + v
def rxQueueOf (g : GroupNo) (v : Nat) : Nat := 0x2028 + 16 * grpLocal g + v

/-- RXGOOD: lanes received marker-locked and unfenced (R380, R381). -/
def LinkGrp.rxGood (q : LinkGrp) : BitVec 12 :=
  (List.finRange 12).foldl (fun (a : BitVec 12) i =>
    let l := q.lanes[i]
    if l.rxLock && l.marks == 3 && !l.late && !l.fenced then setBit a i.val true else a) 0

/-- The lowest-numbered n lanes of a mask (R382). -/
def lowestLanes (m : BitVec 12) (n : Nat) : BitVec 12 :=
  ((List.range 12).filter fun i => m.getLsbD i).take n |>.foldl (fun (a : BitVec 12) i => setBit a i true) 0

/-- N of R382 for a USE mask: the largest of 12, 8 and 4 within LANES and USE; 0 where there is none. -/
def laneCount (lanes : Nat) (use : BitVec 12) : Nat :=
  ([12, 8, 4].find? fun n => n ≤ lanes && n ≤ popcount use).getD 0

/-- Frames of a data period over N lanes (R383). -/
def periodFrames (n : Nat) : Nat := 512 * n

/-- The size of the lane set. -/
def LinkGrp.n (q : LinkGrp) : Nat := popcount q.set

/-- Enters TRAINING (R403, R408): the lane set is dropped, what R408 keeps is kept. -/
def LinkGrp.train (q : LinkGrp) (now : Ctr) : LinkGrp :=
  { q with
    st := .training, set := 0, peerSame := 0, perAt := now, trainAt := now, trainFails := false, fecGood := 0, heard := false, freshDone := false
    cause := 0, rxN := 0, rxRest := [], rxBlocks := [], txRest := [], txBits := [], txFrames := 0, txPeriods := 0, replaying := [], replays := 0 }

/-- A group begins a training attempt (R403, R406), which an injection armed at TRAIN makes one that fails (R494). -/
def State.trainStart (s : State) (g : GroupNo) : State :=
  let k := lgIsl g
  let j := s.inject k 0x0205 0
  j.2.onGroup g fun q => { (q.train (s.now k)) with trainFails := j.1 }

/-- A retrain of group g (R408); with `fresh` a restart (R409). DOWN and SHUT groups are left alone (R412). -/
def State.retrain (s : State) (g : GroupNo) (fresh : Bool) : State :=
  if (s.group g).st = .down || (s.isl (lgIsl g)).state = .shut then s
  else ((s.trainStart g).onGroup g fun q => { q with freshMine := q.freshMine || fresh }).bump (lgIsl g) lgRetrains

/-- Whether an enabled lane's transmitter is ready. -/
def State.anyTxRdy (s : State) (g : GroupNo) : Bool :=
  (List.finRange 12).any fun i => (s.linkLaneEn g).getLsbD i.val && (s.group g).lanes[i].txRdy

/-- pma_tx_en of a lane (R97, R403): driven on enabled lanes only, and low while the group is DOWN, shut or in reset. -/
def State.txEn (s : State) (g : GroupNo) (lane : Fin 12) : Bool :=
  s.awake (lgIsl g) && (s.linkLaneEn g).getLsbD lane.val && (s.group g).st != .down

/-- Whether every lane of the set may send: its transmitter is ready (R97). -/
def LinkGrp.setReady (q : LinkGrp) : Bool := (List.finRange 12).all fun i => !q.set.getLsbD i.val || q.lanes[i].txRdy

/-- The marker word a lane sends now (R380). -/
def State.txMarker (s : State) (g : GroupNo) (lane : Fin 12) : BitVec 128 :=
  let q := s.group g
  let inSet := q.set.getLsbD lane.val
  let pc := if inSet then q.txPeriods else elapsed (s.now (lgIsl g)) q.perAt / 256
  let lo := 0xA7C3 + lane.val * 2 ^ 16 + g.val * 2 ^ 20 + (s.ownBlock (lgIsl g)).toNat * 2 ^ 24 +
    q.rxGood.toNat * 2 ^ 36 + pc % 256 * 2 ^ 48 + (if inSet then q.n else 0) * 2 ^ 56
  BitVec.ofNat 128 (lo + (2 ^ 64 - 1 - lo) * 2 ^ 64)

/-- Word k of the training sequence of a lane (R379). -/
def prbsAt : Nat → Nat → BitVec 128
  | 0, st => (prbsWord st).1
  | k + 1, st => prbsAt k (prbsWord st).2

/-- The word that a lane in training sends in this link cycle: the marker of its period or one of the 255 words after it, the sequence
seeded when training began (R379). DESIGN CHOICE (log entry 135): lanes outside the set of a group in HELLO or UP go on with the periods
they began then. -/
def State.trainWord (s : State) (g : GroupNo) (lane : Fin 12) : BitVec 128 :=
  let e := elapsed (s.now (lgIsl g)) (s.group g).perAt
  if (e % 256) = 0 then s.txMarker g lane else prbsAt (e / 256 * 255 + e % 256 - 1) (2 ^ 31 - 1)

/-- Every enabled lane whose transmitter is ready and that is in no lane set sends training periods (R379, R382, R403). -/
def State.sendTraining (s : State) (g : GroupNo) : State :=
  let send (set : BitVec 12) (i : Fin 12) (l : Lane) : Lane :=
    if s.txEn g i && l.txRdy && !set.getLsbD i.val then { l with txWord := s.trainWord g i } else l
  s.onGroup g fun q => { q with lanes := q.lanes.mapFinIdx fun i l h => send q.set ⟨i, h⟩ l }

/-- A group in DOWN: it has no lane set (R403). -/
def LinkGrp.down (q : LinkGrp) (cause : BitVec 4) : LinkGrp := { q with st := .down, set := 0, cause := cause }

/-- DOWN and TRAINING as LINKS and the lanes' readiness decide (R403, R407), and the start of step 6 (R500). -/
def State.linkUpdate (s : State) (g : GroupNo) : State :=
  let k := lgIsl g
  if !s.running k then s
  else if !s.linkOn g then s.onGroup g fun q => q.down 0
  else
    let s1 := if (s.group g).step6At.isNone && s.running (xqIsl (grpQuad g)) then
      s.onGroup g fun q => { q with step6At := some (s.now k) } else s
    if (s.isl k).resets = 0xFFFF then s1.onGroup g fun q => q.down 7
    else if !s.anyTxRdy g then s1.onGroup g fun q => q.down 0
    else if (s.group g).st = .down then s1.trainStart g
    else s1

/-- The key an end with block `own` sends with, towards `peer`: bytes 0-31 for the lower BLOCK_ID (R401). -/
def dirKey (key : List Byte) (own peer : BitVec 12) : List Byte :=
  if own.toNat < peer.toNat then key.take 32 else key.drop 32

/-- The IV of R400, as 12 bytes, least significant first. -/
def linkIv (block : BitVec 12) (group ch : Nat) (resets : BitVec 16) (count : Nat) : List Byte :=
  leBytes 12 (block.toNat * 2 ^ 84 + group * 2 ^ 80 + ch * 2 ^ 77 + resets.toNat * 2 ^ 48 + count % 2 ^ 48)

/-- A packet as it goes on the wire: its link word in clear, then the encrypted words and status word, then the tag
(R399, R400). -/
def wirePacket (key iv : List Byte) (words : List W64) (poison : Bool) : List Byte :=
  let link := leBytes 8 (words.headD 0).toNat
  let r := gcmEncrypt key iv link (wordsBytes (words.drop 1) ++ leBytes 8 poison.toNat)
  link ++ r.1 ++ r.2

/-- LEN of a link word, in words (R398). -/
def linkLen (w : W64) : Nat := fld w 31 16

/-- The bytes that follow the link word on the wire: words, status word, tag (R399). -/
def wireRest (w : W64) : Nat := 8 * linkLen w + 16

/-- Drops n bytes from the front of the receive slots. -/
def dropSlotBytes : Nat → List (List Byte) → List (List Byte)
  | _, [] => []
  | n, b :: r => if n ≤ b.length then b.drop n :: r else [] :: dropSlotBytes (n - b.length) r

/-- Changes one channel of a group. -/
def LinkGrp.onChan (q : LinkGrp) (v : Fin 8) (f : LinkChan → LinkChan) : LinkGrp :=
  { q with chans := q.chans.set v (f q.chans[v]) }
def State.onChan (s : State) (g : GroupNo) (v : Fin 8) (f : LinkChan → LinkChan) : State :=
  s.onGroup g fun q => q.onChan v f

/-- Writes a packet received whole, or cut short by a fresh hello, into its crossing queue (R402, R407). An
injection armed at AUTH makes the tag of a whole packet fail (R494). -/
def State.finishRx (s : State) (g : GroupNo) (v : Fin 8) (p : RxPacket) (cut : Bool) : State :=
  let q := s.group g
  let n := linkLen p.link
  let key := dirKey (q.key.getD []) (s.peerBlockOf g) (s.ownBlock (lgIsl g))
  let iv := linkIv (s.peerBlockOf g) (s.peerGroupOf g).toNat v.val q.peerResets q.chans[v].rxCount
  let r := gcmDecrypt key iv (leBytes 8 p.link.toNat) (p.got.take (8 * n)) ((p.got.drop (8 * n)).take 16)
  let inj := !cut && (s.isl (lgIsl g)).armedFor 0x0206 0
  let s0 := if inj then s.useInjection (lgIsl g) else s
  let authFail := !cut && (!r.2 || inj)
  let words := p.link :: bytesWords (fit (8 * (n - 1)) r.1)
  let status := leNat ((r.1.drop (8 * (n - 1))).take 8)
  let tag : BitVec 24 := BitVec.ofNat 24 (authFail.toNat + 2 * cut.toNat)
  let poison := (!cut && status % 2 == 1) || authFail || cut
  let x := grpQuad g
  let qn := rxQueueOf g v.val
  let s1 := s0.onQuad x fun d =>
    match (d.queue qn).openPkt with
    | some o => d.setQueue qn ((d.queue qn).push o.cells (pktOf (plain (words.take n)) tag poison (.fabric (v.val / 2)))) |>.settle
    | none => d
  let s2 := s1.onChan g v fun c => { c with rx := none, rxCount := c.rxCount + 1 }
  let s3 := if authFail then (s2.bump (lgIsl g) lgAuthFail).event (lgIsl g) { code := 0x0206, inst := 0, injected := inj } else s2
  if cut then s3.bump (lgIsl g) lgCut else s3

/-- The words of a packet being received that are whole so far stand in its open packet, decrypted (R402). -/
def State.showRx (s : State) (g : GroupNo) (v : Fin 8) (p : RxPacket) : State :=
  let q := s.group g
  let key := dirKey (q.key.getD []) (s.peerBlockOf g) (s.ownBlock (lgIsl g))
  let iv := linkIv (s.peerBlockOf g) (s.peerGroupOf g).toNat v.val q.peerResets q.chans[v].rxCount
  let n := min (linkLen p.link - 1) (p.got.length / 8)
  let r := gcmDecrypt key iv (leBytes 8 p.link.toNat) (p.got.take (8 * n)) []
  let qn := rxQueueOf g v.val
  s.onQuad (grpQuad g) fun d => match (d.queue qn).openPkt with
    | some o => d.setQueue qn { (d.queue qn) with openPkt := some { o with words := plain (p.link :: bytesWords r.1) } }
    | none => d

/-- Takes bytes of a channel's receive slots as far as they go: padding is discarded, a packet is opened once the pool
admits it, and a packet received whole is written (R396, R398, R399, R402). -/
def State.drainChan (g : GroupNo) (v : Fin 8) : Nat → State → State
  | 0, s => s
  | fuel + 1, s =>
    let c := (s.group g).chans[v]
    match c.slots with
    | [] => s
    | [] :: rest =>
      State.drainChan g v fuel (s.onChan g v fun c => { c with slots := rest, freed := (c.freed + 1) % 512 })
    | (b :: bs) :: rest =>
      match c.rx with
      | none =>
        if b = 0 then State.drainChan g v fuel (s.onChan g v fun c => { c with slots := [] :: rest })
        else
          let avail := c.slots.flatten
          if avail.length < 8 then s
          else
            let lw := leWord avail
            let n := linkLen lw
            if n = 0 || 8255 < n then
              if (s.group g).st != .up then s else (s.bump (lgIsl g) lgStreamErr).retrain g true
            else if s.begins (lgIsl g) && s.canOpen (grpQuad g) (rxQueueOf g v.val) (cellsFor n) then
              let s1 := s.onQuad (grpQuad g) fun d => d.setQueue (rxQueueOf g v.val)
                { (d.queue (rxQueueOf g v.val)) with
                  openPkt := some { cells := d.pick (cellsFor n), words := plain [lw] }, cancelled := false }
              State.drainChan g v fuel (s1.onChan g v fun c =>
                { c with rx := some { link := lw }, slots := dropSlotBytes 8 c.slots })
            else s
      | some p =>
        let need := wireRest p.link - p.got.length
        let k := min need (bs.length + 1)
        let p1 := { p with got := p.got ++ (b :: bs).take k }
        let s1 := s.onChan g v fun c => { c with rx := some p1, slots := (b :: bs).drop k :: rest }
        State.drainChan g v fuel (if p1.got.length = wireRest p.link then s1.finishRx g v p1 false else s1.showRx g v p1)

/-- Every channel of a group that holds a partly received packet, cut (R407). -/
def State.cutAll (s : State) (g : GroupNo) : State :=
  (List.finRange 8).foldl (fun s v => match (s.group g).chans[v].rx with
    | some p => s.finishRx g v p true
    | none => s) s

/-- Whether a channel sends no further packet until the next key change (R401). -/
def LinkChan.exhausted (c : LinkChan) : Bool := c.spent || decide (2 ^ 48 - 1 ≤ c.txCount)

/-- What a fresh hello does (R407). DEDUCED (log entry 134): with the credits at 64 the receive slots are free, so bytes in them of packets
that no queue has been opened for are gone. -/
def State.freshHello (s : State) (g : GroupNo) : State :=
  let s1 := (s.cutAll g).bump (lgIsl g) lgLostFlits (s.group g).replay.length
  s1.onGroup g fun q =>
    { q with
      replay := [], replaying := [], replays := 0, txNext := 0, rxNext := 0, acked := 127
      nakDue := false, nakOut := false, freshDone := true, freshSeen := true
      chans := q.chans.map fun c => { spent := c.exhausted } }

/-- Starts a replay of every held flit (R393, R394). DEDUCED (log entry 133): where none is held none starts, and the 256 link cycles of
a timeout count from the start of the last replay too. -/
def State.startReplay (s : State) (g : GroupNo) : State :=
  let k := lgIsl g
  if (s.group g).replay.isEmpty then s else
  let s1 := s.onGroup g fun q => { q with replaying := q.replay, replays := q.replays + 1, ackAt := s.now k }
  let s2 := (s1.bump k lgReplays).event k { code := 0x0204, inst := 0 }
  if 8 ≤ (s2.group g).replays then s2.retrain g false else s2

/-- The flits still held after an ACK value is applied: none is released where it names no flit held (R391). -/
def ackHeld (a : Nat) (held : List HeldFlit) : List HeldFlit :=
  if held.any (·.seq == a) then (held.dropWhile (·.seq != a)).drop 1 else held

/-- Applies the ACK of a flit (R391). -/
def LinkGrp.ack (q : LinkGrp) (a : Nat) (now : Ctr) : LinkGrp :=
  if q.replay.any (·.seq == a) then
    let h := ackHeld a q.replay
    { q with replay := h, replaying := q.replaying.filter fun f => h.contains f, acked := a, replays := 0, ackAt := now }
  else q

end Sys2Proof.Machine
end

