-- ==== Sys2Proof/Machine/Link.lean ====
section
/-! DEFINITION. Meridian Link: the commands of a link group (R378-R412) and PACKET_OPEN. -/

namespace Sys2Proof.Machine

/-- PACKET_OPEN (R27, R402): the pool claims the cells of the largest length declared; the length slot stays empty. On
a queue from a link group the group takes what its receive slots hold, and opens the packet they begin. -/
def execPacketOpen (x : QuadNo) (q maxWords : BitVec 16) (written : List PWord) (s : State) : Outcome :=
  if 0x2020 ≤ q.toNat && q.toNat < 0x2060 && 8 ≤ q.toNat % 16 then
    let g : GroupNo := Fin.ofNat 16 (4 * x.val + (q.toNat - 0x2020) / 16)
    guarded (s.awake (lgIsl g)) s (State.drainChan g (Fin.ofNat 8 (q.toNat % 8)) 2000 s)
  else
    let n := cellsFor maxWords.toNat
    guarded (s.canOpen x q.toNat n && written.length ≤ maxWords.toNat) s
      (s.onQuad x fun d => d.setQueue q.toNat { (d.queue q.toNat) with
        openPkt := some { cells := d.pick n, words := written }, cancelled := false })

/-! Markers. -/

/-- Whether a word is a marker that a receiver accepts (R380). -/
def markerOk (w : BitVec 128) : Bool :=
  w.toNat % 2 ^ 16 == 0xA7C3 && w.toNat / 2 ^ 64 == 2 ^ 64 - 1 - w.toNat % 2 ^ 64

/-- Field bits of a marker. -/
def mkFld (w : BitVec 128) (hi lo : Nat) : Nat := (w.toNat >>> lo) % 2 ^ (hi - lo + 1)

/-- Loss of marker lock on a lane: reported to the lane's lock detector (R381, R411). -/
def State.loseMark (s : State) (g : GroupNo) (lane : Fin 12) : State :=
  let was := (s.group g).lanes[lane].marks == 3
  let s1 := s.onGroup g fun q => { q with lanes := q.lanes.set lane { q.lanes[lane] with marks := 0, late := false } }
  if was then s1.event (lgIsl g) { code := 0x0201, inst := BitVec.ofNat 16 lane.val } else s1

/-- A group after an accepted marker on a lane (R381). A marker's PCOUNT counts where the lane is in the set, or there is none yet
(DEDUCED, log entry 38). -/
def LinkGrp.marker (q : LinkGrp) (lane : Fin 12) (w : BitVec 128) (now : Ctr) : LinkGrp :=
  let pc := mkFld w 55 48
  let counts := q.set = 0 || q.set.getLsbD lane.val
  let new := counts && q.pcount != some pc
  let good := BitVec.ofNat 12 (mkFld w 47 36)
  let at_ := if new then now else q.pcountAt
  let skew := if counts then elapsed now at_ else 0
  let n := mkFld w 59 56
  let l := q.lanes[lane]
  { q with
    pcount := if counts then some pc else q.pcount, pcountAt := at_
    maxSkew := if q.set.getLsbD lane.val then max q.maxSkew (min 32 skew) else q.maxSkew
    peerGood := good
    peerSame := if good != q.peerGood then 1 else if new then min 4 (q.peerSame + 1) else q.peerSame
    lanes := q.lanes.set lane { l with rxLock := true, rxValid := true, rxSd := true, rxWord := w, marks := min 3 (l.marks + 1), late := decide (32 < skew) }
    rxN := if new then n else q.rxN
    rxScr := if new then scrambleStart else q.rxScr
    rxRest := if new then [] else q.rxRest
    rxBlocks := if new then [] else q.rxBlocks }

/-- The key of the slot taken at a hello (R401): where one has been committed since the last, the packet counts restart. -/
def LinkGrp.takeKey (q : LinkGrp) : LinkGrp :=
  { q with
    key := q.held, keyNew := false
    chans := if q.keyNew then q.chans.map fun c => { c with txCount := 0, rxCount := 0, spent := false } else q.chans }

/-- Agreement of the lane set (R382), and the entry into HELLO with the key of the slot (R401). -/
def State.agree (s : State) (g : GroupNo) : State :=
  let q := s.group g
  let use := q.rxGood &&& q.peerGood &&& s.linkLaneEn g
  let n := laneCount (s.linkLanes g) use
  if q.st != .training || q.peerSame < 4 then s
  else if n = 0 then s.onGroup g fun q => { q with cause := 1 }
  else s.onGroup g fun q =>
    { q.takeKey with
      st := .hello, txPeriods := elapsed (s.now (lgIsl g)) q.perAt / 256 + 1, set := lowestLanes use n, slot := 63, txScr := scrambleStart, fecGood := 0
      degradedSeen := q.degradedSeen || decide (n < s.linkLanes g)
      cause := if q.held.isNone then 5 else 6 }

/-- MARKER_RECEIVE (R380-R382). -/
def execMarkerReceive (g : GroupNo) (lane : Fin 12) (w : BitVec 128) (s : State) : Outcome :=
  guarded (s.awake (lgIsl g) && (s.linkLaneEn g).getLsbD lane.val && (s.group g).st != .down) s
    (if markerOk w then (s.onGroup g fun q => q.marker lane w (s.now (lgIsl g))).agree g else s.loseMark g lane)

/-- MARKER_MISSING (R381). -/
def execMarkerMissing (g : GroupNo) (lane : Fin 12) (s : State) : Outcome :=
  guarded ((s.isl (lgIsl g)).live && (s.linkLaneEn g).getLsbD lane.val) s (s.loseMark g lane)

/-- PMA_RX_LOCK_FALL (R97, R381, R411): the lane loses marker lock and the fall is reported to its detector; while the group is in
reset only the level falls. -/
def execPmaRxLockFall (g : GroupNo) (lane : Fin 12) (s : State) : Outcome :=
  guarded (s.group g).lanes[lane].rxLock s
    (let s1 := s.onGroup g fun q =>
      { q with lanes := q.lanes.set lane { q.lanes[lane] with rxLock := false, rxValid := false, marks := 0, late := false } }
    if (s.isl (lgIsl g)).live then s1.event (lgIsl g) { code := 0x0201, inst := BitVec.ofNat 16 lane.val } else s1)

/-- PMA_TX_RDY_CHANGE (R97, R403). -/
def execPmaTxRdyChange (g : GroupNo) (lane : Fin 12) (up : Bool) (s : State) : Outcome :=
  .next ((s.onGroup g fun q => { q with lanes := q.lanes.set lane { q.lanes[lane] with txRdy := up } }).linkUpdate g)

/-! Flits. -/

/-- The bytes of a flit: header, payload, CRC most significant byte first (R387, R388). -/
def flitBytes (type : Nat) (nak : Bool) (vc seq ack crvc crcum : Nat) (payload : List Byte) : List Byte :=
  let hdr := type * 2 ^ 30 + nak.toNat * 2 ^ 29 + vc * 2 ^ 26 + seq * 2 ^ 19 + ack * 2 ^ 12 + crvc * 2 ^ 9 + crcum
  let b := leBytes 4 hdr ++ fit 249 payload
  b ++ (leBytes 3 (crc24 b).toNat).reverse

/-- KCV: the first 4 bytes of AES-256 of a zero block (R404). -/
def kcv (key : List Byte) : List Byte := keyCheck key

/-- The payload of a HELLO (R404). -/
def State.helloPayload (s : State) (g : GroupNo) : List Byte :=
  let q := s.group g
  let own := s.ownBlock (lgIsl g)
  leBytes 2 own.toNat ++ leBytes 1 g.val ++ leBytes 1 (s.linkLanes g) ++ leBytes 2 (s.isl (lgIsl g)).resets.toNat ++
    leBytes 1 (q.freshMine.toNat + 2 * q.heard.toNat) ++ leBytes 1 q.rxNext ++
    (kcv (dirKey (q.key.getD []) own (s.peerBlockOf g))).take 4

/-- Packets of a channel's crossing queue, taken and encrypted until the channel has a payload's worth of bytes or no
further packet is ready (R397, R399). Abandoned packets are passed over (R29). `o` is what the checkers see, packet by packet (R33). -/
def State.refill (g : GroupNo) (v : Fin 8) : Nat → List ParityObs → State → State
  | 0, _, s => s
  | fuel + 1, o, s =>
    let q := s.group g
    let c := q.chans[v]
    let x := grpQuad g
    let cq := (s.quad x).queue (txQueueOf g v.val)
    match cq.packets with
    | [] => s
    | p :: _ =>
      if 249 ≤ c.out.length || !p.visible || cq.wedged || q.key.isNone || c.exhausted then s
      else
        let r := s.readPacket x (txQueueOf g v.val) (o.headD {})
        match r.1 with
        | none => State.refill g v fuel o.tail r.2
        | some p =>
          let own := s.ownBlock (lgIsl g)
          let iv := linkIv own g.val v.val (s.isl (lgIsl g)).resets c.txCount
          let b := wirePacket (dirKey (q.key.getD []) own (s.peerBlockOf g)) iv (p.words.map (·.w))
            (p.poisonIn || p.words.any (·.poison))
          State.refill g v fuel o.tail (r.2.onChan g v fun c => { c with out := c.out ++ b, txCount := c.txCount + 1 })

/-- Whether a channel has bytes to send. -/
def State.chanReady (s : State) (g : GroupNo) (v : Fin 8) : Bool :=
  let c := (s.group g).chans[v]
  !c.out.isEmpty ||
    (let cq := (s.quad (grpQuad g)).queue (txQueueOf g v.val)
    !cq.wedged && !c.exhausted && (cq.packets.takeWhile (·.visible)).any fun p => !p.abandoned)

/-- An abandoned packet at the front of a channel's crossing queue is passed over (R29, R41). -/
def State.passAbandoned (s : State) (g : GroupNo) (v : Fin 8) : State :=
  let cq := (s.quad (grpQuad g)).queue (txQueueOf g v.val)
  match cq.packets with
  | p :: _ => if p.visible && p.abandoned && !cq.wedged then (s.readPacket (grpQuad g) (txQueueOf g v.val) {}).2 else s
  | [] => s

/-- The channel a new DATA flit takes: round robin after the last, with bytes and a credit (R397). -/
def State.pickChan (s : State) (g : GroupNo) : Option (Fin 8) :=
  let q := s.group g
  ((List.range 8).map fun i => Fin.ofNat 8 (q.lastVc + 1 + i)).find? fun v =>
    s.chanReady g v && 0 < q.chans[v].credits

/-- What goes into a flit slot: type, channel, sequence number, payload, and the group's state after choosing. -/
structure FlitChoice where
  type : Nat
  vc : Nat := 0
  seq : Nat := 0
  payload : List Byte := []
  after : State

/-- A new DATA flit of a channel (R391, R395, R399). -/
def State.dataFlit (s : State) (g : GroupNo) (v : Fin 8) (o : List ParityObs) : FlitChoice :=
  let s1 := State.refill g v 16 o s
  let q := s1.group g
  let c := q.chans[v]
  let pay := c.out.take 249
  if pay.isEmpty then { type := 0, after := s1 } else
  let f : HeldFlit := { seq := q.txNext, vc := v.val, payload := fit 249 pay }
  let s2 := s1.onGroup g fun q =>
    { (q.onChan v fun c => { c with out := c.out.drop 249, sent := (c.sent + 1) % 512 }) with
      txNext := (q.txNext + 1) % 128, replay := q.replay ++ [f], lastVc := v.val
      ackAt := if q.replay.isEmpty then s.now (lgIsl g) else q.ackAt }
  { type := 1, vc := v.val, seq := q.txNext, payload := pay
    after := (s2.bump (lgIsl g) lgTxData).bump (lgIsl g) lgPadBytes (249 - pay.length) }

/-- The choice for the next flit slot (R389, R393, R397, R404, R408). -/
def State.chooseFlit (s : State) (g : GroupNo) (o : List ParityObs) : FlitChoice :=
  let q := s.group g
  let k := lgIsl g
  if q.st = .hello then
    if 63 ≤ q.slot && q.key.isSome then
      { type := 3, payload := s.helloPayload g, after := s.onGroup g fun q => { q with slot := 0 } }
    else { type := 0, after := s.onGroup g fun q => { q with slot := q.slot + 1 } }
  else match q.replaying with
    | f :: rest =>
      { type := 1, vc := f.vc, seq := f.seq, payload := f.payload
        after := ((s.onGroup g fun q => { q with replaying := rest }).bump k lgTxData).bump k lgReplayFlits }
    | [] =>
      if s.begins k && q.replay.length < 64 then
        match s.pickChan g with
        | some v => s.dataFlit g v o
        | none => { type := 0, after := (List.finRange 8).foldl (fun s v => s.passAbandoned g v) s }
      else { type := 0, after := s }

/-- The last words sent on the lanes of the set. -/
def LinkGrp.showWords (q : LinkGrp) (words : List (List (BitVec 128))) : LinkGrp :=
  let used := (List.range 12).filter fun i => q.set.getLsbD i
  let show_ (i : Nat) (l : Lane) : Lane :=
    if q.set.getLsbD i then { l with txWord := (words.getD (used.idxOf i) []).getLastD l.txWord } else l
  { q with lastWords := words, lanes := q.lanes.mapIdx show_ }

/-- A flit's blocks go into the running frame; a frame that is full is scrambled, coded, striped and put in the words of its lanes, after
their markers where it begins a period (R95, R379, R384-R386). -/
def LinkGrp.sendBlocks (q : LinkGrp) (marks : List (BitVec 128)) (flit : List Byte) : LinkGrp :=
  let b := q.txBits ++ flitBlocks flit
  if b.length < 15420 then { q with txBits := b, lastFlit := flit }
  else
    let r := scramble q.txScr (b.take 15420)
    let last := q.txFrames + 1 == periodFrames q.n
    let frame := stripe q.n (frameCodewords r.1)
    let words := frame.zipIdx.map fun e => bitWords (q.txRest.getD e.2 [] ++ symBits e.1)
    let q1 := q.showWords (words.zipIdx.map fun e => if q.txFrames = 0 then marks.getD e.2 0 :: e.1.1 else e.1.1)
    { q1 with
      lastFlit := flit, txBits := b.drop 15420, lastFrame := frame, txRest := words.map (·.2)
      txScr := if last then scrambleStart else r.2
      txFrames := if last then 0 else q.txFrames + 1
      txPeriods := if last then q.txPeriods + 1 else q.txPeriods }

/-- FLIT_SEND (R97, R387-R397, R404): data goes while every lane of the set is ready to send. -/
def execFlitSend (g : GroupNo) (parity : List ParityObs) (s : State) : Outcome :=
  let q := s.group g
  guarded (s.awake (lgIsl g) && (q.st == .hello || q.st == .up) && q.setReady) s
    (let c := s.chooseFlit g parity
    let marks := ((List.finRange 12).filter fun i => q.set.getLsbD i.val).map (s.txMarker g)
    c.after.onGroup g fun q =>
      let flit := flitBytes c.type q.nakDue c.vc c.seq ((q.rxNext + 127) % 128) q.crvc
        (q.chans[Fin.ofNat 8 q.crvc]).freed c.payload
      ({ q with nakDue := false, crvc := (q.crvc + 1) % 8 }).sendBlocks marks flit)

/-- A HELLO's fields (R404). -/
structure HelloMsg where
  block : Nat
  group : Nat
  lanes : Nat
  resets : Nat
  fresh : Bool
  heard : Bool
  rxSeq : Nat
  check : List Byte

/-- The fields of a HELLO payload. -/
def helloOf (p : List Byte) : HelloMsg :=
  let f := (p.getD 6 0).toNat
  { block := leNat (p.take 2) % 4096, group := (p.getD 2 0).toNat % 16, lanes := (p.getD 3 0).toNat
    resets := leNat ((p.drop 4).take 2), fresh := f % 2 == 1, heard := f / 2 % 2 == 1
    rxSeq := (p.getD 7 0).toNat % 128, check := (p.drop 8).take 4 }

/-- Why a HELLO is invalid: its CAUSE; none where it is valid (R405). -/
def State.helloCause (s : State) (g : GroupNo) (h : HelloMsg) : Option (BitVec 4) :=
  let q := s.group g
  if h.block != (s.peerBlockOf g).toNat || h.group != (s.peerGroupOf g).toNat then some 2
  else if h.lanes != s.linkLanes g then some 3
  else if h.check != (kcv (dirKey (q.key.getD []) (s.peerBlockOf g) (s.ownBlock (lgIsl g)))).take 4 then some 4
  else none

/-- Step 6 of a group ends (R506, R512): its bit of LINKS_UP, and LINK_SHORT, which stays while a group ended it without being UP. -/
def State.groupEnds (s : State) (g : GroupNo) (up : Bool) : State :=
  let ups := setBit s.cfg.linksUp g.val up
  let short (h : GroupNo) : Bool := h != g && (s.group h).step6 && !ups.getLsbD h.val
  { s with cfg := { s.cfg with linksUp := ups, linkShort := !up || (List.finRange 16).any short } }

/-- A HELLO is received in HELLO (R405, R407). -/
def State.helloReceive (s : State) (g : GroupNo) (h : HelloMsg) : State :=
  let k := lgIsl g
  let q := s.group g
  let s0 := s.onGroup g fun q => { q with peerBlock := BitVec.ofNat 12 h.block, peerGroup := BitVec.ofNat 4 h.group }
  if q.key.isNone then s0
  else match s.helloCause g h with
    | some c => (s0.onGroup g fun q => { q with cause := c, mismatchSeen := true }).bump k lgHelloBad
    | none =>
      let r := BitVec.ofNat 16 h.resets
      let named := q.replay.any (·.seq == h.rxSeq) || h.rxSeq == q.txNext
      let fresh := q.freshMine || h.fresh || q.peerSeen != some r || !named
      let s1 := if fresh && !q.freshDone then s0.freshHello g else s0
      let s2 := s1.onGroup g fun q => { q with heard := true, peerSeen := some r, peerResets := r, cause := 0 }
      if !h.heard then s2
      else
        let s3 := s2.onGroup g fun q =>
          let held := if q.replay.any (·.seq == h.rxSeq) then q.replay.dropWhile (·.seq != h.rxSeq)
            else if h.rxSeq == q.txNext then [] else q.replay
          { q with st := .up, freshMine := false, replay := held, replaying := held, ackAt := s.now k, step6 := true }
        if q.step6 then s3 else s3.groupEnds g true

/-- A DATA flit is received in UP (R392, R395). -/
def State.dataReceive (s : State) (g : GroupNo) (seq : Nat) (v : Fin 8) (payload : List Byte) : State :=
  if (s.group g).st != .up || seq != (s.group g).rxNext then s
  else
    let s1 := s.onGroup g fun q =>
      { (q.onChan v fun c => { c with slots := c.slots ++ [payload] }) with
        rxNext := (q.rxNext + 1) % 128, nakOut := false, nakDue := false }
    State.drainChan g v 2000 (s1.bump (lgIsl g) lgRxData)

/-- A flit is received (R388, R390-R393); an injection armed at REPLAY makes a DATA flit count as failed (R494). -/
def State.flitReceive (s : State) (g : GroupNo) (flit : List Byte) (failed : Bool) : State :=
  let k := lgIsl g
  let bad := failed || (leBytes 3 (crc24 (flit.take 253)).toNat).reverse != (flit.drop 253).take 3
  let w : W64 := BitVec.ofNat 64 (leNat (flit.take 4))
  let inj := !bad && fld w 31 30 == 1 && (s.isl k).armedFor 0x0204 0
  if bad || inj then
    let s0 := if inj then (s.useInjection k).event k { code := 0x0204, inst := 0, injected := true } else s
    (s0.onGroup g fun q => if q.st = .up && !q.nakOut then { q with nakDue := true, nakOut := true } else q).bump k lgCrcErr
  else
    let type := fld w 31 30
    let a := fld w 18 12
    let q0 := s.group g
    let nakOk := bitAt w 29 && q0.st == .up && q0.replaying.isEmpty &&
      (q0.replay.any (·.seq == a) || (match q0.replay with | f :: _ => (f.seq + 127) % 128 == a | [] => false))
    let s1 := s.onGroup g fun q =>
      (q.ack a (s.now k)).onChan (Fin.ofNat 8 (fld w 11 9)) fun c => { c with credited := fld w 8 0 }
    let s2 := if nakOk then s1.startReplay g else s1
    let payload := (flit.drop 4).take 249
    if type = 1 then s2.dataReceive g (fld w 25 19) (Fin.ofNat 8 (fld w 28 26)) payload
    else if type = 3 then (if (s2.group g).st = .hello then s2.helloReceive g (helloOf payload) else s2)
    else if type = 2 then s2.bump k lgCrcErr
    else s2

/-- Every whole flit of the blocks received so far (R384, R386). -/
def State.takeFlits (g : GroupNo) : Nat → State → State
  | 0, s => s
  | fuel + 1, s =>
    let bl := (s.group g).rxBlocks
    if bl.length < 8 then s
    else
      let f := blocksFlit ((bl.take 8).map (·.1)).flatten
      let s1 := s.onGroup g fun q => { q with rxBlocks := q.rxBlocks.drop 8 }
      State.takeFlits g fuel (s1.flitReceive g f.1 ((bl.take 8).any (·.2) || !f.2))

/-- What decoding a frame gives: per codeword the message bits, whether it failed and the used lanes of the symbols
corrected (R385, R386). -/
def decodeFrame (n : Nat) (lanes : List (List (BitVec 10))) : List (List Bool × Bool × List Nat) :=
  (destripe n lanes).map fun cw =>
    let raw := cw.map (·.2)
    match rsDecode raw with
    | some (fixed, pos) =>
      ((fixed.take 514).flatMap (natLsb 10), false, pos.map fun p => (cw.getD p (0, 0)).1)
    | none => ((raw.take 514).flatMap (natLsb 10), true, [])

/-- The lane number of used lane u (R382). -/
def LinkGrp.usedLane (q : LinkGrp) (u : Nat) : Nat := (((List.range 12).filter fun i => q.set.getLsbD i).getD u 0)

/-- A frame is received: corrected symbols are counted, lanes with 8 or more and failed frames are reported, and the
blocks go to the flits (R386, R411). Where an injection is armed at LANE_SYM, the lane counts as 8 corrected symbols; at FEC, the
frame fails (R494). -/
def State.frameReceive (s : State) (g : GroupNo) (lanes : List (List (BitVec 10))) : State :=
  let k := lgIsl g
  let q := s.group g
  let fec := (s.isl k).armedFor 0x0203 0
  let sym := (List.range q.n).find? fun u => (s.isl k).armedFor 0x0202 (q.usedLane u)
  let d := if fec then (decodeFrame q.n lanes).map fun c => (c.1, true, ([] : List Nat)) else decodeFrame q.n lanes
  let real : List Nat := (d.map (·.2.2)).flatten
  let corr : List Nat := match sym with
    | some u => real ++ List.replicate (8 - (real.filter (· == u)).length) u
    | none => real
  let s0 := if fec || sym.isSome then s.useInjection k else s
  let fail := d.any (·.2.1)
  let ds := scramble q.rxScr (d.map (·.1)).flatten
  let blocks := (chunks 257 60 ds.1).zipIdx.map fun b =>
    (b.1, (d.zipIdx.any fun c => c.1.2.1 && 5140 * c.2 < 257 * (b.2 + 1) && 257 * b.2 < 5140 * (c.2 + 1)))
  let s1 := s0.onGroup g fun q =>
    { q with
      rxScr := ds.2, rxBlocks := q.rxBlocks ++ blocks, fecGood := if fail then 0 else min 4 (q.fecGood + 1)
      cause := if q.cause = 6 && !fail && 3 ≤ q.fecGood then 0 else q.cause }
  let s2 := s1.bump k lgFecCorr corr.length
  let s3 := (List.range q.n).foldl (fun (s : State) u =>
    if 8 ≤ (corr.filter (· == u)).length then
      s.event k { code := 0x0202, inst := BitVec.ofNat 16 (q.usedLane u), injected := sym == some u }
    else s) s2
  let s4 := if fail then (s3.bump k lgFecFail).event k { code := 0x0203, inst := 0, injected := fec } else s3
  State.takeFlits g 9 s4

/-- Words received on the used lanes (R95, R383, R386): once their bits hold a frame, it is received. -/
def State.lanesReceive (s : State) (g : GroupNo) (words : List (List (BitVec 128))) : State :=
  let q := s.group g
  let bits := words.zipIdx.map fun e => q.rxRest.getD e.2 [] ++ wordBits e.1
  let n := laneFrameBits q.n
  let used := (List.range 12).filter fun i => q.set.getLsbD i
  let show_ (i : Nat) (l : Lane) : Lane :=
    if q.set.getLsbD i then { l with rxWord := (words.getD (used.idxOf i) []).getLastD l.rxWord } else l
  let s1 := s.onGroup g fun q => { q with lanes := q.lanes.mapIdx show_ }
  if (bits.all fun b => decide (n ≤ b.length)) then
    (s1.onGroup g fun q => { q with rxRest := bits.map (·.drop n) }).frameReceive g (bits.map fun b => bitSyms (b.take n))
  else s1.onGroup g fun q => { q with rxRest := bits }

/-- REPLAY_TIMEOUT (R393): the oldest held flit has seen no ACK advance for 256 link cycles. -/
def execReplayTimeout (g : GroupNo) (s : State) : Outcome :=
  let q := s.group g
  guarded (s.awake (lgIsl g) && q.st == .up && !q.replay.isEmpty && q.replaying.isEmpty &&
      256 ≤ elapsed (s.now (lgIsl g)) q.ackAt) s
    ((s.startReplay g).bump (lgIsl g) lgTimeouts)

/-- TRAINING_TIMEOUT (R406): the bound is suspended while the key slot is not loaded. An attempt that an injection makes fail is
reported at its bound whatever came of it (R494). -/
def execTrainingTimeout (g : GroupNo) (s : State) : Outcome :=
  let q := s.group g
  guarded (s.awake (lgIsl g) && (q.st == .training || q.st == .hello || (q.st == .up && q.trainFails)) &&
      q.held.isSome && 2 ^ 20 ≤ elapsed (s.now (lgIsl g)) q.trainAt) s
    ((s.trainStart g).event (lgIsl g) { code := 0x0205, inst := 0, injected := q.trainFails })

/-- LINK_RETRAIN (R408, R412). -/
def execLinkRetrain (g : GroupNo) (s : State) : Outcome := guarded (s.isl (lgIsl g)).live s (s.retrain g false)

/-- LINK_RESTART (R409, R412). -/
def execLinkRestart (g : GroupNo) (s : State) : Outcome := guarded (s.isl (lgIsl g)).live s (s.retrain g true)

/-- A key committed to the slot of a group (R401, R406): it takes effect at the next hello; a group that waits for it in
HELLO takes it at once, and its bound starts afresh. -/
def LinkGrp.keyCommit (q : LinkGrp) (key : List Byte) (now : Ctr) : LinkGrp :=
  let q1 := { q with held := some key, keyNew := true }
  if q.held.isNone && (q.st = .hello || q.st = .training) then
    { (if q.st = .hello then q1.takeKey else q1) with
      trainAt := now, cause := if q.cause = 5 then (if q.fecGood = 4 then 0 else 6) else q.cause }
  else q1

end Sys2Proof.Machine
end

