-- ==== Sys2Proof/Machine/Step7.lean ====
section
/-! DEFINITION. The Ephemeris and manager step of start-up (R423, R500, R508). -/

namespace Sys2Proof.Machine

/-- Whether step 6 has ended for every enabled group (R500): it has come UP, its bound has passed, or it, or its quadrant, is shut. -/
def State.linksSettled (s : State) : Bool :=
  (List.finRange 16).all fun g => !s.ephConf.linkEnabled g.val || (s.group g).step6 ||
    (s.isl (lgIsl g)).state == .shut || (s.isl (xqIsl (grpQuad g))).state == .shut

/-- The managers of the block's own domain: both, or none for a domain of one (R423, R508). -/
def State.ownManagers (s : State) : List (BitVec 12) :=
  let c := s.ephConf
  if c.members.length ≤ 1 then [] else [c.manager, c.mirrorBlock]

/-- The words of a JOIN after word 2 (R423, R427): role and ICOUNT, ISLICE, with the free extents in the first (log entry 24). -/
def State.joinWords (s : State) : List W64 :=
  let il := s.interleaveOf s.block
  packW [flag s.ephConf.archive 60, put il.1 48, put (s.eph.freeOf.sum % 2 ^ 48) 0] :: bytesWords (fit 32 (il.2.map (BitVec.ofNat 8)))

/-- Sends JOIN to a manager, in place of one that is still unanswered. -/
def State.sendJoin (s : State) (m : BitVec 12) : State :=
  ({ s with reqs := s.reqs.filter fun r => !(r.why == .join && r.dest == m) } : State).request {
    unit := unitEph, tid := 0, ptype := ptJoin, dest := m, dunit := unitEph, rest := s.joinWords, why := .join }

/-- JOIN to every manager of the domain that has not acknowledged one (R423, R508). -/
def State.joinAll (s : State) : State :=
  (s.ownManagers.filter fun m => !s.eph.joinAck.contains m).foldl State.sendJoin
    (s.onEph fun h => { h with joinAt := s.now ephIsl })

/-- Step 7 begins (R508): every member joins its domain; a primary sends its first MIRROR; a domain of one has ended the step at once,
and so has a mirror that the first MIRROR has reached. -/
def State.beginStep7 (s : State) : State :=
  let c := s.ephConf
  let now := s.now ephIsl
  let alone := c.members.length ≤ 1 || (c.role == 1 && !s.hasMirror)
  let s1 := (s.onEph fun h => { h with step7At := some now }).endStep7 (alone || (c.role == 2 && s.eph.beatSeen))
  let s2 := if s1.hasMirror then
      (s1.onEph fun h => { h with mirrorAt := now }).request {
        unit := unitEph, tid := 0, ptype := ptMirror, dest := c.mirrorBlock, dunit := unitMir, rest := List.replicate 16 0
        why := .mirror [] [] }
    else s1
  s2.joinAll

/-- Step 7 begins once the Ephemeris is in RUN and step 6 has ended (R500). -/
def State.step7Check (s : State) : State :=
  if s.eph.step7At.isSome || !s.running ephIsl || s.eph.reloading || !s.linksSettled then s else s.beginStep7

/-- FRAME_RECEIVE (R386, R500): a frame is received; a group that comes UP by it may be the last that step 7 waits for. -/
def execFrameReceive (g : GroupNo) (words : List (List (BitVec 128))) (s : State) : Outcome :=
  let q := s.group g
  guarded (s.awake (lgIsl g) && (q.st == .hello || q.st == .up) && q.rxN != 0 && words.length == q.n) s
    (s.lanesReceive g words).step7Check

/-- LINK_BRINGUP_BOUND (R500): step 6 of a group ends by its bound; LINK_SHORT is set for one that is not UP. -/
def execLinkBringupBound (g : GroupNo) (s : State) : Outcome :=
  let q := s.group g
  match q.step6At with
  | none => .next s
  | some t =>
    guarded ((s.isl (lgIsl g)).live && !q.step6 && decide (2 ^ 22 ≤ elapsed (s.now (lgIsl g)) t)) s
      ((s.onGroup g fun q => { q with step6 := true }).groupEnds g false).step7Check

/-- JOIN_RESEND (R508): every 2^16 EPH cycles JOIN goes again to each manager that has not acknowledged. -/
def execJoinResend (s : State) : Outcome :=
  guarded (s.ephLive && s.eph.step7At.isSome && decide (2 ^ 16 ≤ elapsed (s.now ephIsl) s.eph.joinAt)) s s.joinAll

/-- MGR_STEP_BOUND (R508): step 7 ends by its bound of 2^22 EPH cycles, and MGR_ABSENT is set. -/
def execMgrStepBound (s : State) : Outcome :=
  match s.eph.step7At with
  | none => .next s
  | some t =>
    guarded ((s.isl ephIsl).live && !s.eph.step7 && decide (2 ^ 22 ≤ elapsed (s.now ephIsl) t)) s
      (({ s with cfg := { s.cfg with mgrAbsent := true } } : State).onEph fun h => { h with step7 := true })

end Sys2Proof.Machine
end

