-- ==== Sys2Proof/Machine/Detect.lean ====
section
/-! DEFINITION. Detectors, what they do, and the shutters, masks and fences they close (R33, R34, R410, R448-R453, R471-R479). -/

namespace Sys2Proof.Machine

/-! Counting (R448). -/

/-- The instance of a detector, as the island holds it; one that has counted nothing starts its first window in the cycle in which it
was configured. -/
def Island.det (i : Island) (code inst : BitVec 16) : Det :=
  (i.dets.find? fun d => d.code == code && d.inst == inst).getD {
    code := code, inst := inst, winStart := KMap.getD i.detStart code.toNat 0 }

/-- The instance put back. -/
def Island.putDet (i : Island) (d : Det) : Island :=
  { i with dets := (i.dets.filter fun e => !(e.code == d.code && e.inst == d.inst)) ++ [d] }

/-- The window of an instance moved on to the one that holds the present cycle: the count returns to zero where a new one has started. -/
def Det.roll (d : Det) (w : Nat) (now : Ctr) : Det :=
  let n := elapsed now d.winStart / 2 ^ w
  if n = 0 then d else { d with count := 0, winStart := d.winStart + BitVec.ofNat 48 (n * 2 ^ w) }

/-- One event: the counts rise, and the fault becomes lasting where the count reaches T. -/
def Det.count1 (d : Det) (t : Nat) : Det :=
  let c := sat 8 (d.count.toNat + 1)
  { d with count := BitVec.ofNat 8 c, total := sat32Add d.total 1, lasting := d.lasting || decide (t ≤ c) }

/-- The role of the block in its domain, as an island knows it. -/
def State.roleAt (s : State) (k : IslandNo) : Nat := match s.conf k with | some c => c.role | none => 0

/-- Whether an island has an instance (R450). -/
def State.hasDet (s : State) (k : IslandNo) (code inst : BitVec 16) : Bool :=
  match detRow code.toNat with
  | some r => r.inIsland k (s.roleAt k) && decide (inst.toNat < r.insts)
  | none => false

/-- DETECTOR_WINDOW_START (R448): a window has ended, and the count returns to zero. -/
def execDetectorWindowStart (k : IslandNo) (code inst : BitVec 16) (s : State) : Outcome :=
  let w := (detWT (s.conf k) code.toNat).1
  let d := (s.isl k).det code inst
  guarded ((s.isl k).live && s.hasDet k code inst && decide (2 ^ w ≤ elapsed (s.now k) d.winStart)) s
    (s.onIsl k fun i => i.putDet (d.roll w (s.now k)))

/-! Shutters (R451, R471-R475). -/

/-- Whether a slice's datapath holds work of a command: its home duties apart. -/
def Slice.pathRuns (x : Slice) (id : Nat) : Bool :=
  x.eye.streams.any (fun t => t.run == id) || x.eye.flight.any (fun f => f.run == id) || x.eye.outs.any (fun d => d.run == id) ||
  x.store.queue.any (fun e => e.run == some id) || x.store.imports.any (fun e => e.run == some id) ||
  x.xp.tx.any (fun t => t.run == id) || x.xp.waiting.any (fun t => t.1 == id) || x.xp.streams.any (fun t => t.run == id) ||
  x.hist.run == some id || x.hist.queue.any (fun h => h.1 == id) || x.dpe.runs id || x.dpe.queue.any fun j => j.1.run == id

/-- Heals that a slice was to read or encode for fail. -/
def State.healsFailAt (s : State) (p : SliceNo) : State :=
  let fail (h : Heal) : Heal := if h.slice = p && h.st == .storing then { h with st := .failed } else h
  ({ s with svy := { s.svy with heals := s.svy.heals.map fail } } : State).onSlice p fun x => { x with
    eye := x.eye.dropRun 0, store := { x.store with queue := x.store.queue.filter fun e => !e.heal } }

/-- What the loss of slice p's datapath does to commands (R223, R473): those running on it, or leading or joined with it, have lost their
unit; histograms it owes are given up; heals that it was to read or encode for fail. -/
def State.pathLost (s0 : State) (p : SliceNo) : State :=
  let s := s0.histAborts p
  let t := twinOf p
  let mine (r : CmdRun) : Bool := (s.slice p).pathRuns r.id || (s.slice p).pair.run == some r.id ||
    (s.isJoint p && (s.slice t).dpe.runs r.id)
  let hit := (s.cmd.runs.filter fun r => !r.done && mine r).map (·.id)
  let s1 := hit.foldl (fun (s : State) id => s.failRun (some id) stUnreachable) s
  let off (q : Pair) : Pair := { q with joined := false, lead := false, run := none }
  let s2 := if (s.slice p).pair.joined then (s1.onPair p off).onPair t off else s1
  s2.healsFailAt p

/-- Whether slice p is one that its twin would have to serve: its datapath is shut, or it is not enabled (R126, R294, R346). -/
def State.needsTwin (s : State) (p : SliceNo) : Bool :=
  (s.slice p).dataShut || match s.conf (psIsl p) with | some c => !c.sliceEn p.val | none => false

/-- Whether the twin of slice p serves its port end, or will once its own BIST has passed (R294, R505). -/
def State.twinMayServe (s : State) (p : SliceNo) : Bool :=
  let t := twinOf p
  let i := s.isl (psIsl t)
  let starting := i.live && i.state == .config && i.bist.isNone && match s.conf (psIsl p) with | some c => c.sliceEn t.val | none => false
  s.pairCapable p && !(s.slice t).dataShut && (s.sliceWorks t || starting)

/-- Closes the shutter of slice p's datapath (R294, R451, R471, R473): STATE reads SHUT; held commits are dropped; where the twin cannot
serve the port end, the device's spans are lost, and so are those of a device that the slice served, or was to serve. -/
def State.shutDatapath (s : State) (p : SliceNo) : State :=
  if (s.slice p).dataShut then s
  else
    let t := twinOf p
    let s1 := ((s.pathLost p).onSlice p fun x => { x with
      dataShut := true, pair := { x.pair with shutAt := s.now (psIsl p), joinWait := false } }).shutIsland (psIsl p)
    let s2 := ((s.slice p).store.commits.filter fun m => m.st == .held).foldl (fun s m => s.abandonCommit p m) s1
    let s3 := if s2.twinMayServe p then s2 else s2.loseDevice p
    let s4 := s3.onPair p fun q => { q with serving := false }
    if (s.slice p).pair.serving || (s.needsTwin t && (s.slice t).mp.en && !s.eph.gone.getLsbD t.val) then s4.loseDevice t else s4

/-- Closes the shutter of a link group (R403, R411): its lanes no longer send. -/
def State.shutGroup (s : State) (g : GroupNo) : State :=
  ((s.onGroup g fun q => q.down q.cause).shutIsland (lgIsl g)).step7Check

/-- The Survey stops (R459, R471): heals fail, and so do the commands that scrub. -/
def State.surveyStops (s : State) : State :=
  let s1 := s.svy.scrubs.foldl (fun (s : State) j => s.failRun j.run stUnreachable) s
  { s1 with svy := { s1.svy with
      scrubs := [], heals := s1.svy.heals.map fun h => if h.st == .healed then h else { h with st := .failed } } }

/-- SPG stops (R471): no table is built, and slot commands complete TABLE_ABORTED. -/
def State.spgStops (s : State) : State :=
  let cmds := s.spg.slots.toList.flatMap fun x => x.queue ++ x.cur.toList
  let s1 := (cmds.map (·.run) ++ s.spg.builds.map (·.run)).foldl (fun (s : State) id => s.slotCmdEnd id stTableAborted) s
  { s1 with spg := { s1.spg with
      builds := [], closed := [], slots := s1.spg.slots.map fun x => { x with queue := [], cur := none } } }

/-- Closes the shutter of a service island (R451, R459, R471, R475). -/
def State.shutService (s : State) (k : IslandNo) : State :=
  let s1 := s.shutIsland k
  if k = svyIsl then s1.surveyStops else if k = spgIsl then s1.spgStops else s1

/-- What the loss of a quadrant does to commands (R474): those with work on a slice that CMD no longer reaches, that wait for a plate from
a home that no longer reaches the reader, or that build a table at an SPG out of reach, complete UNREACHABLE. -/
def State.quadLost (s : State) : State :=
  let cut (p : SliceNo) : Bool := !s.meets cmdIsl (psIsl p)
  let works (id : Nat) (p : SliceNo) : Bool := (s.slice p).pathRuns id || (s.slice p).home.inq.any fun w => w.run == some id
  let waits (id : Nat) (q : SliceNo) : Bool := (s.slice q).home.reads.any fun j => match j.dest with
    | .eye p n => !s.meets (psIsl p) (psIsl q) && (s.slice p).eye.runOf n == some id
    | _ => false
  let builds (id : Nat) : Bool := !s.meets cmdIsl spgIsl && s.spg.builds.any fun b => b.run == id
  let owes (id : Nat) : Bool := s.spg.builds.any fun b => b.run == id && b.waiting.any fun p => !s.meets (psIsl p) spgIsl
  let hit := (s.cmd.runs.filter fun r => !r.done &&
    (builds r.id || owes r.id || (List.finRange 32).any fun p => (cut p && works r.id p) || waits r.id p)).map (·.id)
  let s1 := ((List.finRange 32).filter fun p => s.quadGone (quadOf (psIsl p))).foldl State.bridgeCut s
  hit.foldl (fun (s : State) id => s.failRun (some id) stUnreachable) s1

/-- A cell is retired, once its current packet has been read (R34); where 64 are retired already, the quadrant's shutter closes in
place of it (R450, R474). -/
def State.retireCell (s : State) (x : QuadNo) (cell : Nat) : State :=
  let d := s.quad x
  if d.retired.contains cell || d.retiring.contains cell then s
  else if d.retired.length + d.retiring.length < 64 then s.onQuad x fun d => ({ d with retiring := d.retiring ++ [cell] } : Quad).settle
  else if (s.isl (xqIsl x)).state != .shut then (s.shutIsland (xqIsl x)).quadLost else s

/-- The slice on whose engine the lanes and arrays of slice p work: the lead of a logical slice (R289). -/
def State.engineOf (s : State) (p : SliceNo) : SliceNo :=
  let t := twinOf p
  if s.logical t && (s.slice t).dpe.job.isSome && (s.slice p).dpe.job.isNone then t else p

/-- Moves the queued tasks of a masked merge lane to the next unmasked lane in the ring (R451). -/
def State.moveTasks (s : State) (p : SliceNo) (lane : Nat) : State :=
  let e := s.engineOf p
  let i := if s.logical e then p.val % 2 * 16 + lane else lane
  let ring := if s.logical e then 32 else 16
  match ((List.range ring).map fun d => (i + 1 + d) % ring).find? fun l => (s.lanes e).contains l with
  | none => s
  | some l => s.onSme e fun m =>
      let ts := m.queues[Fin.ofNat 32 i]
      if l = i then m else { m with queues := (m.queues.set (Fin.ofNat 32 i) []).set (Fin.ofNat 32 l) (m.queues[Fin.ofNat 32 l] ++ ts) }

/-! Managers (R478, R479). -/

/-- The record TAKEOVER (R485). -/
def State.noteTakeover (s : State) (d : Nat) (unmirrored : Bool) : State :=
  s.emit ephIsl { code := 0x000A, sev := sevLasting, arg := packW [put d 0, flag unmirrored 8] }

/-- Takeover (R478): the mirror loads its copy of the map and acts as manager, unmirrored. -/
def State.takeover (s : State) : State :=
  let d := s.ephConf.domain.toNat
  ((s.onEph fun h => { h with
    map := h.mirMap, acting := setBit h.acting d true, unmirrored := setBit h.unmirrored d true }).endStep7 true).noteTakeover d false

/-- The MIRRORs of this block that wait for an acknowledgement. -/
def State.mirrorsOut (s : State) : List FabReq := s.reqs.filter fun r => match r.why with | .mirror .. => true | _ => false

/-- The primary carries on unmirrored (R479): what waited for its mirror is complete. -/
def State.runUnmirrored (s : State) : State :=
  let d := s.ephConf.domain.toNat
  let out := s.mirrorsOut
  let s1 : State := { s with reqs := s.reqs.filter fun r => !out.contains r }
  let s2 := ((s1.onEph fun h => { h with unmirrored := setBit h.unmirrored d true }).endStep7 true).noteTakeover d true
  out.foldl (fun (s : State) r => match r.why with | .mirror moves answers => s.mirrored moves answers r.oid r.idx | _ => s) s2

/-- A MIRROR that is not acknowledged is sent again. -/
def State.mirrorAgain (s : State) (r : FabReq) : State :=
  ((s.dropReq r.unit r.tid).onEph fun h => { h with mirrorAt := s.now ephIsl }).request { r with again := false }

/-- MIRROR_BEAT (R477): a primary manager that has sent no MIRROR for 2^15 EPH cycles sends those that have failed again, or one with
no entries. -/
def execMirrorBeat (s : State) : Outcome :=
  let stale := s.mirrorsOut.filter (·.again)
  guarded (s.ephLive && s.hasMirror && decide (2 ^ 15 ≤ elapsed (s.now ephIsl) s.eph.mirrorAt)) s
    (if stale.isEmpty then
      (s.onEph fun h => { h with mirrorAt := s.now ephIsl }).request {
        unit := unitEph, tid := 0, ptype := ptMirror, dest := s.ephConf.mirrorBlock, dunit := unitMir
        rest := List.replicate 16 0, why := .mirror [] [] }
    else stale.foldl State.mirrorAgain s)

/-! What an event does (R450). -/

/-- A poisoned word in the SRAM of slice p's datapath (R450, R463): the poison is carried by what the slice holds of the plate. -/
def Slice.poisonPlate (x : Slice) (oid : BitVec 40) (k : BitVec 24) : Slice :=
  let ids := ((x.eye.streams.flatMap (·.asked)).filter fun w => w.obj.oid == oid && w.plate == k).map (·.id)
  let hit (w : Want) : Bool := w.obj.oid == oid && w.plate == k
  { x with
    eye := { x.eye with
      arrived := mapIf (fun a => ids.contains a.id) (fun a => { a with marked := true }) x.eye.arrived
      flight := mapIf (fun f => hit f.want) (fun f => { f with arr := { f.arr with marked := true } }) x.eye.flight
      outs := mapIf (fun d => hit d.want) (fun d => { d with plate := { d.plate with poison := true } }) x.eye.outs }
    store := { x.store with
      queue := mapIf (fun e => e.obj.oid == oid && e.plate == k) (fun e => { e with data := { e.data with poison := true } }) x.store.queue }
    home := { x.home with
      inq := mapIf (fun w => w.obj.oid == oid && w.plate == k) (fun w => { w with poisoned := true }) x.home.inq } }

/-- The commands for which slice x's Eyepiece, store path or home duties hold something of the plate. -/
def Slice.plateRuns (x : Slice) (oid : BitVec 40) (k : BitVec 24) : List Nat :=
  let hit (w : Want) : Bool := w.obj.oid == oid && w.plate == k
  let here (t : EStream) : Bool := t.asked.any fun w => hit w && x.eye.arrived.any fun a => a.id == w.id
  (x.eye.streams.filter here).map (·.run) ++ (x.eye.flight.filter fun f => hit f.want).map (·.run) ++
    (x.eye.outs.filter fun d => hit d.want).map (·.run) ++
    (x.store.queue.filter fun e => e.obj.oid == oid && e.plate == k).filterMap (·.run) ++
    (x.home.inq.filter fun w => w.obj.oid == oid && w.plate == k).filterMap (·.run)

/-- A poisoned word in what the engines hold for job j: an operand plate in the plate buffer or the field store, or, where `out` says that
the plate is one of the job's destination, what stands of it in the accumulators, before the drain or in the hash accumulator. -/
def Slice.poisonEngine (x : Slice) (j : MatJob) (second out : Bool) (oid : BitVec 40) (k : Nat) : Slice :=
  let isA (i kp : Nat) : Bool := j.a.oid == oid && j.aPlate i kp == k
  let isB (n kp : Nat) : Bool := j.b.oid == oid && j.bPlate n kp == k
  let isC (i n : Nat) : Bool := out && i * j.np + n == k
  let bad (q : Plate) : Plate := { q with poison := true }
  { x with
    dpe := { x.dpe with
      acts := mapIf (fun a => !second && isA a.1 a.2.1) (fun a => (a.1, a.2.1, bad a.2.2.1, a.2.2.2)) x.dpe.acts
      pass := mapIf (fun u => second == x.dpe.phase2 && isB u.step.n u.step.kp) (fun u => { u with plate := bad u.plate }) x.dpe.pass
      accs := x.dpe.accs.map fun a =>
        if a.second == second then a.mark (((List.range a.p).map (a.row0 + ·)).filter fun i => isC i a.n) else a
      drain := mapIf (fun o => o.second == second && isC o.i o.n) (fun o => { o with poison := true }) x.dpe.drain }
    sme := { x.sme with
      field := mapIf (fun f => if f.1 then isA f.2.1 f.2.2.1 else isB f.2.1 f.2.2.1)
        (fun f => (f.1, f.2.1, f.2.2.1, bad f.2.2.2.1, f.2.2.2.2)) x.sme.field
      group := mapIf (fun g => isC g.i g.n) (fun g => { g with poisoned := true }) x.sme.group } }

/-- An uncorrectable word of the SRAM of slice p that belongs to a plate (R450, R463, R466): whatever the slice and its engines hold of the
plate is poisoned, and the commands it is held for take note. -/
def State.poisonWord (s : State) (p : SliceNo) (oid : BitVec 40) (k : BitVec 24) : State :=
  let q := s.engineOf p
  let s1 := s.onSlice p fun x => x.poisonPlate oid k
  let note (ids : List Nat) (t : State) : State := t.noteTaint ids
  let ids := (s.slice p).plateRuns oid k
  let d := (s.slice q).dpe
  match d.job with
  | none => note ids s1
  | some j =>
    let taint (x : Slice) (e : Option MatJob × Bool) : Slice := match e.1 with
      | none => x
      | some j =>
        let out := match (s.findRun j.run).bind (·.dst) with | some o => j.dest == 0 && o.oid == oid | none => false
        x.poisonEngine j e.2 out oid k.toNat
    let x := [(d.job, false), (d.job2, true)].foldl taint (s.slice q)
    let hit := x.dpe != d || x.sme != (s.slice q).sme
    note (if hit then j.run :: ids else ids) (s1.onSlice q fun y => { y with dpe := x.dpe, sme := x.sme })

/-- The slice of an island below 32. -/
def sliceOf (k : IslandNo) : SliceNo := Fin.ofNat 32 k.val
/-- The link group of an island from 32 to 47, and the quadrant of one from 48 to 51. -/
def groupOf (k : IslandNo) : GroupNo := Fin.ofNat 16 (k.val - 32)
def quadrantOf (k : IslandNo) : QuadNo := Fin.ofNat 4 (k.val - 48)

/-- Entries of an object in one copy of the directory, taken from the other copy where that holds them. -/
def copyEntries (oid : BitVec 40) (here there : List DirEnt) : List DirEnt :=
  here.map fun d => if d.obj.oid == oid then (there.find? d.sameKey).getD d else d
/-- The same of the entries of a manager's map. -/
def PMap.copyEntries (oid : BitVec 40) (here there : PMap) : PMap := {
  objs := here.objs.map fun o => if (ObjRec.ofWords o.obj).oid == oid then (there.obj oid).getD o else o
  ovrs := here.ovrs.map fun v => if v.oid == oid then (there.ovr oid (8 * v.group)).getD v else v }

/-- What an event does whose cause the operation that found it has not already dealt with (R408, R411, R450, R453); a lane that its event
fences retrains the group by that (R410). -/
def State.eventAct (s : State) (k : IslandNo) (e : DetEvent) (found becomes : Bool) : State :=
  let p := sliceOf k
  match e.code.toNat with
  | 0x0201 => if !becomes && (s.group (groupOf k)).set.getLsbD e.inst.toNat then s.retrain (groupOf k) false else s
  | 0x0412 => if s.awake mirIsl then s.onEph fun h => { h with dir := copyEntries e.oid h.dir h.mirDir, map := h.map.copyEntries e.oid h.mirMap } else s
  | 0x0413 => if s.awake ephIsl then s.onEph fun h => { h with mirDir := copyEntries e.oid h.mirDir h.dir, mirMap := h.mirMap.copyEntries e.oid h.map } else s
  | 0x0106 =>
    if found then s
    else match (s.slice p).eye.laneHolds (Fin.ofNat 128 e.inst.toNat) with
      | none => s
      | some (f, i) => s.onSlice p fun x => { x with eye := { x.eye with
          lanes := x.eye.lanes.set (Fin.ofNat 128 e.inst.toNat) none
          flight := mapIf (fun g => g.want.id == f.want.id) (fun g => { g with subs := i :: g.subs }) x.eye.flight } }
  | 0x0107 =>
    if found then s
    else
      let q := s.engineOf p
      let l := if s.logical q then p.val % 2 * 16 + e.inst.toNat else e.inst.toNat
      s.onSme q fun m => { m with work := mapIf (fun v => v.lane == l) (fun v => { v with failed := true }) m.work }
  | 0x0108 => s.poisonWord p e.oid e.plate
  | 0x0402 => s.mirrorsOut.foldl State.mirrorAgain s
  | _ => s

/-- What the event does that makes a fault lasting (R450, R451). -/
def State.lastingAct (s : State) (k : IslandNo) (e : DetEvent) : State :=
  let p := sliceOf k
  let g := groupOf k
  let i := e.inst.toNat
  match e.code.toNat with
  | 0x0101 => { s with svy := { s.svy with scrubs := s.svy.scrubs ++ [{ run := none, lines := [(p, 0, s.dataEnd p)] }] } }
  | 0x0102 | 0x0103 | 0x0104 => s.shutDevice p
  | 0x0105 =>
    let s1 := s.onSlice p fun x => { x with dpe := { x.dpe with masked := setBit x.dpe.masked i true } }
    if (s1.slice p).dpe.masked = BitVec.allOnes 32 then s1.shutDatapath p else s1
  | 0x0106 =>
    let s1 := s.onSlice p fun x => { x with eye := { x.eye with masked := setBit x.eye.masked i true } }
    if (s1.slice p).eye.masked = BitVec.allOnes 128 then s1.shutDatapath p else s1
  | 0x0107 =>
    let s1 := s.onSlice p fun x => { x with sme := { x.sme with masked := setBit x.sme.masked i true } }
    if (s1.slice p).sme.masked = BitVec.allOnes 16 then s1.shutDatapath p else s1.moveTasks p i
  | 0x0108 => s.shutDatapath p
  | 0x0201 | 0x0202 =>
    (s.onGroup g fun q => { q with lanes := q.lanes.set (Fin.ofNat 12 i) { q.lanes[Fin.ofNat 12 i] with fenced := true } }).retrain g false
  | 0x0203 | 0x0204 => s.retrain g false
  | 0x0205 | 0x0206 => s.shutGroup g
  | 0x0301 => s.retireCell (quadrantOf k) (i % 16384)
  | 0x0401 => s.takeover
  | 0x0402 => s.runUnmirrored
  | 0x0403 => s.shutService mirIsl
  | c => if 0x0410 ≤ c then s.shutService k else s

/-- Detectors whose events no other command of the table brings about: words of an island's SRAM, and the checks of decode and merge
lanes (log entry 22). -/
def selfFound (code : Nat) : Bool := code == 0x0106 || code == 0x0107 || code == 0x0108 || decide (0x0410 ≤ code)

/-- The detail an event's record carries (R482). -/
def detailOf (e : DetEvent) : W64 :=
  let c := e.code.toNat
  if decide (0x0101 ≤ c) && decide (c ≤ 0x0104) then e.arg else if c = 0x0301 then put (e.inst.toNat % 16384) 0 else 0

/-- DETECTOR_EVENT (R448-R453): an event that an operation has found, or one that no operation of the table finds, is counted, reported
and acted on; the event that brings the count to T makes the fault lasting, once. -/
def execDetectorEvent (k : IslandNo) (e : DetEvent) (s : State) : Outcome :=
  let i := s.isl k
  let found := i.detQueue.contains e
  guarded (i.live && s.hasDet k e.code e.inst &&
      (found || (selfFound e.code.toNat && (!e.injected || i.armedFor e.code.toNat e.inst.toNat)))) s
    (let s0 := if found then s.onIsl k fun i => { i with detQueue := i.detQueue.erase e }
      else if e.injected then s.useInjection k else s
    let wt := detWT (s.conf k) e.code.toNat
    let old := (i.det e.code e.inst).roll wt.1 i.cycle
    let new := old.count1 wt.2
    let becomes := new.lasting && !old.lasting
    let s1 := (s0.onIsl k fun i => i.putDet new).emit k {
      code := e.code, sev := if becomes then sevLasting else sevTransient, injected := e.injected, inst := e.inst
      oid := e.oid, plate := e.plate, arg := detailOf e }
    let s2 := if i.state = .shut then s1 else s1.eventAct k e found becomes
    if becomes then s2.lastingAct k e else s2)

/-- HALT_SET (R468): a write to EPH_HALT_SET halts the domains whose bits are set. -/
def execHaltSet (mask : BitVec 16) (s : State) : Outcome :=
  guarded (s.isl ephIsl).live s
    ((List.range 16).foldl (fun (s : State) d => if mask.getLsbD d then s.haltDomain d true else s) s)

end Sys2Proof.Machine
end

