-- ==== Sys2Proof/Machine/Survey.lean ====
section
/-! DEFINITION. The Survey: heals, scrubs, the patrol, the audit (R454-R461, R472). -/

namespace Sys2Proof.Machine

def State.onSvy (s : State) (f : SvyS → SvyS) : State := { s with svy := f s.svy }

/-! Headers (R456). -/

/-- The plates whose headers a heal may read: the plate's own, then those of its span, the nearest first, the lower index first of two
at the same distance. -/
def healOrder (o : ObjRec) (k : Nat) : List Nat :=
  let inSpan (q : Nat) : Bool := spanOf q == spanOf k && decide (q < o.plates)
  k :: (List.range 63).flatMap fun d => (if d + 1 ≤ k && inSpan (k - (d + 1)) then [k - (d + 1)] else []) ++
    (if inSpan (k + (d + 1)) then [k + (d + 1)] else [])

/-- The readable headers of a heal, in the order in which they were asked for. -/
def Heal.readable (h : Heal) : List FrcHdr := (h.hdrs.filterMap (·.2)).map FrcHdr.ofBytes

/-- The plate's own header, where it is readable. -/
def Heal.own (h : Heal) : Option FrcHdr := (h.hdrs.find? fun e => e.1 == h.plate.toNat).bind fun e => e.2.map FrcHdr.ofBytes

/-- The master that the heal reads: of the plate's own header, else of the nearest sibling's (`sibling_master`). -/
def Heal.masterOid (h : Heal) : Option (BitVec 40) := h.readable.head?.map (·.masterOid)

/-- The slot of the first of those headers whose slot is LIVE at its generation in the encoding slice (`sibling_slot`). -/
def Slice.healSlot (x : Slice) (h : Heal) : Option (Fin 64) :=
  (h.readable.find? fun d =>
    let c := x.slots[(Fin.ofNat 64 d.slot : Fin 64)]
    c.st == .live && c.gen.toNat == d.gen).map fun d => Fin.ofNat 64 d.slot

/-- Whether the headers read so far decide the heal, or there are no more. -/
def Slice.headersEnough (x : Slice) (h : Heal) : Bool :=
  !h.hdrs.isEmpty && (h.todo.isEmpty || h.masterOid == some 0 || (h.masterOid.isSome && (x.healSlot h).isSome))

/-- Asks for the header of the next plate: its line at the home slice here, or the plate from its home elsewhere. -/
def State.askHeader (s : State) (h : Heal) (o : ObjRec) (q : Nat) (rest : List Nat) : State :=
  let k := BitVec.ofNat 24 q
  let took (h : Heal) : Heal := { h with todo := rest, asked := true }
  let t := s.onHeal h.oid h.plate took
  match s.homeOf h.oid (spanOf q) with
  | none => (s.lookup h.oid (spanOf q)).2
  | some a =>
    if a.block != s.block then t.request {
        unit := unitPs h.slice, tid := 0, ptype := ptRdReq, dest := a.block, dunit := unitPs a.slice, oid := h.oid, idx := k
        why := .header h.plate }
    else match s.eph.serves h.oid (spanOf q) with
      | .at p base _ =>
        if !s.eph.isWritten h.oid q || !s.keyLoaded p o.key then t.healHeader h.oid h.plate q none
        else
          let i := t.newId
          let n := spanPlates o (spanOf q)
          let j : RJob := {
            id := i.1, obj := o, plate := k, dest := .heal h.oid h.plate, base := base, started := true
            plan := [(base + segLine o n .header (posOf q), lineId o q .header 0)] }
          (i.2.putJob p j).askLines p j
      | _ => t.healHeader h.oid h.plate q none

/-- Whether a manager has refused to name an object. -/
def State.isRefused (s : State) (oid : BitVec 40) : Bool := s.eph.refused.any fun e => e.1 == oid

/-- The headers are read: the master is read at the encoding slice, or the heal fails (R456). -/
def State.readMaster (s : State) (h : Heal) : State :=
  match h.masterOid, (s.slice h.slice).healSlot h with
  | some m, some t =>
    if m = 0 || !s.pathLive h.slice then s.healStored h.oid h.plate false
    else match s.recordOf m with
      | some o =>
        let go (h : Heal) : Heal := { h with st := .storing, slot := t, master := m }
        ((s.onHeal h.oid h.plate go).openStream h.slice 0 o [(h.plate.toNat, .heal h.oid h.plate)] (some .f32) false).eyeAsk h.slice
      | none => if s.isRefused m || (s.managerOf (domainOf m)).isNone then s.healStored h.oid h.plate false else s.queryRecord m
  | _, _ => s.healStored h.oid h.plate false

/-! The rebuilding of an index (R457). -/

/-- The plate whose header a line of the packed region begins with, if it begins with one: decrypted as the first line of each plate
of the span in turn, it passes the header checks of R269. -/
def headerIn (o : ObjRec) (span : Nat) (key : List Byte) (cipher : List Byte) : Option IdxEntry :=
  (List.range (spanPlates o span)).findSome? fun j =>
    let k := BitVec.ofNat 24 (64 * span + j)
    let b := xts false key (xtsTweak o.oid k Segment.packed.code 0) (fit 512 cipher)
    let l := (ZfcHdr.ofBytes b).lines
    if zfcCheck o.oid k o.format l b = some .header then none
    else some { row := k.toNat / o.pcols, col := k.toNat % o.pcols, lines := l, offset := 0 }

/-- The entries that the lines of a packed region spell, in the order of R250. -/
def scanIndex (o : ObjRec) (span : Nat) (key : List Byte) (lines : List (Nat × List Byte)) : List IdxEntry :=
  (lines.filterMap fun e => (headerIn o span key e.2).map fun d => { d with offset := e.1 }).foldl (fun es d => insertEntry d es) []

/-- All lines of the packed region have come: a fresh index is written, unless two headers name one plate or plates overlap. -/
def State.rebuildIndex (s : State) (h : Heal) (o : ObjRec) (p : SliceNo) (base : Nat) : State :=
  let span := spanOf h.plate.toNat
  let n := spanPlates o span
  let es := scanIndex o span (((s.slice p).keys[(Fin.ofNat 16 o.key : Fin 16)]).getD []) h.lines
  let packed := (es.map fun e => e.offset + e.lines).foldl max 0
  if !entriesOk packed es then s.healStored h.oid h.plate false
  else
    let go (h : Heal) : Heal := { h with st := .storing, lines := [] }
    let s1 := (s.onHeal h.oid h.plate go).onSlice p fun x => { x with home := x.home.putIndex o.oid span packed es }
    let b := indexBytes o span n packed es
    let i := (s1.bump svyIsl svyIdxRebuilt).newId
    i.2.startWrite p { id := i.1, run := none, oid := o.oid, plate := h.plate, heal := true, fresh := true, left := 0 }
      ((List.range 2).map fun m => {
        addr := base + segStart o n .index + m, id := lineId o (64 * span) .index m, data := (b.drop (512 * m)).take 512 })

/-- An index heal goes on: its lines are asked for, or the index is written; an index that another heal has rebuilt is there. -/
def State.indexHeal (s : State) (h : Heal) (o : ObjRec) : Option State :=
  let span := spanOf h.plate.toNat
  match s.eph.serves h.oid span with
  | .at p base e =>
    if ((s.slice p).home.index h.oid span).isSome then some (s.healStored h.oid h.plate true)
    else if !s.keyLoaded p o.key then some (s.healStored h.oid h.plate false)
    else if !h.started then
      let start := segStart o (spanPlates o span) .packed
      let c := 16 * e.extents - start
      let go (h : Heal) : Heal := { h with started := true, left := c }
      some ((List.range c).foldl (fun (t : State) i => t.memReq p {
        wr := false, addr := BitVec.ofNat 32 (base + start + i), why := .rebuild h.plate i
        id := { oid := h.oid, plate := BitVec.ofNat 24 (64 * span), seg := .packed, line := i, key := o.key } })
        (s.onHeal h.oid h.plate go))
    else if h.left = 0 then some (s.rebuildIndex h o p base)
    else none
  | _ => some (s.healStored h.oid h.plate false)

/-! HEAL_START. -/

/-- What a running heal can do now; none while it waits. -/
def State.healStep (s : State) (h : Heal) : Option State :=
  if h.st != .running then none
  else match h.obj with
    | none =>
      (match s.recordOf h.oid with
      | some o => some (s.onHeal h.oid h.plate fun h => { h with obj := some o })
      | none =>
        if s.isRefused h.oid || (s.managerOf (domainOf h.oid)).isNone then some (s.healStored h.oid h.plate false)
        else if s.reqs.any fun r => r.ptype == ptObjReq && r.oid == h.oid then none else some (s.queryRecord h.oid))
    | some o =>
      if h.index then s.indexHeal h o
      else if o.code != 1 then some (s.healStored h.oid h.plate false)
      else if h.asked then none
      else if !h.started then
        some (s.onHeal h.oid h.plate fun h => { h with started := true, todo := healOrder o h.plate.toNat })
      else if (s.slice h.slice).headersEnough h then
        (match h.masterOid with
        | some m => if s.reqs.any fun r => r.ptype == ptObjReq && r.oid == m then none else some (s.readMaster h)
        | none => some (s.readMaster h))
      else match h.todo with
        | [] => some (s.healStored h.oid h.plate false)
        | q :: rest =>
          if (s.homeOf h.oid (spanOf q)).isNone && s.lookupOut h.oid (spanOf q) then none
          else if (s.homeOf h.oid (spanOf q)).isNone && s.isRefused h.oid then some (s.healStored h.oid h.plate false)
          else some (s.askHeader h o q rest)

/-- The first dark plate, in the order of marking, that no heal has begun on. -/
def State.nextDark (s : State) : Option Dark := s.eph.dark.find? fun d => !d.healing

/-- The heal of a dark plate begins; with the Survey's shutter closed it has failed at once (R459). -/
def State.beginHeal (s : State) (d : Dark) : State :=
  let shut := (s.isl svyIsl).state == .shut
  let s1 := s.onEph fun h => { h with
    dark := mapIf (fun e => e.oid == d.oid && e.plate == d.plate) (fun e => { e with healing := true }) h.dark }
  s1.onSvy fun v => { v with heals := v.heals ++ [{
    oid := d.oid, plate := d.plate, slice := d.slice, obj := d.obj, index := d.index, st := if shut then .failed else .running }] }

/-- HEAL_START (R456, R457, R459): a running heal takes its next step, or the Survey starts the heal of the next dark plate, up to 16
at a time. -/
def execHealStart (s : State) : Outcome :=
  let shut := (s.isl svyIsl).state == .shut
  let n := (s.svy.heals.filter fun h => h.st == .running || h.st == .storing).length
  guarded ((s.isl svyIsl).live && s.ephLive && (shut || s.running svyIsl)) s
    (match s.svy.heals.findSome? s.healStep with
    | some t => t
    | none => match s.nextDark with
      | some d => if shut || (n < 16 && s.begins svyIsl) then s.beginHeal d else s
      | none => s)

/-! HEAL_END (R458). -/

/-- The stored form with which a plate that cannot be healed is rewritten: none for a raw or byte plate, whose record as poisoned the
Ephemeris keeps. -/
def State.poisonForm (s : State) (h : Heal) (o : ObjRec) : Option PWrite :=
  let k := h.plate
  match o.code with
  | 1 =>
    let d := h.own
    let slot := match d with | some d => d.slot | none => 0
    let f := frcEncodePlate (tableOf ((s.slice h.slice).slots[(Fin.ofNat 64 slot : Fin 64)]).image) slot
      (match d with | some d => d.gen | none => 0) o.rate o.fmt (match d with | some d => d.masterOid | none => 0) k true
      (List.replicate 16384 0)
    some { obj := o, plate := k, body := f.body, header := f.header, poisoned := true }
  | 2 =>
    some {
      obj := o, plate := k, poisoned := true, scale := List.replicate (if hasScale o.format then 512 else 0) 0
      body := poisonedZeros o.oid k o.format }
  | _ => none

/-- The plate as it is delivered to readers of its stored form, poisoned. -/
def State.poisonWords (s : State) (h : Heal) (o : ObjRec) : PlateWords :=
  match s.poisonForm h o with
  | some w => { body := w.header ++ w.body, scale := w.scale, poison := true }
  | none => {
      body := List.replicate (512 * bodyLines o) 0, scale := List.replicate (if o.code = 0 && hasScale o.format then 512 else 0) 0
      poison := true }

/-- Whether a write or a commit of a span stands at its home slice. -/
def State.spanWrites (s : State) (p : SliceNo) (oid : BitVec 40) (span : Nat) : Bool :=
  (s.slice p).home.inq.any (fun w => w.obj.oid == oid && spanOf w.plate.toNat == span) ||
    (s.slice p).store.commits.any fun m => m.obj.oid == oid && m.span == span

/-- A plate that could not be healed is rewritten (R458), in Progress mode. A span whose index could not be rebuilt takes a new frame,
in which the commit that waits for it, or else the poison write of this plate, stores every other plate as poisoned (R270). -/
def State.rewritePoison (s : State) (h : Heal) (o : ObjRec) : State :=
  let span := spanOf h.plate.toNat
  let known := s.eph.badIndex.contains (h.oid, span)
  let s1 := if h.index && !known then
      s.onEph fun e => { e with badIndex := e.badIndex ++ [(h.oid, span)] } else s
  if h.index && (known || s.spanWrites h.slice h.oid span) then s1
  else match s.poisonForm h o with
  | some w => let r := s1.homeWrite h.slice w; if r.1 then r.2 else s1.receiveWrite h.slice w
  | none => s1.onEph fun e =>
      { e with poisoned := if e.isPoisoned h.oid h.plate.toNat then e.poisoned else e.poisoned ++ [(h.oid, h.plate.toNat)] }

/-- A plate that slice p's Eyepiece has waited for is asked for again. -/
def State.askAgain (s : State) (p : SliceNo) (id : Nat) : State :=
  (s.onSlice p fun x => { x with eye := x.eye.askAgain id }).eyeAsk p

/-- A parked request is released (R458, R468). A raw or byte plate that could not be healed is read again at its home, which now has it
recorded as poisoned, so that it is delivered with the values of R537. -/
def State.healRelease (s : State) (h : Heal) (who : Parked) : State :=
  let ok := h.st == .healed
  match who with
  | .fabric r =>
    let rsp (st : BitVec 4) (w : HomeWord) : State :=
      s.post (unitPs h.slice) ptRdRsp (fabWords ptRdRsp r.block s.block
        (transWord r.tid r.unit (unitPs h.slice) st 0) [word2 h.oid h.plate, homeWord w])
    if s.isHalted (domainOf h.oid) then rsp fsHalted noHome
    else if ok then match s.eph.serves h.oid (spanOf h.plate.toNat) with
      | .notHome => rsp fsNotHome (s.newHome h.oid (spanOf h.plate.toNat))
      | .at _ _ e => s.readHome e.obj h.plate (.fabric r)
      | .unwritten _ o => s.readHome o h.plate (.fabric r)
    else match h.obj with
      | some o =>
        if o.code != 1 && o.code != 2 && (s.eph.serves h.oid (spanOf h.plate.toNat)).slice?.isSome then s.readHome o h.plate (.fabric r)
        else s.postData r.block (unitPs h.slice) ptRdRsp
          (transWord r.tid r.unit (unitPs h.slice) fsOk 0) [word2 h.oid h.plate] (s.poisonWords h o)
      | none => rsp fsUnreachable noHome
  | .eye p id =>
    match (s.slice p).eye.wantOf id with
    | none => s
    | some (t, w) =>
      if s.isHalted (domainOf h.oid) then
        (match w.use with
        | .heal o k => (s.healStored o k false).onSlice p fun x => { x with eye := x.eye.wantDone id }
        | _ => s.failRun (some t.run) stHalted)
      else if ok then (s.onRun t.run fun r => { r with approx := true }).askAgain p id
      else
        let d := s.poisonWords h w.obj
        let a : Arrived := {
          id := id, body := if w.obj.code = 1 then d.body.drop 64 else d.body
          header := if w.obj.code = 1 then d.body.take 64 else [], scale := d.scale, marked := true
          lines := if w.obj.code = 2 then d.body.length / 512 else 0 }
        match w.use with
        | .copy _ | .lines _ => s.onSlice p fun x => { x with eye := { x.eye with arrived := x.eye.arrived ++ [a] } }
        | _ =>
          if w.obj.code != 1 && w.obj.code != 2 && (s.eph.serves h.oid (spanOf h.plate.toNat)).slice?.isSome then s.askAgain p id
          else s.eyeDeliver p t.run w (voidPlate w w.obj.format)
            (match w.obj.code, h.own with | 1, some d => d.masterOid | 0, _ => w.obj.oid | _, _ => 0)

/-- HEAL_END (R458, R468): a heal has ended; the plate is rewritten where it could not be healed, or its domain halts; the dark entry
goes, and the parked requests are released in the order in which they were parked. -/
def execHealEnd (oid : BitVec 40) (plate : BitVec 24) (s : State) : Outcome :=
  match s.svy.heals.find? fun h => h.oid == oid && h.plate == plate && (h.st == .healed || h.st == .failed) with
  | none => .next s
  | some h =>
    guarded ((s.isl svyIsl).live && s.ephLive) s
      (let ok := h.st == .healed
      let parks := s.eph.park.filter fun q => q.oid == oid && q.plate == plate
      let s1 := (s.onEph fun e => { e with
        park := e.park.filter fun q => !(q.oid == oid && q.plate == plate)
        dark := e.dark.filter fun d => !(d.oid == oid && d.plate == plate) }).onSvy fun v =>
          { v with heals := v.heals.filter fun g => !(g.oid == oid && g.plate == plate) }
      let s2 := if ok then s1
        else if s.consistent then s1.haltDomain (domainOf oid) false
        else match h.obj with | some o => s1.rewritePoison h o | none => s1
      let s3 := parks.foldl (fun (t : State) q => t.healRelease h q.who) s2
      ((s3.emit svyIsl {
        code := 0x0005, sev := if ok then sevInfo else sevLasting, oid := oid, plate := plate
        arg := packW [flag ok 63, put parks.length 0] }).bump svyIsl svyReleased parks.length).bump svyIsl
          (if ok then svyHealed else svyHealFail))

/-! Scrubs and the patrol (R460). -/

/-- The frames on a home's device: object, span, base line, extents, in the lines of the home (R417). -/
def EphS.frames (h : EphS) (p : SliceNo) : List (ObjRec × Nat × Nat × Nat) :=
  h.dir.flatMap fun e => if e.incoming || e.noFrame then [] else match e.kind with
    | .run sl s0 count base => if sl = p then (List.range count).map fun i =>
        (e.obj, s0 + i * max 1 e.icount, 16 * (base + i * e.extents), e.extents) else []
    | .span sl t base => if sl = p then [(e.obj, t, 16 * base, e.extents)] else []
    | _ => []

/-- What line `off` of a frame holds, with the plates it belongs to; none where nothing has been written there, or where it lies in a
packed region whose index is not held. -/
def State.frameLine (s : State) (p : SliceNo) (o : ObjRec) (span off : Nat) : Option LineId :=
  let n := spanPlates o span
  let first := 64 * span
  let written (ks : List Nat) : Bool := ks.any fun k => s.eph.isWritten o.oid k
  let at_ (sg : Segment) : Nat := segStart o n sg
  let shared (sg : Segment) (k : Nat) : Option LineId :=
    if written (sharedPlates sg k) then some (lineId o k sg 0) else none
  if off < headerLines o n then shared .header (first + 8 * off)
  else if off < at_ .scale then shared .almanac (first + 16 * (off - at_ .almanac))
  else if off < at_ .body then
    let k := first + (off - at_ .scale)
    if written [k] then some (lineId o k .scale 0) else none
  else if o.code = 2 then
    if off < at_ .packed then some (lineId o first .index (off - at_ .index))
    else match (s.slice p).home.index o.oid span with
      | none => none
      | some ix => (ix.2.find? fun e => e.offset ≤ off - at_ .packed && off - at_ .packed < e.offset + e.lines).map fun e =>
          lineId o (e.row * o.pcols + e.col) .packed (off - at_ .packed - e.offset)
  else
    let k := first + (off - at_ .body) / bodyLines o
    if off < at_ .body + n * bodyLines o && written [k] then some (lineId o k .body ((off - at_ .body) % bodyLines o)) else none

/-- The line of a home's device that a line of a port is (R291). -/
def State.homeLine (s : State) (q : SliceNo) (a : Nat) : Nat := if s.isJoint q then 2 * a + q.val % 2 else a

/-- What line a of port q holds, for a scrub: nothing where it lies in a free extent. -/
def State.scrubLine (s : State) (q : SliceNo) (a : Nat) : Option LineId :=
  let p := s.homeSlice q
  let l := s.homeLine q a
  match (s.eph.frames p).find? fun f => f.2.2.1 ≤ l && l < f.2.2.1 + 16 * f.2.2.2 with
  | some f => s.frameLine p f.1 f.2.1 (l - f.2.2.1)
  | none => none

/-- Reads one line of port q for a scrub or the patrol, if it holds anything under a loaded key slot (R180). -/
def State.scrubRead (s : State) (q : SliceNo) (a : Nat) (run : Option Nat) : Option State :=
  ((s.scrubLine q a).filter fun id => s.keyLoaded (s.homeSlice q) id.key).map fun id =>
    (s.memReq (s.homeSlice q) { wr := false, addr := BitVec.ofNat 32 (s.homeLine q a), why := .scrub run, id := id }).bump svyIsl svyScrubLines

/-- Whether line a of port q lies in the packed region of a frame whose index is not held; then the state in which that index is being
read, unless it is known to fail (R251). -/
def State.scrubIndex (s : State) (q : SliceNo) (a : Nat) : Option State :=
  let p := s.homeSlice q
  let l := s.homeLine q a
  match (s.eph.frames p).find? fun f => f.2.2.1 ≤ l && l < f.2.2.1 + 16 * f.2.2.2 with
  | some (o, span, base, _) =>
    let same (k : BitVec 24) : Bool := spanOf k.toNat == span
    if o.code != 2 || l - base < segStart o (spanPlates o span) .packed || ((s.slice p).home.index o.oid span).isSome ||
      !s.keyLoaded p o.key || s.eph.badIndex.contains (o.oid, span) ||
      s.eph.dark.any (fun d => d.oid == o.oid && d.index && same d.plate) then none
    else if (s.slice p).home.reads.any fun j => j.dest == .index && j.obj.oid == o.oid && same j.plate then some s
    else
      let i := s.newId
      some (i.2.beginJob p { id := i.1, obj := o, plate := BitVec.ofNat 24 (64 * span), dest := .index, base := base })
  | none => none

/-- Walks lines of port q from a, looking at up to `fuel` of them and reading up to n: the state, the next line, the lines read. -/
def State.scrubWalk (q : SliceNo) (run : Option Nat) (stop : Nat) : Nat → Nat → Nat → State → Nat → State × Nat × Nat
  | 0, a, _, s, r => (s, a, r)
  | fuel + 1, a, n, s, r =>
    if n = 0 || stop ≤ a then (s, a, r)
    else match s.scrubIndex q a with
    | some t => (t, a, r)
    | none => match s.scrubRead q a run with
      | some t => State.scrubWalk q run stop fuel (a + 1) (n - 1) t (r + 1)
      | none => State.scrubWalk q run stop fuel (a + 1) n s r

/-- A scrub reads its next lines; one with no line left to read or to come is done. -/
def State.scrubJob (s : State) (j : ScrubJob) : State × Option ScrubJob :=
  match j.lines with
  | [] => (s, if j.left = 0 || j.run.isNone then none else some j)
  | (q, a, c) :: rest =>
    let w := State.scrubWalk q j.run (a + c) 256 a 16 s 0
    let next := if a + c ≤ w.2.1 then rest else (q, w.2.1, a + c - w.2.1) :: rest
    (w.1, some { j with lines := next, left := j.left + w.2.2 })

/-- All scrubs go on. -/
def State.scrubAll (s : State) : State :=
  let r := s.svy.scrubs.foldl (fun (a : State × List ScrubJob) j =>
    let b := a.1.scrubJob j
    (b.1, a.2 ++ b.2.toList)) (s, [])
  r.1.onSvy fun v => { v with scrubs := r.2 }

/-- The patrol's burst on the device of port q: LINES lines from its position on, which goes round (R460). -/
def State.patrolSlice (s : State) (q : SliceNo) : State :=
  let stop := s.dataEnd q
  if stop = 0 then s
  else
    let w := State.scrubWalk q none stop (256 + s.svy.patrolLines.toNat) (s.svy.patrolPos[q]) s.svy.patrolLines.toNat s 0
    w.1.onSvy fun v => { v with patrolPos := v.patrolPos.set q (if stop ≤ w.2.1 then 0 else w.2.1) }

/-- PATROL_BURST (R460, R481): scrubs read on; every INTERVAL SVY cycles the patrol, where it is enabled, reads LINES lines of each
present device. -/
def execPatrolBurst (s : State) : Outcome :=
  let due := s.svy.patrolEn && s.begins svyIsl && decide (max 1 s.svy.patrolInterval.toNat ≤ elapsed (s.now svyIsl) s.svy.patrolAt)
  guarded (s.running svyIsl && s.ephLive) s
    (let s1 := s.scrubAll
    if due then (List.finRange 32).foldl State.patrolSlice (s1.onSvy fun v => { v with patrolAt := s.now svyIsl }) else s1)

/-! The audit (R461). -/

/-- AUDIT_COMPARE (R461): every 256 SVY cycles the next entry of the directory is compared with MIR's copy; one that differs, or reads
as different, is an event of AUDIT, and is sent to MIR again. -/
def execAuditCompare (differs : Bool) (s : State) : Outcome :=
  match s.eph.dir[s.svy.auditPos % max 1 s.eph.dir.length]? with
  | none => .next s
  | some e =>
    guarded (s.begins svyIsl && s.ephLive && s.awake mirIsl && decide (256 ≤ elapsed (s.now svyIsl) s.svy.auditAt)) s
      (let i := s.inject svyIsl 0x0403 0
      let bad := differs || i.1 || !s.eph.mirDir.contains e
      let s1 := (i.2.bump svyIsl svyAudited).onSvy fun v => { v with
        auditPos := (v.auditPos + 1) % max 1 s.eph.dir.length, auditAt := s.now svyIsl }
      if bad then
        (s1.onEph fun h => { h with mirDir := (h.mirDir.filter fun d => !d.sameKey e) ++ [e] }).event svyIsl
          { code := 0x0403, inst := 0, oid := e.obj.oid, injected := i.1 }
      else s1)

end Sys2Proof.Machine
end

