-- ==== Sys2Proof/Machine/RegMap.lean ====
section
/-! DEFINITION. What every register reads as (R12, R21, R42, R76-R82, R447, R481, R499, R512, R520-R527): the map of the register
window, island by island. -/

namespace Sys2Proof.Machine

/-! Helpers. -/

/-- How many bits of a vector are set. -/
def onesOf {n : Nat} (v : BitVec n) : Nat := ((List.range n).filter fun i => v.getLsbD i).length

/-- Word w of a record of eight words; zero where there is none. -/
def recWord (l : List W64) (w : Nat) : W64 := l.getD w 0

/-- The extents of a list of free runs. -/
def freeExtents (l : List FreeRun) : Nat := (l.map (·.count)).sum

/-- Free extents of the device of slice p: of a joint device PS2k reports all, and PS2k+1 none (R165, R291). -/
def State.freeOfPort (s : State) (p : SliceNo) : Nat := if s.homeSlice p = p then freeExtents s.eph.free[p] else 0

/-- The number of a state in CMD_Q_STAT. -/
def State.queueState (s : State) (q : Fin 64) : Nat :=
  let c := s.cq q
  if !c.en then 0
  else if c.halted != 0 then 6
  else if c.host && !c.armed then 7
  else if c.wait.isSome then 3
  else if c.stale.isSome then 5
  else if s.cmd.held.any fun h => h.cq == s.cqFor q then 8
  else match c.accepted with
    | e :: _ => if e.opcode = opFence && !s.cmd.inOrder q e then 4 else 2
    | [] => if c.fetch.isSome || c.head != c.tail || s.cmd.flying q != 0 then 2 else 1

/-! Registers of every island. -/

/-- ISLAND_STAT (R21). -/
def Island.stat (i : Island) (k : IslandNo) : W64 :=
  packW [put i.resets.toNat 48, put k.val 32, put i.state.code 4, flag i.clkSeen 3]

/-- DET_STAT of the selected instance (R448, R481). -/
def State.detStat (s : State) (k : IslandNo) : W64 :=
  let i := s.isl k
  if !s.hasDet k i.detSelCode i.detSelInst then 0
  else
    let wt := detWT (s.conf k) i.detSelCode.toNat
    let d := (i.det i.detSelCode i.detSelInst).roll wt.1 i.cycle
    packW [flag true 63, flag d.lasting 62, put wt.1 48, put wt.2 40, put d.count.toNat 32, put d.total.toNat 0]

/-- The registers that every island region holds. -/
def State.commonReg (s : State) (k : IslandNo) (off : Nat) : Option W64 :=
  let i := s.isl k
  match off with
  | 0x00 => some (i.stat k)
  | 0x08 => some (put i.cycleShown.toNat 0)
  | 0x10 => some (packW [put i.detSelCode.toNat 16, put i.detSelInst.toNat 0])
  | 0x18 => some (s.detStat k)
  | 0x28 => some (packW [put i.dropped.toNat 32, put i.seq.toNat 0])
  | 0x30 => some (flag i.freeze 0)
  | _ => none

/-! Port slices. -/

/-- PS_MP_STAT. -/
def Mp.stat (m : Mp) : W64 :=
  packW [flag m.up 63, flag m.bridged 62, flag m.downForced 61, flag m.notReady 60, flag m.timeoutSeen 57, flag m.lateSeen 56,
    flag m.unexpSeen 55, put m.tags.length 32]

/-- PS_XP_STAT: a plate to send, and no beat of it since an earlier cycle. -/
def Slice.xpStat (sl : Slice) (now : Ctr) : W64 :=
  let x := sl.xp
  packW [flag (!x.tx.isEmpty && decide (0 < elapsed now x.txAt)) 63, flag (decide (256 ≤ (sl.importBuf now).length)) 62, flag x.txAbandonSeen 57, flag x.rxDiscardSeen 56,
    put x.streams.length 48]

/-- PS_GUARD_STAT (R181). -/
def State.guardStat (s : State) (p : SliceNo) : W64 :=
  let m := (s.slice p).mp
  packW [flag m.pinFullSeen 63, put (m.cache.filter (·.pinned)).length 48, put (m.cache.filter (·.dirty)).length 32,
    put (s.freeOfPort p) 0]

/-- PS_EYE_STAT (R240): a plate is unpacked in one step, so no unpack unit holds one between steps (log entry 126); a stream that takes no
context waits for none. -/
def Slice.eyeStat (x : Slice) : W64 :=
  let e := x.eye
  let inCtx (t : EStream) : Bool := e.ctxs.toList.contains (some t.id) || t.stored
  packW [put (e.ctxs.toList.filter (·.isSome)).length 59, put (e.lanes.toList.filter (·.isSome)).length 51,
    put (16 - x.staging) 42, put (onesOf e.masked) 34, put (sat 16 (e.streams.filter fun t => !inCtx t).length) 16,
    put e.tcache.length 0]

/-- PS_SLOT_STAT of the selected slot (R240). -/
def Slice.slotStat (x : Slice) : W64 :=
  let n : Fin 64 := Fin.ofNat 64 x.slotSel.toNat
  let c := x.slots[n]
  packW [put c.st.code 62, flag c.draining 61, flag (x.eye.tcache.contains n) 60, put c.gen.toNat 48, put (sat 32 c.inUse) 0]

/-- PS_ST_STAT (R272). -/
def Slice.storeStat (x : Slice) : W64 :=
  let open_ := x.store.commits.filter fun m => m.st != .ended
  packW [put (min 16 x.store.queue.length) 59, put (open_.filter fun m => m.st == .held).length 57, put open_.length 50,
    put x.home.icache.length 41, flag (open_.any Commit.claims) 40]

/-- Activation blocks held (R281). -/
def Dpe.blocksHeld (d : Dpe) : Nat :=
  if d.streamed then 0 else (if d.blkP != 0 && d.asked && !d.phase2 then 1 else 0) + (if d.ahead then 1 else 0)

/-- PS_DPE_STAT (R296): of a logical slice both slices hold copies of its blocks (R293). -/
def State.dpeStat (s : State) (p : SliceNo) : W64 :=
  let m := (s.slice p).dpe.masked
  let d := (s.slice (s.engineOf p)).dpe
  packW [put (32 - onesOf m) 58, put (onesOf m) 52, put d.blkP 49, flag (d.job.isSome && d.streamed) 48,
    put d.blocksHeld 46, put d.actPages 38, put (s.accPages p) 32, put d.stall 28]

/-- PS_PAIR_STAT (R296). -/
def State.pairStat (s : State) (p : SliceNo) : W64 :=
  let q := (s.slice p).pair
  packW [flag (match s.conf (psIsl p) with | some c => c.capable (p.val / 2) | none => false) 63, flag (s.isJoint p) 62,
    flag q.joined 61, flag q.lead 60, flag q.serving 59, flag q.portEnd 58, flag q.joinWait 57]

/-- The merge lanes of slice p in the engine that runs them: the engine's slice, and the number of the first lane. -/
def State.laneBase (s : State) (p : SliceNo) : SliceNo × Nat :=
  let e := s.engineOf p
  (e, if s.logical e then p.val % 2 * 16 else 0)

/-- PS_SME_STAT (R324). -/
def State.smeStat (s : State) (p : SliceNo) : W64 :=
  let b := s.laneBase p
  let m := (s.slice b.1).sme
  let mine (l : Nat) : Bool := decide (b.2 ≤ l) && decide (l < b.2 + 16)
  let queued := (((List.range 16).map fun i => (m.queues[Fin.ofNat 32 (b.2 + i)]).length).sum)
  packW [put (m.work.filter fun w => mine w.lane).length 59, put (onesOf (s.slice p).sme.masked) 54, put m.group.length 46,
    flag (m.draining || m.group.any (·.drained)) 39, flag m.round 38, put (sat 16 queued) 16]

/-- PS_HACC_STAT (R324): in a logical slice, the sets that the slice holds. -/
def State.haccStat (s : State) (p : SliceNo) : W64 :=
  let e := s.engineOf p
  let m := (s.slice e).sme
  let here (h : HEnt) : Bool := !s.logical e || h.k % 16 / 8 == p.val % 2
  packW [put (m.hacc.filter here).length 50, put (m.spill.filter here).length 45, flag (s.slice p).sme.exhaustSeen 44,
    put (sat 32 (m.strip.filter here).length) 0]

/-- The registers of a port slice that are no counters. -/
def State.psReg (s : State) (p : SliceNo) (off : Nat) : W64 :=
  let x := s.slice p
  let pres := match s.conf (psIsl p) with | some c => c.present p.val | none => false
  let lines := match s.conf (psIsl p) with | some c => c.lines p.val | none => 0
  match off with
  | 0x20 => packW [flag x.dataShut 63, flag x.devShut 62, flag x.lostSpans 61]
  | 0x200 => packW [flag pres 63, put lines 0]
  | 0x208 => x.mp.stat
  | 0x280 => x.xpStat (s.now (psIsl p))
  | 0x300 => if pres then packW [put (dataLines lines) 32, put (guardLines lines) 0] else 0
  | 0x308 => s.guardStat p
  | 0x500 => x.eyeStat
  | 0x508 => bits 64 (x.eye.masked.setWidth 64) 0
  | 0x510 => BitVec.ofNat 64 (x.eye.masked.toNat / 2 ^ 64)
  | 0x600 => put x.slotSel.toNat 0
  | 0x608 => x.slotStat
  | 0x700 => x.storeStat
  | 0x800 => s.dpeStat p
  | 0x808 => put x.dpe.masked.toNat 0
  | 0x810 => s.pairStat p
  | 0x900 => packW [put x.biasGroup.toNat 32, put x.biasMargin.toNat 16, put x.bias.toNat 0]
  | 0x908 => s.smeStat p
  | 0x910 => s.haccStat p
  | _ => 0

/-! Link groups and quadrants. -/

/-- The lanes that satisfy a test, as a vector. -/
def LinkGrp.laneBits (q : LinkGrp) (f : Lane → Bool) : Nat :=
  ((List.finRange 12).map fun i => if f q.lanes[i] then 2 ^ i.val else 0).sum

/-- The registers of a link group that are no counters (R403, R412). Credits are held from the first hello, which is fresh, on (R395). -/
def State.lgReg (s : State) (g : GroupNo) (off : Nat) : W64 :=
  let q := s.group g
  match off with
  | 0x40 => packW [put (if (s.isl (lgIsl g)).state = .shut then 4 else q.st.code) 60, put q.n 56, put q.set.toNat 44,
      put q.cause.toNat 40, put q.peerBlock.toNat 28, put q.peerGroup.toNat 24, put q.peerResets.toNat 8, flag q.freshSeen 7,
      flag q.degradedSeen 6, flag q.mismatchSeen 5]
  | 0x48 => packW [put (q.laneBits (·.rxLock)) 52, put (q.laneBits fun l => l.rxLock && l.marks == 3 && !l.late) 40,
      put (q.laneBits (·.fenced)) 28, put q.peerGood.toNat 16, put q.maxSkew 10]
  | 0x50 => packW [put q.txNext 57, put q.acked 50, put q.rxNext 43, put q.replay.length 36, flag (!q.replaying.isEmpty) 35]
  | 0x58 => packW ((List.finRange 8).map fun v => put (if q.peerSeen.isSome then (q.chans[v]).credits else 0) (8 * v.val))
  | _ => 0

/-- Whether packets for a destination now leave by the alternate group (R431). -/
def State.usingAlt (s : State) (x : QuadNo) (b : BitVec 12) : Bool :=
  let e := s.routeOf x b
  !rtLocal e && match s.firstHop e with | some h => h.2.2 | none => false

/-- The registers of a quadrant that are no counters (R42, R447). -/
def State.xqReg (s : State) (x : QuadNo) (off : Nat) : W64 :=
  let d := s.quad x
  match off with
  | 0x80 => packW [put d.retired.length 40, put d.free 16, put (d.queues.filter fun e => e.2.wedged).length 0]
  | 0x100 => put d.qsel.toNat 0
  | 0x108 =>
    let q := d.qsel.toNat
    if queueExists x q then qstatWord (s.queueFull x q (s.nextOpen x q)) (d.queue q) else 0
  | 0x200 => put d.routeSel.toNat 0
  | 0x208 => packW [flag (s.usingAlt x d.routeSel) 32, put (s.routeOf x d.routeSel).toNat 0]
  | _ => 0

/-! Service islands. -/

/-- The registers of CFG. -/
def State.cfgReg (s : State) (off : Nat) : W64 :=
  let c := s.cfg
  match off with
  | 0x40 => packW [flag c.store.isSome 63, flag c.recv.isSome 62, flag c.resync 61, put c.lastErr.toNat 48, put c.rejects.toNat 32,
      put (match c.store with | some f => f.streamId.toNat | none => 0) 0]
  | 0x48 => packW [put c.errType.toNat 48, put c.errInst.toNat 32, put c.errOffset.toNat 0]
  | 0x50 => packW [put c.liveApplied.toNat 48, put c.liveId.toNat 0]
  | 0x60 => put c.quiesce.toNat 0
  | 0x68 => packW ((List.finRange 60).map fun k => flag ((s.isl k).live && (s.isl k).state == .quiesced) k.val)
  | _ => 0

/-- CMD_Q_STAT of a queue. -/
def State.queueStat (s : State) (q : Fin 64) : W64 :=
  let c := s.cq q
  packW [put (c.head.toNat % 65536) 48, put (c.tail.toNat % 65536) 32, put c.epoch.toNat 24, put (s.queueState q) 20,
    put c.halted.toNat 16, put (s.cmd.flying q) 8, put (match c.stale with | some k => k.1 | none => 0) 4, flag (c.head.getLsbD 16) 3]

/-- CMD_CQ_STAT of a completion queue. -/
def State.cqStat (s : State) (n : Nat) : W64 :=
  let c := (s.quad 0).queue (0x2100 + n)
  let en := match s.conf cmdIsl with | some f => f.cqEn n | none => false
  packW [flag en 63, flag c.wedged 62, flag c.underrun 61, flag c.paritySeen 60, put c.readPos 58,
    put (c.visibleCount - if c.readPos = 0 then 0 else 1) 0]

/-- The registers of CMD that are no counters. -/
def State.cmdReg (s : State) (off : Nat) : W64 :=
  let c := s.cmd
  if off = 0x80 then packW [flag c.pathUp 63, flag c.pathDownSeen 62, flag c.timeoutSeen 61, flag c.lateSeen 60,
      put (c.nwTags.filter fun t => !t.timedOut).length 32, put c.pathFalls.toNat 16]
  else if 0x1000 ≤ off && off < 0x1200 then
    let w := c.wins[Fin.ofNat 16 ((off - 0x1000) / 0x20)]
    match off % 0x20 with
    | 0x00 => packW [put w.base.toNat 12, flag w.en 0]
    | 0x08 => put w.limit.toNat 12
    | 0x10 => put w.dest.toNat 0
    | _ => 0
  else if 0x2000 ≤ off && off < 0x2200 then
    if off % 0x20 = 8 then s.cqStat ((off - 0x2000) / 0x20) else 0
  else if 0x4000 ≤ off && off < 0x5000 then
    let q : Fin 64 := Fin.ofNat 64 ((off - 0x4000) / 0x40)
    match off % 0x40 with
    | 0x00 => (s.cq q).cfgWord
    | 0x08 => put (s.cq q).ring.toNat 12
    | 0x10 => put (s.cq q).hcq.toNat 12
    | 0x18 => s.queueStat q
    | _ => 0
  else if 0x6000 ≤ off && off < 0x6800 then put (c.sig[Fin.ofNat 256 ((off - 0x6000) / 8)]).toNat 0
  else if 0x20000 ≤ off then c.entryWord ((off - 0x20000) / 8)
  else 0

/-- EPH_MGR of domain d (R414): of the block's own domain, as the DOMAIN record gives it. -/
def State.mgrReg (s : State) (d : Nat) : W64 :=
  let e := s.mgrEntry d
  let own := match s.conf ephIsl with | some c => c.domain.toNat == d | none => false
  packW [flag e.valid 63, flag own 62, put e.manager.toNat 48, put e.mirror.toNat 32]

/-- FREE_EXTENTS of EPH_NEAR_STAT: the sum, where its 32 bits hold it; else a value the manual does not give (log entry 124). -/
def shownFree (n : Nat) : Nat := if n < 2 ^ 32 then n else (Config.freeExtentsOver n).toNat

/-- The registers of EPH that are no counters. -/
def State.ephReg (s : State) (off : Nat) : W64 :=
  let h := s.eph
  match off with
  | 0x40 => packW [put (s.roleAt ephIsl) 62, put (match s.conf ephIsl with | some c => c.domain.toNat | none => 0) 58,
      put h.dirFree 39, put (shownFree (h.free.toList.map freeExtents).sum) 0]
  | 0x48 => packW [put (65536 - h.map.size) 47, put h.moves.length 38, put (sat 16 h.movesWait.length) 22]
  | 0x50 => packW [put h.dark.length 51, put (min 4096 h.park.length) 38, flag (decide (4096 ≤ h.park.length)) 37]
  | 0x180 => packW [put h.unmirrored.toNat 16, put h.acting.toNat 0]
  | 0x188 => put h.halted.toNat 0
  | _ => if decide (0x100 ≤ off) && decide (off < 0x180) then s.mgrReg ((off - 0x100) / 8) else 0

/-- The registers of LOG that are no counters (R490-R492, R499). -/
def State.logReg (s : State) (off : Nat) : W64 :=
  let l := s.log
  let q := (s.quad 0).queue 0x2110
  let c := l.code l.codeSel.toNat
  match off with
  | 0x48 => packW [flag q.wedged 63, flag q.underrun 62, flag q.paritySeen 61, put q.readPos 58,
      put (q.visibleCount - if q.readPos = 0 then 0 else 1) 45, flag l.staged.isSome 44]
  | 0x50 => packW [flag l.fatalSeen 63, flag l.lastingSeen 62, flag l.transientSeen 61, flag l.lostSeen 60, put l.islands.toNat 0]
  | 0x58 => put l.codeSel.toNat 0
  | 0x60 => packW [flag c.seen 63, flag c.lastingSeen 62, flag c.injectedSeen 61, put c.reports.toNat 0]
  | _ =>
    if decide (0x100 ≤ off) && decide (off < 0x140) then (if c.seen then recWord c.first ((off - 0x100) / 8) else 0)
    else if decide (0x140 ≤ off) && decide (off < 0x180) then (if c.seen then recWord c.last ((off - 0x140) / 8) else 0)
    else if decide (0x200 ≤ off) && decide (off < 0x380) then
      recWord (l.fatal.toList.getD ((off - 0x200) / 0x40) []) ((off - 0x200) % 0x40 / 8)
    else 0

/-- The phase of SPG in SPG_STAT: a histogram set that has closed waits to be added, or an image is being installed. -/
def State.spgPhase (s : State) : Nat := if s.installing then 5 else if s.spg.closed.isEmpty then 0 else 1

/-- The registers of SPG that are no counters. -/
def State.spgReg (s : State) (off : Nat) : W64 :=
  let n : Fin 64 := Fin.ofNat 64 s.spg.slotSel.toNat
  let x := s.slot n
  let slots (f : SpgSlot → Bool) : W64 := packW ((List.finRange 64).map fun i => flag (f (s.slot i)) i.val)
  let waiting := if s.installing then s.spg.closed.length else s.spg.closed.length - 1
  match off with
  | 0x40 => packW [flag (s.spgPhase != 0) 63, put s.spgPhase 60, put s.spg.buildSlot.val 54, put s.spg.iter 40,
      put (sat 8 waiting) 32, put s.spg.lastCycles.toNat 0]
  | 0x100 => put s.spg.slotSel.toNat 0
  | 0x108 => packW [put x.st.code 62, flag x.draining 61, flag (s.slotReserved n) 60, put x.gen.toNat 48,
      put (sat 8 x.queue.length) 32,
      put (if x.st = .retiring || x.draining then ((List.finRange 32).filter fun p => !s.drained p n).length else 0) 0]
  | 0x110 => slots fun y => y.st == .live
  | 0x118 => slots fun y => y.st == .free
  | _ =>
    if decide (0x1000 ≤ off) && decide (off < 0x1800) && x.st != .free && x.st != .loading then
      leWord ((x.image.drop (off - 0x1000)).take 8)
    else 0

/-- The registers of SVY that are no counters. -/
def State.svyReg (s : State) (off : Nat) : W64 :=
  match off with
  | 0x40 => packW [put (s.svy.heals.filter fun h => h.st == .running || h.st == .storing).length 59,
      put (s.eph.dark.filter fun d => !d.healing).length 46, flag (s.svy.patrolEn && s.running svyIsl) 45]
  | 0x48 => packW [flag s.svy.patrolEn 63, put s.svy.patrolLines.toNat 16, put s.svy.patrolInterval.toNat 0]
  | _ => 0

/-- Injections of the arming in force that are not yet applied. -/
def State.injLeft (s : State) : Nat :=
  match s.inj.armedAt with
  | some k => (match (s.isl k).armed with | some a => a.remaining.toNat | none => 0)
  | none => 0

/-- The registers of INJ that are no counters. -/
def State.injReg (s : State) (off : Nat) : W64 :=
  match off with
  | 0x40 => s.inj.target
  | 0x50 => packW [flag s.inj.armedAt.isSome 63, flag s.inj.refusedSeen 62, flag s.inj.cancelSeen 61, put s.injLeft 32]
  | _ => 0

/-! The window. -/

/-- The counters of an island's region (R76). -/
def countersOf (k : IslandNo) : List Nat :=
  if k.val < 32 then psCounters
  else if k.val < 48 then lgCounters
  else if k.val < 52 then xqCounters
  else match k.val with
    | 53 => cmdCounters | 54 => ephCounters | 56 => logCounters | 57 => spgCounters | 58 => svyCounters | 59 => injCounters
    | _ => []

/-- The registers of an island's own class that are no counters. -/
def State.ownReg (s : State) (k : IslandNo) (off : Nat) : W64 :=
  if k.val < 32 then s.psReg (sliceOf k) off
  else if k.val < 48 then s.lgReg (groupOf k) off
  else if k.val < 52 then s.xqReg (quadrantOf k) off
  else match k.val with
    | 52 => s.cfgReg off | 53 => s.cmdReg off | 54 => s.ephReg off | 56 => s.logReg off | 57 => s.spgReg off | 58 => s.svyReg off
    | 59 => s.injReg off | _ => 0

/-- What the register at an offset of an island's region reads as, the island being out of reset with its clock running (R520). -/
def State.islandReg (s : State) (k : IslandNo) (off : Nat) : W64 :=
  match s.commonReg k off with
  | some w => w
  | none => if (countersOf k).contains off then put ((s.isl k).shown off).toNat 0 else s.ownReg k off

/-- STEP of PRAUX_START: the highest step of R500 that has ended for every island out of reset. -/
def State.startStep (s : State) : Nat :=
  let up := (List.finRange 60).filter fun k => (s.isl k).live
  let c := s.cfg.store
  let cf := c.getD { streamId := 0, recs := [] }
  let ended : List Bool := [
    !s.por,
    c.isSome,
    up.all fun k => (s.isl k).conf.isSome || (s.isl k).state == .shut,
    up.all fun k => k == cfgIsl || (s.isl k).bist.isSome,
    (List.finRange 32).all fun p => !(s.isl (psIsl p)).live || !cf.present p.val || (s.slice p).mp.step5,
    (List.finRange 16).all fun g => !(s.isl (lgIsl g)).live || !cf.linkEnabled g.val || (s.group g).step6 || (s.isl (lgIsl g)).state == .shut,
    s.eph.step7,
    (s.isl cmdIsl).state == .run || (s.isl cmdIsl).state == .quiesced,
    s.cfg.ready]
  (ended.takeWhile id).length

/-- The block-wide registers (R512, R521-R523). -/
def State.blockReg (s : State) (off : Nat) : W64 :=
  let c := s.cfg
  let f := c.store
  let field (g : Conf → Nat) : Nat := match f with | some v => g v | none => 0
  match off with
  | 0x00 => 0x57A0F20102000000
  | 0x08 => packW [put (field fun v => v.blockId.toNat) 52, flag (field (fun v => v.archive.toNat) == 1) 48,
      put (field fun v => v.domain.toNat) 44, put (field fun v => v.role) 42, flag (field (fun v => v.consistent.toNat) == 1) 41,
      put c.haltedMap.toNat 16, flag s.log.attn 15, flag c.ready 14, flag c.lostSeen 13, flag (c.shutMap != 0) 12]
  | 0x40 => put c.liveMap.toNat 0
  | 0x48 => packW [flag s.log.attn 63, put s.log.cause.toNat 0]
  | 0x50 => packW [flag c.ready 63, put s.startStep 59, flag (c.bistFail != 0) 58, flag c.portFail 57, flag c.linkShort 56,
      flag c.mgrAbsent 55, flag c.keyMissing 54, put c.linksUp.toNat 32, put c.portsUp.toNat 0]
  | 0x58 => put c.bistFail.toNat 0
  | 0x60 => put c.shutMap.toNat 0
  | 0x1048 => packW [put (((List.finRange 16).map fun i => if (c.keys[i]).loaded then 2 ^ i.val else 0).sum) 32,
      put c.keyCommits.toNat 16, put c.keyDenials.toNat 0]
  | _ => 0

/-- The island whose region an address lies in, if it lies in one (R520). -/
def addrIsland (addr : BitVec 21) : Option IslandNo :=
  if h : regByte addr / 0x40000 < 60 then some ⟨regByte addr / 0x40000, h⟩ else none

/-- The offset of an address in its region of 256 KiB. -/
def addrOff (addr : BitVec 21) : Nat := regByte addr % 0x40000

/-- Whether an address lies in the block-wide page. -/
def inBlockPage (addr : BitVec 21) : Bool := regByte addr / 0x40000 == 60

/-- The islands of a broadcast window: every slice, link group or quadrant (R520). -/
def castClass (addr : BitVec 21) : List IslandNo :=
  match regByte addr / 0x40000 with
  | 61 => (List.finRange 60).filter fun k => k.val < 32
  | 62 => (List.finRange 60).filter fun k => 32 ≤ k.val && k.val < 48
  | 63 => (List.finRange 60).filter fun k => 48 ≤ k.val && k.val < 52
  | _ => []

/-- What a read of an address answers that has no side effect (R22, R78, R81, R501, R520, R524): the reads of CMD_CQ_READ and LOG_READ
are `CQ_READ` and `LOG_READ`. -/
def State.regRead (s : State) (addr : BitVec 21) : CpAns :=
  if inBlockPage addr then { code := ansOk, rdata := s.blockReg (addrOff addr) }
  else if s.cfg.selfTest = some false then { code := ansNoResponse, rdata := 0 }
  else match addrIsland addr with
    | none => { code := ansOk, rdata := 0 }
    | some k =>
      if (s.isl k).live then { code := ansOk, rdata := s.islandReg k (addrOff addr) } else { code := ansNoResponse, rdata := 0 }

end Sys2Proof.Machine
end

