-- ==== Sys2Proof/Machine/StreamRec.lean ====
section
/-! DEFINITION. What CFG checks in a structure stream (R114-R136): headers, each record as it arrives, and the
contradictions between records. -/

namespace Sys2Proof.Machine

/-- The causes of a rejection, by the codes of R141. -/
inductive SsErr where
  | magic | version | length | crc | truncated | recordFormat | unknownType | missing | range | conflict
  | notLive | notQuiesced | notConfig | mismatch
deriving DecidableEq, Repr, Inhabited

/-- The code of a cause. -/
def SsErr.code : SsErr → Nat
  | .magic => 1 | .version => 2 | .length => 3 | .crc => 4 | .truncated => 5 | .recordFormat => 6
  | .unknownType => 7 | .missing => 8 | .range => 9 | .conflict => 10 | .notLive => 11 | .notQuiesced => 12
  | .notConfig => 13 | .mismatch => 14

/-- The first cause of a list of checks: each a condition that must hold and the cause where it does not. -/
def firstErr : List (Bool × SsErr) → Option SsErr
  | [] => none
  | (ok, e) :: r => if ok then firstErr r else some e

/-- Header word i as it arrives (R114, R116, R137, R138, R146). A header field that is to be zero and is not is RECORD_FORMAT, as in a
record: the manual names no code (DESIGN CHOICE, log entry 123). -/
def hdrCheck (i : Nat) (w : W64) (live inConfig inRun : Bool) : Option SsErr :=
  match i with
  | 0 => firstErr [(fld w 63 32 == 0x50525853, .magic), (fld w 31 16 == 3, .version),
      (fld w 15 12 ≤ 1 && fld w 11 0 == 0, .recordFormat),
      (if fld w 15 12 = 0 then inConfig else inRun, .notConfig)]
  | 1 => let n := fld w 31 0
      firstErr [(fld w 63 32 == 0, .recordFormat),
        (40 ≤ n && n ≤ (if live then 65536 else 4194304) && n % 8 == 0, .length)]
  | 3 => firstErr [(w == 0, .recordFormat)]
  | _ => none

/-- The required records with TYPE below t that are not there (R120). -/
def missingBefore (recs : List Rec) (t : Nat) : Bool :=
  let c : Conf := { streamId := 0, recs := recs }
  ([(1, 0), (4, 0), (7, 0), (7, 1), (7, 2), (7, 3), (9, 0), (12, 0)] ++
    (if c.anyLink then [(6, 0), (8, 0)] else [])).any fun r => r.1 < t && (c.find r.1 r.2).isNone

/-- Types a live stream may carry (R120). -/
def liveType (t : Nat) : Bool := t == 3 || t == 6 || t == 10 || t == 14 || 0x8000 ≤ t

/-- The PLEN of R120 for the types of fixed length. -/
def fixedLen : Nat → Option Nat
  | 1 => some 8 | 2 => some 8 | 3 => some 480 | 4 => some 296 | 5 => some 128 | 6 => some 16384 | 9 => some 8
  | 12 => some 128 | 13 => some 8 | 14 => some 40 | 0xFFFF => some 0 | _ => none

/-- A record header as it arrives: the record before it, the records so far, and where it stands (R117-R121). An INSTANCE outside the
Instances column of R120 is RECORD_FORMAT: the manual names no code (DESIGN CHOICE, log entry 123). -/
def recHdrCheck (live : Bool) (recs : List Rec) (prev : Option (Nat × Nat)) (t inst plen off len : Nat) :
    Option SsErr :=
  firstErr [
    ((1 ≤ t && t ≤ 14) || 0x8000 ≤ t, .unknownType),
    ((match prev with | some p => p.1 < t || (p.1 == t && p.2 < inst) | none => true), .recordFormat),
    (live || !missingBefore recs t, .missing),
    (!live || liveType t, .notLive),
    (0x8000 ≤ t && t < 0xFFFF || (if t = 7 then inst ≤ 3 else inst == 0), .recordFormat),
    (plen % 8 == 0 && off + 8 + plen ≤ len && (match fixedLen t with | some n => plen == n | none => true), .recordFormat),
    (t != 0xFFFF || off + 8 == len, .recordFormat),
    (t != 11 || 8 ≤ plen, .recordFormat), (t != 8 || 8 ≤ plen, .recordFormat)]

/-- The clock range of an island's class in MHz (R13, R124). -/
def clockRange (k : Nat) : Nat × Nat :=
  if k < 32 then (900, 1150) else if k < 48 then (1000, 1000) else if k < 52 then (1150, 1350) else (700, 900)

/-- Whether two lists of Nat have no repeats. -/
def distinctNats : List Nat → Bool
  | [] => true
  | a :: r => !r.contains a && distinctNats r

/-- Whether two POOL entries share a queue. -/
def poolOverlap (a b : PoolEntry) : Bool := (List.range a.count).any fun k => b.covers (a.first + k * a.step)

/-- Whether no queue is covered twice (R129). -/
def poolDisjoint : List PoolEntry → Bool
  | [] => true
  | e :: r => r.all (fun f => !poolOverlap e f) && poolDisjoint r

/-- Whether a detector code is known (R133, R134). -/
def knownDet (code : Nat) : Bool := (detRow code).isSome

/-- The checks of one record on its own (R121-R136); an archive node ignores TWINS (R122). An INJECT record whose PLEN is not the
length of the codes it says it lists is RECORD_FORMAT: the manual gives its PLEN as "8 or more" (DESIGN CHOICE, log entry 123). -/
def recCheck (archive : Bool) (r : Rec) : Option SsErr :=
  let c : Conf := { streamId := 0, recs := [r] }
  let w (i : Nat) : W64 := r.words.getD i 0
  match r.type with
  | 1 => firstErr [(fld (w 0) 51 48 == 0 && fld (w 0) 43 32 == 0, .recordFormat), (fld (w 0) 47 44 ≤ 1, .range)]
  | 2 => firstErr [(fld (w 0) 63 32 == 0, .recordFormat),
      (archive || fld (w 0) 31 16 &&& fld (w 0) 15 0 == fld (w 0) 31 16, .conflict)]
  | 3 => firstErr [(r.words.all fun v => fld v 63 48 == 0 && fld v 31 8 == 0, .recordFormat),
      (r.words.zipIdx.all fun v => (clockRange v.2).1 ≤ fld v.1 47 32 && fld v.1 47 32 ≤ (clockRange v.2).2 &&
        (v.2 < 52 || fld v.1 7 0 == 255), .range)]
  | 4 =>
    let bytes := (List.range 32).map fun i => fld (w (33 + i / 8)) (8 * (i % 8) + 7) (8 * (i % 8))
    firstErr [((r.words.take 32).all (fun v => fld v 62 32 == 0) && fld (w 32) 55 0 == 0 &&
        (bytes.drop c.icount).all (· == 0), .recordFormat),
      ((r.words.take 32).all (fun v => if bitAt v 63 then 2 ^ 20 ≤ fld v 31 0 else fld v 31 0 == 0) &&
        1 ≤ c.icount && c.icount ≤ 32 && c.interleave.all (· ≤ 31), .range),
      (distinctNats c.interleave && c.interleave.all c.present, .conflict)]
  | 5 => firstErr [(r.words.all fun v => fld v 31 0 == 0, .recordFormat),
      ((List.range 16).all fun g => [0, 4, 8, 12].contains (c.lanes g), .range),
      ((List.range 16).all fun g => ((List.range 12).filter fun i => (c.laneEn g).getLsbD i).length == c.lanes g, .conflict)]
  | 6 => firstErr [(r.words.all fun v => fld v 15 0 == 0 && fld v 47 32 == 0, .recordFormat),
      ((List.range 4096).all fun b => !rtValid (c.route b) || rtLocal (c.route b) ||
        (1 ≤ rtHops (c.route b) && rtHops (c.route b) ≤ 6), .range),
      ((List.range 4096).all fun b => !rtLocal (c.route b) || c.route b == 0x40000000, .conflict)]
  | 7 =>
    let es := r.words.map poolEntry
    let x : QuadNo := Fin.ofNat 4 r.inst
    firstErr [(es.all fun e => 1 ≤ e.count && e.count ≤ 8192 && 0 < e.step && 1 ≤ e.cap && e.cap ≤ 16384 &&
        (List.range e.count).all (fun k => queueExists x (e.first + k * e.step)), .range),
      (poolDisjoint es && es.all (fun e => e.reserve ≤ e.cap) &&
        (es.map fun e => e.count * e.reserve).sum ≤ 16320, .conflict)]
  | 8 =>
    let m := fld (w 0) 31 16
    let ids := (List.range (4 * (r.words.length - 1))).map fun i => fld (w (1 + i / 4)) (16 * (i % 4) + 15) (16 * (i % 4))
    firstErr [(fld (w 0) 15 0 == 0 && r.words.length == 1 + cdiv m 4 && (ids.drop m).all (· == 0) &&
        (ids.take m).all (· < 4096), .recordFormat),
      (fld (w 0) 59 56 ≤ 2 && 1 ≤ m && m ≤ 256, .range),
      (distinctNats (ids.take m) && (ids.take m).contains (fld (w 0) 55 44) && (ids.take m).contains (fld (w 0) 43 32) &&
        (m == 1 || fld (w 0) 55 44 != fld (w 0) 43 32), .conflict)]
  | 9 => firstErr [(fld (w 0) 59 0 == 0, .recordFormat), (fld (w 0) 63 60 ≤ 1, .range)]
  | 10 => firstErr [(r.words.all fun v => fld v 31 0 == 0, .recordFormat),
      (r.words.all fun v => knownDet (fld v 63 48) && 16 ≤ fld v 47 40 && fld v 47 40 ≤ 40 && 1 ≤ fld v 39 32, .range),
      (distinctNats (r.words.map fun v => fld v 63 48), .conflict)]
  | 11 =>
    let n := fld (w 0) 15 0
    let codes := (List.range (4 * (r.words.length - 1))).map fun i =>
      fld (w (1 + i / 4)) (16 * (i % 4) + 15) (16 * (i % 4))
    firstErr [(fld (w 0) 62 16 == 0 && r.words.length == 1 + cdiv n 4 && (codes.drop n).all (· == 0), .recordFormat),
      ((codes.take n).all knownDet, .range)]
  | 12 => firstErr [(r.words.all fun v => fld v 55 48 == 0 && fld v 31 0 == 0, .recordFormat),
      (r.words.all fun v => fld v 63 60 ≤ 2 && fld v 59 56 ≤ 2 && (fld v 63 60 == 2 || fld v 47 32 == 0), .range)]
  | 14 => firstErr [(fld (w 0) 63 16 == 0, .recordFormat),
      ((List.range 64).all fun i => bitAt (w 0) (c.cqOf i), .conflict)]
  | _ => none

/-- The least cap of a queue whose producer and consumer are enabled (R131, R435). -/
def minCap (c : Conf) (x q : Nat) : Nat :=
  if q < 0x2000 then (if q % 8 < 2 || 6 ≤ q % 8 then 1 else 129)
  else if q < 0x2020 then
    let p := 8 * x + (q - 0x2000) / 4
    if c.sliceEn p || c.present p then (if q % 2 = 0 then 129 else 1) else 0
  else if q < 0x2060 then (if c.linkEnabled (4 * x + (q - 0x2020) / 16) then 129 else 0)
  else if q < 0x2070 then 129
  else if q < 0x2090 then (if q % 2 = 0 then 129 else 1)
  else if q < 0x2110 then (if c.cqEn (q - 0x2100) then 1 else 0)
  else if q = 0x2110 then 1
  else (if c.linkEnabled (4 * x + (q - 0x2120)) then 1 else 0)

/-- The contradictions between records, with the record each is reported at (R122-R135). -/
def crossChecks (c : Conf) : List (Nat × Nat × Bool) :=
  let enabled := (List.range 16).filter c.linkEnabled
  [(2, 0, (List.range 16).all fun k => !c.joined k || (c.sliceEn (2 * k) && c.sliceEn (2 * k + 1))),
    (4, 0, (List.range 32).all fun p =>
      !c.present p || c.sliceEn p || (c.capable (p / 2) && c.sliceEn (if p % 2 = 0 then p + 1 else p - 1))),
    (5, 0, enabled.all fun g => c.peerBlock g != c.blockId),
    (6, 0, (c.find 6 0).isNone || (rtLocal (c.route c.blockId.toNat) && (List.range 4096).all fun b =>
      let e := c.route b
      !rtValid e || (c.linkEnabled (rtLg e) && (!rtAltEn e || c.linkEnabled (rtAltLg e)))))] ++
  ((List.range 4).map fun x => (7, x, (List.range 0x2124).all fun q =>
    !queueExists (Fin.ofNat 4 x) q || minCap c x q ≤ (c.queueShare x q).2)) ++
  [(8, 0, c.members.contains c.blockId &&
      c.role == (if c.blockId = c.manager then 1 else if c.blockId = c.mirrorBlock then 2 else 0)),
    (12, 0, enabled.all fun g => ((List.range 16).filter fun s => (c.keyLinks s).getLsbD g).length == 1)]

/-- The first contradiction between records. -/
def crossErr (c : Conf) : Option (Nat × Nat) := ((crossChecks c).find? fun t => !t.2.2).map fun t => (t.1, t.2.1)

/-- Whether a record of a live stream affects island k, which must then be QUIESCED (R145): a clock word that differs, the routes of a
quadrant, a detector's entry that differs, the completions of CMD. An absent record has the values of R120. -/
def recAffects (old new : Conf) (r : Rec) (k : IslandNo) : Bool :=
  match r.type with
  | 3 => old.clock k.val != new.clock k.val
  | 6 => 48 ≤ k.val && k.val < 52
  | 10 => detTable.any fun d => d.inIsland k new.role && detWT (some old) d.code != detWT (some new) d.code
  | 14 => k == cmdIsl
  | _ => false

end Sys2Proof.Machine
end

