-- ==== Sys2Proof/Machine/Stream.lean ====
section
/-! DEFINITION. The structure stream port: receiving, checking, applying and rejecting streams (R110-R142, R145, R146). -/

namespace Sys2Proof.Machine

/-- A 16-bit count that saturates. -/
def sat16Inc (v : BitVec 16) : BitVec 16 := if v = 0xFFFF then v else v + 1

/-- A rejection (R113, R141, R142): the cause is kept with the place it was found, and resynchronisation begins. -/
def State.rejectStream (s : State) (e : SsErr) (type inst off : Nat) : State :=
  { s with cfg := { s.cfg with
      recv := none, resync := true, lastErr := BitVec.ofNat 8 e.code, rejects := sat16Inc s.cfg.rejects,
      errType := BitVec.ofNat 16 type, errInst := BitVec.ofNat 16 inst, errOffset := BitVec.ofNat 32 off } }.emit
    cfgIsl { code := 0x000C, sev := sevInfo, arg := BitVec.ofNat 64 e.code }

/-- Whether an island keeps its configuration: RUN or QUIESCED (R141). -/
def Island.keepsConf (i : Island) : Bool := i.state == .run || i.state == .quiesced

/-- A configuration delivered to an island that is in CONFIG, in place of one it may have had before CFG's reset (R138, R140, R141);
those that run keep their own. -/
def Island.deliver (i : Island) (c : Conf) : Island :=
  if !i.inReset && i.state == .config then { i with conf := some c } else i

/-- The records of a live stream come to an island: one that runs holds them until it is released (R147), one still in CONFIG has them
at once. -/
def Island.liveRecords (i : Island) (recs : List Rec) : Island :=
  if i.inReset then i
  else if i.keepsConf then { i with liveRecs := (({ streamId := 0, recs := i.liveRecs } : Conf).withLive recs).recs }
  else { i with conf := i.conf.map fun c => c.withLive recs }

/-- A full stream that passed every check is applied (R138-R141): it becomes CFG's store, the islands in CONFIG are
configured from it, and CFG is in RUN. -/
def State.applyFull (s : State) (c : Conf) : State :=
  let s1 : State := { s with
    cfg := { s.cfg with
      recv := none, store := some c, keys := s.cfg.keys.map fun k => { k with written := false } }
    islands := s.islands.map fun i => i.deliver c }
  s1.onIsl cfgIsl fun i => (({ i with conf := some c } : Island).enter .run).reportEmptied cfgIsl

/-- A live stream that passed every check replaces its records as a whole, in CFG's store and in every island (R146, R147). -/
def State.applyLive (s : State) (c : Conf) (recs : List Rec) (id : BitVec 32) : State :=
  { s with
    cfg := { s.cfg with recv := none, store := some c, liveApplied := sat16Inc s.cfg.liveApplied, liveId := id }
    islands := s.islands.map fun i => i.liveRecords recs }

/-- The islands whose STREAM_ID a full stream must equal (R141). -/
def State.idsMatch (s : State) (id : BitVec 32) : Bool :=
  s.islands.toList.zipIdx.all fun e => e.2 == 52 || !e.1.keepsConf ||
    (match e.1.conf with | some c => c.streamId == id | none => true)

/-- Whether a live change would disable a completion queue that holds records (R146). -/
def State.cutsQueue (s : State) (old new : Conf) : Bool :=
  (List.range 16).any fun q => old.cqEn q && !new.cqEn q && ((s.quad 0).queue (0x2100 + q)).visibleCount != 0

/-- The first record of a live stream, in stream order, that affects an island which is not QUIESCED (R145, R148). -/
def State.unquiesced (s : State) (old new : Conf) (recs : List Rec) : Option Rec :=
  recs.find? fun r => s.islands.toList.zipIdx.any fun e =>
    recAffects old new r (Fin.ofNat 60 e.2) && e.1.state != .quiesced

/-- The final checks after a stream's last word (R138, R146), and its application or rejection. One that reaches LENGTH without an END
is RECORD_FORMAT, of R118, and not MISSING, of R120: the manual gives both (DESIGN CHOICE, log entry 123). -/
def State.finishStream (s : State) (r : SsRecv) : State :=
  let live := fld (r.hdr.getD 0 0) 15 12 == 1
  let id := bits 32 (r.hdr.getD 2 0) 32
  let recs := r.recs
  if !r.ended then s.rejectStream .recordFormat 0 0 (8 * (r.count - 1))
  else if (r.crc ^^^ 0xFFFFFFFF) != fld (r.hdr.getD 2 0) 31 0 then s.rejectStream .crc 0 0 0
  else
    let offOf (t i : Nat) : Nat := match recs.find? fun x => x.type == t && x.inst == i with | some x => x.off | none => 0
    if live then
      match s.cfg.store with
      | none => s.rejectStream .notConfig 0 0 0
      | some old =>
        let new := old.withLive recs
        match crossErr new with
        | some p => s.rejectStream .conflict p.1 p.2 (offOf p.1 p.2)
        | none =>
          if s.cutsQueue old new then s.rejectStream .conflict 14 0 (offOf 14 0)
          else match s.unquiesced old new recs with
            | some x => s.rejectStream .notQuiesced x.type x.inst x.off
            | none => s.applyLive new recs id
    else
      let c : Conf := { streamId := id, recs := recs }
      match crossErr c with
      | some p => s.rejectStream .conflict p.1 p.2 (offOf p.1 p.2)
      | none => if s.idsMatch id then s.applyFull c else s.rejectStream .mismatch 0 0 0

/-- What one more word does to a stream being received: the stream with it, or the cause and place of a rejection. -/
def SsRecv.take (r : SsRecv) (w : W64) (inConfig inRun : Bool) : SsRecv ⊕ (SsErr × Nat × Nat × Nat) :=
  let i := r.count
  let live := fld ((r.hdr ++ [w]).getD 0 0) 15 12 == 1
  let len := fld ((r.hdr ++ [w]).getD 1 0) 31 0
  let arch := ({ streamId := 0, recs := r.recs } : Conf).archive
  let crcw : W64 := if i = 2 then w &&& 0xFFFFFFFF00000000 else w
  let r1 := { r with count := i + 1, crc := (leBytes 8 crcw.toNat).foldl crc32cByte r.crc }
  if i < 4 then
    match hdrCheck i w live inConfig inRun with
    | some e => .inr (e, 0, 0, 0)
    | none => .inl { r1 with hdr := r.hdr ++ [w] }
  else
    match r.cur with
    | none =>
      let t := fld w 63 48
      let inst := fld w 47 32
      let plen := fld w 31 0
      match recHdrCheck live r.recs r.prev t inst plen (8 * i) len with
      | some e => .inr (e, t, inst, 8 * i)
      | none =>
        let r2 := { r1 with prev := some (t, inst) }
        if plen = 0 then
          match (if t = 7 || t = 10 then none else recCheck arch { type := t, inst := inst, words := [] }) with
          | some e => .inr (e, t, inst, 8 * i)
          | none => .inl (if t = 0xFFFF then { r2 with ended := true }
              else if 0x8000 ≤ t then r2
              else { r2 with recs := r.recs ++ [{ type := t, inst := inst, words := [], off := 8 * i }] })
        else .inl { r2 with cur := some (t, inst, plen / 8, [], 8 * i) }
    | some (t, inst, left, got, off) =>
      if 1 < left then .inl { r1 with cur := some (t, inst, left - 1, w :: got, off) }
      else
        let x : Rec := { type := t, inst := inst, words := (w :: got).reverse, off := off }
        if 0x8000 ≤ t then .inl { r1 with cur := none }
        else match recCheck arch x with
          | some e => .inr (e, t, inst, off)
          | none => .inl { r1 with cur := none, recs := r.recs ++ [x] }

/-- STREAM_WORD (R111-R113, R138): CFG accepts a word, checks it, and after the last word finishes the stream; while it
resynchronises it discards the word. -/
def execStreamWord (w : W64) (s : State) : Outcome :=
  let i := s.isl cfgIsl
  let t : State := { s with cfg := { s.cfg with wordAt := s.now cfgIsl } }
  guarded (i.live && s.cfg.selfTest == some true && i.state != .shut) s
    (if s.cfg.resync then t
    else match (s.cfg.recv.getD {}).take w (i.state == .config) (i.state == .run) with
    | .inr e => t.rejectStream e.1 e.2.1 e.2.2.1 e.2.2.2
    | .inl r =>
      if 4 ≤ r.count && 8 * r.count == fld (r.hdr.getD 1 0) 31 0 then t.finishStream r
      else { t with cfg := { t.cfg with recv := some r } })

/-- STREAM_TRUNCATED (R113): ss_valid has stayed low for 2^20 CFG cycles inside a stream. -/
def execStreamTruncated (s : State) : Outcome :=
  match s.cfg.recv with
  | none => .next s
  | some r =>
    guarded ((s.isl cfgIsl).live && decide (2 ^ 20 ≤ elapsed (s.now cfgIsl) s.cfg.wordAt)) s
      (match r.cur with
      | some (t, inst, _, _, off) => s.rejectStream .truncated t inst off
      | none => s.rejectStream .truncated 0 0 (8 * r.count))

/-- STREAM_RESYNC_END (R113): ss_valid has been low for 64 CFG cycles; the next word accepted is a new header. -/
def execStreamResyncEnd (s : State) : Outcome :=
  guarded (s.cfg.resync && (s.isl cfgIsl).live && decide (64 ≤ elapsed (s.now cfgIsl) s.cfg.wordAt)) s { s with cfg := { s.cfg with resync := false } }

end Sys2Proof.Machine
end

