-- ==== Sys2Proof/Machine/RegWrite.lean ====
section
/-! DEFINITION. What a register write does (R12, R78-R82, R144-R147, R177-R180, R323, R374-R377, R412, R447, R468, R481, R494-R499,
R524): island by island, with quiescing and the key store. -/

namespace Sys2Proof.Machine

/-! Quiescing (R143, R144, R147). -/

/-- Island k is asked to quiesce (R144): nothing where it is in reset or its shutter is closed. -/
def State.askQuiesce (s : State) (k : IslandNo) : State :=
  let s1 : State := { s with cfg := { s.cfg with quiesce := setBit s.cfg.quiesce k.val true } }
  if (s.isl k).inReset || (s.isl k).state = .shut then s1 else s1.onIsl k fun i => { i with quiesceAsk := true }

/-- The detectors of an island under a new configuration (R147): one whose window or threshold has changed starts a new window. -/
def Island.detsUnder (i : Island) (new : Conf) : Island :=
  let codes := (detTable.map (·.code)).filter fun c => detWT i.conf c != detWT (some new) c
  { i with
    detStart := codes.foldl (fun m c => KMap.put m c i.cycle) i.detStart
    dets := mapIf (fun d => codes.contains d.code.toNat) (fun d => { d with count := 0, winStart := i.cycle }) i.dets }

/-- An island released from QUIESCED (R147): a live change takes effect in it, and it runs. -/
def Island.released (i : Island) : Island :=
  let i1 := { i with quiesceAsk := false }
  if i.inReset || i.state != .quiesced then i1
  else match i.conf with
    | some c => ({ (i1.detsUnder (c.withLive i.liveRecs)) with
        conf := some (c.withLive i.liveRecs), liveRecs := [] } : Island).enter .run
    | none => i1.enter .run

/-- Groups that an island's entry into RUN lets go on: a link group itself, or those of a quadrant (R403, R500). -/
def State.linksOf (s : State) (k : IslandNo) : State :=
  if 32 ≤ k.val && k.val < 48 then s.linkUpdate (groupOf k)
  else if 48 ≤ k.val && k.val < 52 then
    (List.finRange 4).foldl (fun (s : State) (j : Fin 4) => s.linkUpdate (Fin.ofNat 16 (4 * (k.val - 48) + j.val))) s
  else s

/-- SPG or a slice's histogram unit takes up what waited while it was quiesced or had not begun to run (R143, R147). -/
def State.tablesResume (s : State) (k : IslandNo) : State :=
  if k.val < 32 then s.histNext (sliceOf k)
  else if k = spgIsl then ((List.finRange 64).foldl State.slotGo s).histAll
  else s

/-- Island k is released (R144, R147). -/
def State.releaseQuiesce (s : State) (k : IslandNo) : State :=
  (({ s with cfg := { s.cfg with quiesce := setBit s.cfg.quiesce k.val false } } : State).onIsl k fun i =>
    i.released).linksOf k |>.tablesResume k

/-- A write to CFG_QUIESCE (R144): each island whose bit is written 1 is asked, and each that was asked and whose bit is 0 is released. -/
def State.writeQuiesce (s : State) (w : W64) : State :=
  (List.finRange 60).foldl (fun (s : State) k =>
    let set := s.cfg.quiesce.getLsbD k.val
    if bitAt w k.val then s.askQuiesce k
    else if set || (s.isl k).quiesceAsk then s.releaseQuiesce k else s) s

/-- QUIESCE_REQUEST (R144). -/
def execQuiesceRequest (k : IslandNo) (s : State) : Outcome := guarded s.chanUp s (s.askQuiesce k)

/-- QUIESCE_RELEASE (R144, R147). -/
def execQuiesceRelease (k : IslandNo) (s : State) : Outcome := guarded s.chanUp s (s.releaseQuiesce k)

/-- Whether an island holds a packet open on a queue it produces, or one to send (R143). -/
def State.holdsOpen (s : State) (k : IslandNo) : Bool :=
  !(s.isl k).outbox.isEmpty ||
  (List.finRange 4).any fun x => (s.quad x).queues.any fun e => queueProducer x e.1 == k && e.2.openPkt.isSome

/-- Whether a slice has work in progress (R143, R175): a plate on its way, a row block, a write, a dirty guard line while its device
serves, a beat stream within a plate. -/
def Slice.working (x : Slice) : Bool :=
  !x.eye.arrived.isEmpty || !x.eye.flight.isEmpty || x.eye.ctxs.toList.any (·.isSome) ||
  x.dpe.blkP != 0 || !x.dpe.redo.isEmpty || !x.dpe.accs.isEmpty || !x.dpe.drain.isEmpty || !x.sme.group.isEmpty || !x.sme.jobs.isEmpty ||
  !x.store.queue.isEmpty || !x.store.imports.isEmpty || !x.home.writes.isEmpty || !x.home.inq.isEmpty || !x.home.sums.isEmpty ||
  x.home.reads.any (·.started) || !x.mp.waiting.isEmpty || x.mp.tags.any (fun t => !t.timedOut) || !x.mp.ahead.isEmpty ||
  (!x.devShut && x.mp.cache.any fun g => g.dirty || g.wb) ||
  x.xp.tx.any (fun t => t.beat != 0) || x.xp.streams.any fun t => t.beats != 0

/-- Whether the work in progress of island k has ended (R143). -/
def State.workEnded (s : State) (k : IslandNo) : Bool :=
  if k.val < 32 then !(s.slice (sliceOf k)).working
  else if k.val < 48 then (s.group (groupOf k)).replaying.isEmpty
  else if k.val < 52 then true
  else match k.val with
    | 52 => s.cfg.recv.isNone
    | 53 => s.cmd.runs.isEmpty && s.cmd.queues.toList.all (·.fetch.isNone) && s.cmd.nwWaiting.isEmpty && s.cmd.nwAhead.isEmpty && s.cmd.doorbells.isEmpty && s.cmd.nwTags.all (·.timedOut)
    | 54 => s.eph.places.isEmpty && s.eph.moves.isEmpty && s.eph.srcs.isEmpty && s.eph.dsts.isEmpty &&
        s.reqs.all fun r => r.unit != unitEph
    | 56 => s.log.staged.isNone
    | 57 => (s.spg.builds.all fun b => b.slot.isNone) && s.spg.slots.toList.all fun x => x.cur.isNone
    | 58 => s.svy.heals.isEmpty && s.svy.scrubs.isEmpty
    | _ => true

/-- ISLAND_QUIESCED (R143): the work in progress of an island asked to quiesce has ended, and it holds no open packet. -/
def execIslandQuiesced (k : IslandNo) (s : State) : Outcome :=
  guarded (s.running k && (s.isl k).quiesceAsk && s.workEnded k && !s.holdsOpen k) s
    (s.onIsl k fun i => i.enter .quiesced)

/-! The key store (R177-R180). -/

/-- Whether a key slot is used by island k (R177): a memory slot by every slice that is enabled or has a device, a link slot by the groups
of its LINK_MASK. -/
def Conf.keyUsedBy (c : Conf) (n : Nat) (k : IslandNo) : Bool :=
  (c.keyUse n == 1 && k.val < 32 && (c.sliceEn k.val || c.present k.val)) ||
  (c.keyUse n == 2 && 32 ≤ k.val && k.val < 48 && (c.keyLinks n).getLsbD (k.val - 32))

/-- The 64 bytes that are staged. -/
def CfgS.staged (c : CfgS) : List Byte := wordsBytes c.keyStage.toList

/-- Whether a commit to a slot is denied (R178). -/
def State.keyDenied (s : State) (n : Nat) : Bool :=
  match s.cfg.store with
  | none => true
  | some c =>
    c.keyUse n == 0 ||
    (c.keyWrite n == 0 && (s.cfg.keys[Fin.ofNat 16 n]).written) ||
    (c.keyWrite n == 1 && (List.finRange 60).any fun k =>
      c.keyUsedBy n k && !(s.isl k).inReset && (s.isl k).state != .quiesced) ||
    (c.keyUse n == 1 && s.cfg.staged.take 32 == s.cfg.staged.drop 32)

/-- A committed key copied into every island that uses its slot and is out of reset (R177, R178). -/
def State.spreadKey (s : State) (c : Conf) (n : Nat) (key : List Byte) : State :=
  { s with
    slices := s.slices.mapIdx fun p x =>
      let k : IslandNo := Fin.ofNat 60 p
      if c.keyUsedBy n k && !(s.isl k).inReset then { x with keys := x.keys.setIfInBounds n (some key) } else x
    groups := s.groups.mapIdx fun g q =>
      let k : IslandNo := Fin.ofNat 60 (32 + g)
      if c.keyUsedBy n k && !(s.isl k).inReset then q.keyCommit key (s.now k) else q }

/-- A write to PRAUX_KEY_COMMIT (R178): the staged key is installed, or the commit is denied; the staging registers return to zero. -/
def State.commitKey (s : State) (data : W64) : BitVec 2 × State :=
  let n := fld data 3 0
  let clear := Vector.replicate 8 (0 : W64)
  match s.keyDenied n, s.cfg.store with
  | false, some c =>
    let key := s.cfg.staged
    (ansOk, ({ s with cfg := { s.cfg with
        keyStage := clear, keys := s.cfg.keys.setIfInBounds n { loaded := true, key := key, written := true }
        keyCommits := sat16Inc s.cfg.keyCommits } } : State).spreadKey c n key)
  | _, _ => (ansDenied, { s with cfg := { s.cfg with keyStage := clear, keyDenials := sat16Inc s.cfg.keyDenials } })

/-- KEY_COMMIT (R178). -/
def execKeyCommit (data : W64) (s : State) : Outcome := guarded s.chanUp s (s.commitKey data).2

/-! The registers of an island. -/

/-- A slice under a write to one of its own registers. -/
def Slice.write (x : Slice) (off : Nat) (w : W64) : Slice :=
  match off with
  | 0x208 => { x with mp := { x.mp with
      timeoutSeen := x.mp.timeoutSeen && !bitAt w 57, lateSeen := x.mp.lateSeen && !bitAt w 56
      unexpSeen := x.mp.unexpSeen && !bitAt w 55 } }
  | 0x280 => { x with xp := { x.xp with
      txAbandonSeen := x.xp.txAbandonSeen && !bitAt w 57, rxDiscardSeen := x.xp.rxDiscardSeen && !bitAt w 56 } }
  | 0x308 => { x with mp := { x.mp with pinFullSeen := x.mp.pinFullSeen && !bitAt w 63 } }
  | 0x600 => { x with slotSel := bits 6 w 0 }
  | 0x900 => { x with biasGroup := bits 8 w 32, biasMargin := bits 16 w 16, bias := bits 16 w 0 }
  | 0x910 => { x with sme := { x.sme with exhaustSeen := x.sme.exhaustSeen && !bitAt w 44 } }
  | _ => x

/-- A queue with the W1C bits of a write to XQ_QSTAT cleared (R42). -/
def CQueue.clearSeen (c : CQueue) (parity abandon excess under : Bool) : CQueue :=
  { c with
    paritySeen := c.paritySeen && !parity, abandonSeen := c.abandonSeen && !abandon
    overrun := c.overrun && !excess, underrun := c.underrun && !under }

/-- A quadrant under a write to one of its own registers. -/
def Quad.write (d : Quad) (x : QuadNo) (off : Nat) (w : W64) : Quad :=
  match off with
  | 0x100 => { d with qsel := bits 16 w 0 }
  | 0x108 =>
    let q := d.qsel.toNat
    if queueExists x q then d.setQueue q ((d.queue q).clearSeen (bitAt w 55) (bitAt w 54) (bitAt w 53) (bitAt w 52)) else d
  | 0x200 => { d with routeSel := bits 12 w 0 }
  | _ => d

/-- A link group under a write to one of its own registers: a restart where both bits of LG_CTL are set (R412). -/
def State.lgWrite (s : State) (g : GroupNo) (off : Nat) (w : W64) : State :=
  match off with
  | 0x40 => s.onGroup g fun q => { q with
      freshSeen := q.freshSeen && !bitAt w 7, degradedSeen := q.degradedSeen && !bitAt w 6
      mismatchSeen := q.mismatchSeen && !bitAt w 5 }
  | 0x60 => if bitAt w 1 then s.retrain g true else if bitAt w 0 then s.retrain g false else s
  | _ => s

/-- CMD under a write to CMD_Q_CTL (R376): RESET, then HALT, then RESUME. -/
def State.writeQueueCtl (s : State) (q : Fin 64) (w : W64) : State :=
  if bitAt w 2 then s.queueReset q (bits 17 w 47) (bitAt w 1) (bitAt w 0)
  else s.onCq q fun c =>
    let c1 := if bitAt w 1 then c.halt else c
    if bitAt w 0 then c1.resume else c1

/-- A host window under a write to one of its registers (R93). -/
def NwWin.write (v : NwWin) (r : Nat) (w : W64) : NwWin :=
  match r with
  | 0x00 => { v with base := bits 52 w 12, en := bitAt w 0 }
  | 0x08 => { v with limit := bits 52 w 12 }
  | 0x10 => { v with dest := bits 32 w 0 }
  | _ => v

/-- CMD under a write to one of its own registers, with the response code. -/
def State.cmdWrite (s : State) (off : Nat) (w : W64) : BitVec 2 × State :=
  let c := s.cmd
  if off = 0x80 then (ansOk, { s with cmd := { c with
      pathDownSeen := c.pathDownSeen && !bitAt w 62, timeoutSeen := c.timeoutSeen && !bitAt w 61
      lateSeen := c.lateSeen && !bitAt w 60 } })
  else if 0x1000 ≤ off && off < 0x1200 then
    let i : Fin 16 := Fin.ofNat 16 ((off - 0x1000) / 0x20)
    (ansOk, { s with cmd := { c with wins := c.wins.set i (c.wins[i].write (off % 0x20) w) } })
  else if 0x2000 ≤ off && off < 0x2200 then
    let n := 0x2100 + (off - 0x2000) / 0x20
    (ansOk, if off % 0x20 = 8 then
      s.onQuad 0 fun d => d.setQueue n ((d.queue n).clearSeen (bitAt w 60) false false (bitAt w 61)) else s)
  else if 0x4000 ≤ off && off < 0x5000 then
    let q : Fin 64 := Fin.ofNat 64 ((off - 0x4000) / 0x40)
    if off % 0x40 = 0x20 then (ansOk, s.writeQueueCtl q w)
    else match s.writeQueueReg q (off % 0x40) w with
      | some t => (ansOk, t)
      | none => (ansDenied, s)
  else if 0x6000 ≤ off && off < 0x6800 then
    (ansOk, { s with cmd := { c with sig := c.sig.set (Fin.ofNat 256 ((off - 0x6000) / 8)) (bits 32 w 0) } })
  else if 0x20000 ≤ off then (ansOk, { s with cmd := c.setEntryWord ((off - 0x20000) / 8) w })
  else (ansOk, s)

/-- EPH under a write to one of its own registers (R414, R447, R468). -/
def State.ephWrite (s : State) (off : Nat) (w : W64) : BitVec 2 × State :=
  if 0x100 ≤ off && off < 0x180 then
    let d := (off - 0x100) / 8
    if (match s.conf ephIsl with | some c => c.domain.toNat == d | none => false) then (ansDenied, s)
    else (ansOk, { s with eph := { s.eph with
      mgr := s.eph.mgr.setIfInBounds d { valid := bitAt w 63, manager := bits 12 w 48, mirror := bits 12 w 32 } } })
  else if off = 0x190 then
    (ansOk, (List.range 16).foldl (fun (s : State) d => if bitAt w d then s.haltDomain d true else s) s)
  else (ansOk, s)

/-- LOG under a write to one of its own registers (R490, R499). -/
def State.logWrite (s : State) (off : Nat) (w : W64) : State :=
  let l := s.log
  match off with
  | 0x48 => s.onQuad 0 fun d => d.setQueue 0x2110 ((d.queue 0x2110).clearSeen (bitAt w 61) false false (bitAt w 62))
  | 0x50 => { s with log := { l with
      fatalSeen := l.fatalSeen && !bitAt w 63, lastingSeen := l.lastingSeen && !bitAt w 62
      transientSeen := l.transientSeen && !bitAt w 61, lostSeen := l.lostSeen && !bitAt w 60, islands := l.islands &&& ~~~(bits 60 w 0) } }
  | 0x58 => { s with log := { l with codeSel := bits 16 w 0 } }
  | 0x60 => { s with log := l.clearCode (bitAt w 63) (bitAt w 62) (bitAt w 61) }
  | _ => s

/-- INJ under a write to one of its own registers (R494, R496): CANCEL ends the arming in force before ARM arms the next. -/
def State.injWrite (s : State) (off : Nat) (w : W64) : BitVec 2 × State :=
  match off with
  | 0x40 => (ansOk, { s with inj := { s.inj with target := w &&& 0xFC00FFFFFFFF0000 } })
  | 0x48 =>
    let s1 := if bitAt w 62 then s.cancelArm else s
    if bitAt w 63 then s1.arm (bits 16 w 32) (bits 32 w 0) else (ansOk, s1)
  | 0x50 => (ansOk, { s with inj := { s.inj with
      refusedSeen := s.inj.refusedSeen && !bitAt w 62, cancelSeen := s.inj.cancelSeen && !bitAt w 61 } })
  | _ => (ansOk, s)

/-- A write to the register at an offset of an island's region, the island being out of reset with its clock running: the response code
and the state (R12, R78, R80, R81). -/
def State.islandWrite (s : State) (k : IslandNo) (off : Nat) (w : W64) : BitVec 2 × State :=
  if off = 0x10 then (ansOk, s.onIsl k fun i => { i with detSelCode := bits 16 w 16, detSelInst := bits 16 w 0 })
  else if off = 0x30 then (ansOk, s.onIsl k fun i => i.snap (bitAt w 0))
  else if k.val < 32 then (ansOk, s.onSlice (sliceOf k) fun x => x.write off w)
  else if k.val < 48 then (ansOk, s.lgWrite (groupOf k) off w)
  else if k.val < 52 then (ansOk, s.onQuad (quadrantOf k) fun d => d.write (quadrantOf k) off w)
  else match k.val with
    | 52 => (ansOk, if off = 0x60 then s.writeQuiesce w else s)
    | 53 => s.cmdWrite off w
    | 54 => s.ephWrite off w
    | 56 => (ansOk, s.logWrite off w)
    | 57 => (ansOk, if off = 0x100 then { s with spg := { s.spg with slotSel := bits 6 w 0 } } else s)
    | 58 => (ansOk, if off = 0x48 then { s with svy := { s.svy with
        patrolEn := bitAt w 63, patrolLines := bits 16 w 16, patrolInterval := bits 16 w 0 } } else s)
    | 59 => s.injWrite off w
    | _ => (ansOk, s)

/-- A write to a block-wide register (R104, R178, R498, R499). -/
def State.blockWrite (s : State) (off : Nat) (w : W64) : BitVec 2 × State :=
  if off = 0x48 then (ansOk, if (s.isl logIsl).live then { s with log := s.log.clearCause (bits 16 w 0) } else s)
  else if off = 0x80 then (ansOk, s.snapAll (bitAt w 0))
  else if 0x1000 ≤ off && off < 0x1040 then
    (ansOk, { s with cfg := { s.cfg with keyStage := s.cfg.keyStage.setIfInBounds ((off - 0x1000) / 8) w } })
  else if off = 0x1040 then s.commitKey w
  else (ansOk, s)

/-! The rows. -/

/-- The larger of two response codes. -/
def worseAns (a b : BitVec 2) : BitVec 2 := if a < b then b else a

/-- How a request for island k crossed: CFG's own registers are behind no queue (R77, R81). -/
def crossingAt (via : List (IslandNo × Crossing)) (k : IslandNo) : Crossing :=
  if k = cfgIsl then .clean else match via.find? fun e => e.1 == k with | some e => e.2 | none => .clean

/-- The effect of a write at every island of a broadcast window that is out of reset, in order, and the largest code (R524). -/
def State.castWrite (s : State) (off : Nat) (w : W64) (ks : List IslandNo) (via : List (IslandNo × Crossing)) : BitVec 2 × State :=
  ks.foldl (fun a k =>
    if (s.isl k).inReset then a
    else if !(s.isl k).live then (worseAns a.1 ansNoResponse, a.2)
    else let r := a.2.crossed (crossingAt via k) (a.2.islandWrite k off w); (worseAns a.1 r.1, r.2)) (ansOk, s)

/-- What a write to an address answers and does (R78, R80, R81, R501, R520, R524). -/
def State.regWrite (s : State) (addr : BitVec 21) (w : W64) (via : List (IslandNo × Crossing)) : BitVec 2 × State :=
  if inBlockPage addr then s.blockWrite (addrOff addr) w
  else if s.cfg.selfTest = some false then (ansNoResponse, s)
  else match addrIsland addr with
    | some k => if (s.isl k).live then s.crossed (crossingAt via k) (s.islandWrite k (addrOff addr) w) else (ansNoResponse, s)
    | none => s.castWrite (addrOff addr) w (castClass addr) via

/-- The read-consuming register that an address names: the island and the queue it reads. -/
def readsQueue (addr : BitVec 21) : Option (IslandNo × Nat) :=
  let b := regByte addr
  if b = 0xE00040 then some (logIsl, 0x2110)
  else if 0xD42000 ≤ b && b < 0xD42200 && b % 0x20 == 0 then some (cmdIsl, 0x2100 + (b - 0xD42000) / 0x20)
  else none

/-- What a read of an address does and answers (R33, R78, R81): a read that crossed poisoned answers POISONED with data that nothing
constrains (log entry 1). -/
def State.readAnswer (s : State) (tag : BitVec 4) (addr : BitVec 21) (via : List (IslandNo × Crossing)) : State :=
  let cross : Crossing := match addrIsland addr with
    | some k => if inBlockPage addr then .clean else crossingAt via k
    | none => .clean
  let poisoned (t : State) : State := t.freeNat.2.answer tag ansPoisoned (BitVec.ofNat 64 t.freeNat.1)
  match readsQueue addr with
  | some (i, q) =>
    if !s.answers i || cross == .clean then s.readQueueWord tag i q {}
    else if cross == .request then poisoned s else poisoned (s.readQueueWord tag i q {})
  | none =>
    let a := s.regRead addr
    if a.code = ansOk && cross != .clean then poisoned s else s.answer tag a.code a.rdata

/-- An outstanding request takes effect and is answered (R78, R80). -/
def State.perform (s : State) (tag : BitVec 4) (ask : RegAsk) (via : List (IslandNo × Crossing)) : State :=
  let t : State := { s with cp := { s.cp with out := s.cp.out.filter fun r => r.tag != tag } }
  if ask.wr then let r := t.regWrite ask.addr ask.data via; r.2.answer tag r.1
  else t.readAnswer tag ask.addr via

/-- The islands to which a request for an address goes (R78, R524). -/
def addrIslands (addr : BitVec 21) : List IslandNo :=
  if inBlockPage addr then [cfgIsl] else match addrIsland addr with | some k => [k] | none => castClass addr

/-- Whether no request accepted before the one under a tag goes to the same island: those take effect in the order of acceptance
(R80). -/
def CpS.first (c : CpS) (tag : BitVec 4) (ask : RegAsk) : Bool :=
  !((c.out.takeWhile fun r => r.tag != tag).any fun r => (addrIslands r.ask.addr).any (addrIslands ask.addr).contains)

/-- REGISTER_WRITE (R77-R82): a request is accepted, takes effect in the addressed island and is answered; where the island holds it
(`hold`), or one accepted earlier for the island is outstanding, it stays outstanding, and the row under its tag answers it later. The
table has no row for a read of a register: it is this one with the write signal low (DESIGN CHOICE, log entry 13). -/
def execRegisterWrite (tag : BitVec 4) (ask : RegAsk) (hold : Bool) (via : List (IslandNo × Crossing)) (s : State) : Outcome :=
  guarded s.chanUp s
    (match s.cp.out.find? fun r => r.tag == tag with
    | some r => if hold || !s.cp.first tag r.ask then s else s.perform tag r.ask via
    | none =>
      if hold || !s.cp.first tag ask then
        { s with cp := { s.cp with out := s.cp.out ++ [{ tag := tag, ask := ask, at_ := s.now cfgIsl }] } }
      else s.perform tag ask via)

/-- BROADCAST_WRITE (R524, R525): a write to a broadcast window is applied to every island of the class out of reset, and answered with
the largest code. -/
def execBroadcastWrite (tag : BitVec 4) (addr : BitVec 21) (data : W64) (via : List (IslandNo × Crossing)) (s : State) : Outcome :=
  guarded (s.reqReady tag && decide (61 ≤ regByte addr / 0x40000)) s (let r := s.regWrite addr data via; r.2.answer tag r.1)

/-- A broadcast write that islands of the class have not answered in time: each has or has not taken it (R82, R524; log entry 1). -/
def State.castLate (s : State) (off : Nat) (w : W64) (ks : List IslandNo) : State :=
  ks.foldl (fun (s : State) k =>
    if !(s.isl k).live then s
    else let b := s.freeBit; if b.1 then (b.2.islandWrite k off w).2 else b.2) s

/-- What a request that its island has not answered in time may have done all the same (R82, R524; log entry 1): a write, a read that
consumes a word, a broadcast write at any of the islands written. -/
def State.lateEffect (s : State) (tag : BitVec 4) (q : RegAsk) : State :=
  match addrIsland q.addr with
  | none => if q.wr && s.cfg.selfTest != some false then s.castLate (addrOff q.addr) q.data (castClass q.addr) else s
  | some _ =>
    let b := s.freeBit
    if !b.1 then b.2
    else if q.wr then (b.2.regWrite q.addr q.data []).2
    else match readsQueue q.addr with
      | some (i, n) => b.2.readQueueWord tag i n {}
      | none => b.2

/-- REGISTER_RESPONSE_TIMEOUT (R82): a request has been outstanding for 8,192 CFG cycles; it is reported NO_RESPONSE, and its later
answer is discarded. The row's operands name the request: its tag, and what it asked. -/
def execRegisterResponseTimeout (tag : BitVec 4) (wr : Bool) (addr : BitVec 21) (data : W64) (s : State) : Outcome :=
  match s.cp.out.find? fun r => r.tag == tag && r.ask == { wr := wr, addr := addr, data := data } with
  | none => .next s
  | some r =>
    guarded (s.chanUp && decide (8192 ≤ elapsed (s.now cfgIsl) r.at_)) s
      ((({ s with cp := { s.cp with out := s.cp.out.filter fun q => q.tag != tag } } : State).lateEffect tag r.ask).answer
        tag ansNoResponse)

end Sys2Proof.Machine
end

