-- ==== Sys2Proof/Machine/Startup.lean ====
section
/-! DEFINITION. Start-up (R500-R512): clocks, CFG's self-test, the memory BIST and what an island does as it enters RUN, the reload of the
Ephemeris (R476), CMD's enabling, READY, and CFG's check windows (R103). -/

namespace Sys2Proof.Machine

/-! Clocks, tests, activity. -/

/-- ISLAND_CLOCK_START (R21): the island's clock runs; CLK_SEEN is set, unless por_n holds it clear. -/
def execIslandClockStart (k : IslandNo) (s : State) : Outcome :=
  guarded (!(s.isl k).clkRun) s (s.onIsl k fun i => { i with clkRun := true, clkSeen := i.clkSeen || !s.por })

/-- ISLAND_CLOCK_STOP (R22, R81, R101, R103): an island's clock stops. The integrator may do so in reset only; an island whose clock
stops outside it stands still, answers no register request, and loses its LIVE bit at the next check window. -/
def execIslandClockStop (k : IslandNo) (s : State) : Outcome :=
  guarded (s.isl k).clkRun s (s.onIsl k fun i => { i with clkRun := false })

/-- CFG_SELF_TEST_END (R501): after a failure bit 52 of PRAUX_BIST_FAIL is set, and CFG takes no stream. -/
def execCfgSelfTestEnd (pass : Bool) (s : State) : Outcome :=
  guarded ((s.isl cfgIsl).live && s.cfg.selfTest.isNone) s
    ({ s with cfg := { s.cfg with
      selfTest := some pass, bistFail := if pass then s.cfg.bistFail else setBit s.cfg.bistFail cfgIsl.val true } })

/-- Whether every wrapper is transparent, so that the block works (R108). -/
def State.transparent (s : State) : Bool := !s.test.wrstn

/-- The island's segment is put in the path of the test network (R109). -/
def State.openSegment (s : State) (k : IslandNo) : State := { s with test := { s.test with sib := setBit s.test.sib k.val true } }

/-- What the test network reads of the BIST controllers of an island in its path: REFUSED, and the result of the last run it started
(R109); nothing of an island out of its path. Such a read disturbs nothing. -/
def State.networkRead (s : State) (k : IslandNo) : Option (Bool × Option Bool) :=
  if s.test.sib.getLsbD k.val then some ((s.isl k).bistRefused, (s.isl k).bistNet) else none

/-- BIST_NETWORK_START (R109): a run started over the test network, whose path then holds the island's segment, is refused on an island
out of reset; on one in reset it runs, and its result is free (log entry 1). -/
def execBistNetworkStart (k : IslandNo) (s : State) : Outcome :=
  let t := s.openSegment k
  if (s.isl k).inReset then
    let b := t.freeBit
    .next (b.2.onIsl k fun i => { i with bistNet := some b.1 })
  else .next (t.onIsl k fun i => { i with bistRefused := true })

/-- ACT_UP_EXPIRE (R106): ps_act_up falls 1,024 slice cycles after it rose. -/
def execActUpExpire (p : SliceNo) (s : State) : Outcome :=
  guarded ((s.isl (psIsl p)).live && (s.slice p).actUp && decide (1024 ≤ elapsed (s.now (psIsl p)) (s.slice p).actAt)) s
    (s.onSlice p fun x => { x with actUp := false })

/-! Entering RUN (R500, R511). -/

/-- The islands that own a queue in the pool of quadrant x (R24, R25). -/
def poolOwners (x : QuadNo) : List IslandNo :=
  xqIsl x :: (List.range 8).map (localSlice x) ++ (List.range 4).map (localGroup x) ++
    (if x = 0 || x = 2 then (List.range 4).map (localService x) else [])

/-- A slice takes the state, GEN and image of every slot from SPG (R218). -/
def State.copySlots (s : State) (p : SliceNo) : State :=
  let copy (g : SpgSlot) : SlotCopy := { st := g.st, gen := g.gen, draining := g.draining, image := g.image }
  s.onSlice p fun x => { x with slots := s.spg.slots.map copy }

/-- SPG takes its slots from a slice's copies after its own reset (R220): what was LOADING is FREE, and holds have ended. -/
def slotOfCopy (c : SlotCopy) : SpgSlot :=
  { st := if c.st = .loading then .free else c.st, gen := c.gen, image := c.image }

/-- A slice's copy after SPG's reset: LOADING has gone, a hold has ended, and a slot that is RETIRING is reported afresh. -/
def SlotCopy.afterSpg (c : SlotCopy) : SlotCopy :=
  { c with st := if c.st = .loading then .free else c.st, draining := false, reported := false }

/-- SPG enters RUN (R220): every slot as the lowest-numbered slice in RUN holds it, or FREE where none is; slot commands in progress or
waiting complete TABLE_ABORTED. -/
def State.spgEnters (s : State) : State :=
  let from_ := (List.finRange 32).find? fun p => s.sliceIn p && s.running (psIsl p)
  let slots : Vector SpgSlot 64 := match from_ with
    | some p => (s.slice p).slots.map slotOfCopy
    | none => Vector.replicate 64 {}
  let s1 := s.spgStops
  let s2 : State := { s1 with
    spg := { slots := slots, freeOrder := (List.finRange 64).filter fun n => slots[n].st == .free, slotSel := s1.spg.slotSel }
    slices := s1.slices.mapIdx fun p x =>
      if s1.sliceIn (Fin.ofNat 32 p) then { x with slots := x.slots.map SlotCopy.afterSpg } else x }
  (List.finRange 64).foldl (fun s n => s.unparkAll n) s2

/-- The free extents of the devices, given what the directory and the commits under way hold (R166, R421): of a joint device those of
the home PS2k, twice as many extents of each port. -/
def State.freeFor (s : State) (dir : List DirEnt) : Vector (List FreeRun) 32 :=
  let c := s.ephConf
  let lines (p : Nat) : Nat := if c.present p then dataLines (c.lines p) else 0
  let all (p : Nat) : Nat :=
    if c.joined (p / 2) then (if p % 2 = 0 then min (lines p) (lines (p + 1)) / 8 else 0) else lines p / 16
  let held (p : Nat) : List (Nat × Nat) :=
    dir.flatMap fun e => if e.noFrame then [] else match e.kind with
      | .run sl _ count base => if sl.val = p then [(base, count * e.extents)] else []
      | .span sl _ base => if sl.val = p then [(base, e.extents)] else []
      | _ => []
  let claimed (p : Nat) : List (Nat × Nat) :=
    (s.slices.toList.flatMap (·.store.commits)).filterMap fun m =>
      if m.target.val = p && m.extents != 0 then some (m.base / 16, m.extents) else none
  Vector.ofFn fun (p : Fin 32) =>
    let n := all p.val
    (held p.val ++ claimed p.val).foldl (fun l h => (takeAt l h.1 h.2).getD l)
      (if n = 0 then [] else [{ first := 0, count := n }])

/-- The Ephemeris enters RUN (R476, R511): it reloads from MIR where MIR holds something, and accesses wait meanwhile; else it starts
with what it holds. -/
def State.ephEnters (s : State) : State :=
  let has := !s.eph.mirDir.isEmpty || !s.eph.mirMap.objs.isEmpty || !s.eph.mirMap.ovrs.isEmpty
  s.onEph fun h => { h with
    free := s.freeFor h.dir, reloading := s.awake mirIsl && has, reloadAt := s.now ephIsl }

/-- MIR enters RUN (R461, log entry 15): it holds copies of the directory, and on a manager of the map. -/
def State.mirEnters (s : State) : State :=
  if s.ephLive then
    s.onEph fun h => { h with mirDir := h.dir, mirMap := if s.actsFor s.ephConf.domain.toNat then h.map else h.mirMap }
  else s

/-- Island k enters RUN. -/
def State.enterRun (s : State) (k : IslandNo) : State :=
  let s1 := s.onIsl k fun i => (i.enter .run).reportEmptied k
  if k.val < 32 then (s1.copySlots (sliceOf k)).tablesResume k
  else if k = spgIsl then s1.spgEnters
  else if k = ephIsl then s1.ephEnters
  else if k = mirIsl then s1.mirEnters
  else s1.linksOf k

/-! The memory BIST (R502-R505). -/

/-- A slice whose SLICE_EN is clear, with a present port, is served across the pair bridge from start-up (R126, R294). -/
def State.bridgeFromStart (s : State) (p : SliceNo) : State :=
  match s.conf (psIsl p) with
  | none => s
  | some c => if c.present p.val && !c.sliceEn p.val && (s.slice p).mp.en then
      (s.onMp p fun m => { m with bridged := true }).onPair (twinOf p) fun q => { q with serving := true } else s

/-- A port that cannot be in the interleave, because its slice's datapath is shut and no twin serves it, ends step 5 so (R505). -/
def State.leaveOut (s : State) (p : SliceNo) : State :=
  let x := s.slice p
  if s.needsTwin p && x.mp.en && !x.mp.step5 && !s.twinMayServe p then
    ((s.onMp p fun m => { m with step5 := true }).portEnds p false).shutDevice p
  else s

/-- The shutter of an island that its BIST has failed (R502): for a slice that of the datapath. -/
def State.shutFailed (s : State) (k : IslandNo) : State :=
  if k.val < 32 then s.shutDatapath (sliceOf k)
  else if k.val < 48 then s.shutGroup (groupOf k)
  else s.shutService k

/-- What the end of a slice's BIST does whether it has passed or not (R504, R505): mp_en rises on a present port. -/
def State.portStarts (s : State) (p : SliceNo) : State :=
  let here := match s.conf (psIsl p) with | some c => c.present p.val | none => false
  let s1 := (s.onMp p fun m => { m with en := here, enAt := s.now (psIsl p) })
  (((s1.bridgeFromStart p).bridgeFromStart (twinOf p)).leaveOut p).leaveOut (twinOf p)

/-- ISLAND_BIST (R500, R502, R504, R505, R512): a pass takes an island into RUN, but CMD, which waits for step 8; a failure closes its
shutter. The island's bit of PRAUX_BIST_FAIL says which. -/
def execIslandBist (k : IslandNo) (pass : Bool) (s : State) : Outcome :=
  let i := s.isl k
  guarded (i.live && k != cfgIsl && i.state == .config && i.conf.isSome && i.bist.isNone) s
    (let s1 := s.onIsl k fun i => { i with bist := some pass }
    let s1 : State := { s1 with cfg := { s1.cfg with bistFail := setBit s1.cfg.bistFail k.val !pass } }
    let s2 := if !pass then s1.shutFailed k else if k = cmdIsl then s1 else s1.enterRun k
    let s3 := if k.val < 32 then s2.portStarts (sliceOf k) else s2
    s3.step7Check)

/-! The reload of the Ephemeris (R476). -/

/-- EPH_RELOAD_END (R476, R478, R511): directory and map stand as MIR holds them, moves that were in progress are aborted, and the block
joins its domain again. -/
def execEphReloadEnd (s : State) : Outcome :=
  let c := s.ephConf
  let d := c.domain.toNat
  let beat := (s.isl mirIsl).dets.any fun e => e.code == 0x0401 && e.lasting
  let acts := c.role == 2 && beat
  guarded ((s.isl ephIsl).live && s.eph.reloading) s
    (let dir := (s.eph.mirDir.filter fun e => !e.incoming).map fun e => { e with inMotion := false }
    let t := s.onEph fun h => { h with
      dir := dir, map := if c.role == 1 || acts then h.mirMap else h.map, free := s.freeFor dir, reloading := false
      acting := if acts then setBit h.acting d true else h.acting
      unmirrored := if acts then setBit h.unmirrored d true else h.unmirrored }
    (t.endStep7 acts).mirDir.beginStep7)

/-! CMD and READY (R500, R503, R509, R510). -/

/-- Whether CMD, the Ephemeris or a quadrant is shut, so that start-up stops after step 7 (R503). -/
def State.startStopped (s : State) : Bool :=
  [cmdIsl, ephIsl, xqIsl 0, xqIsl 1, xqIsl 2, xqIsl 3].any fun k => (s.isl k).state == .shut

/-- Whether step 5 has ended for every present port (R500). -/
def State.portsSettled (s : State) : Bool :=
  (List.finRange 32).all fun p => match s.conf cmdIsl with
    | some c => !c.present p.val || (s.slice p).mp.step5 || (s.slice p).devShut
    | none => true

/-- CMD_ENABLE (R500, R503): CMD enters RUN. -/
def execCmdEnable (s : State) : Outcome :=
  let i := s.isl cmdIsl
  guarded (i.live && i.state == .config && i.bist == some true && s.portsSettled && s.eph.step7 && !s.startStopped) s (s.enterRun cmdIsl)

/-- The islands whose RUN makes the block ready (R510). -/
def readyIslands : List IslandNo := [cmdIsl, ephIsl, xqIsl 0, xqIsl 1, xqIsl 2, xqIsl 3]

/-- READY_SET (R507, R510): READY is set, and KEY_MISSING records whether a slot in use is unloaded. -/
def execReadySet (s : State) : Outcome :=
  let missing := match s.cfg.store with
    | some c => (List.finRange 16).any fun n => c.keyUse n.val != 0 && !(s.cfg.keys[n]).loaded
    | none => false
  guarded (s.chanUp && !s.cfg.ready && readyIslands.all s.running) s
    { s with cfg := { s.cfg with ready := true, keyMissing := missing } }

/-- READY_CLEAR (R510): CMD, EPH or a quadrant has left RUN for reset or SHUT. -/
def execReadyClear (s : State) : Outcome :=
  guarded (s.chanUp && s.cfg.ready && readyIslands.any fun k =>
    (s.isl k).inReset || !((s.isl k).state == .run || (s.isl k).state == .quiesced)) s { s with cfg := { s.cfg with ready := false } }

/-! Check windows. -/

/-- A word with bit k set for the islands that satisfy f. -/
def State.islandBits (s : State) (f : Island → Bool) : BitVec 60 :=
  (List.finRange 60).foldl (fun v k => setBit v k.val (f (s.isl k))) 0

/-- CHECK_WINDOW_CLOSE (R103, R521, R523): every 4,096 CFG cycles the LIVE bits and the block-wide summaries are brought up to date. -/
def execCheckWindowClose (s : State) : Outcome :=
  guarded (s.chanUp && decide (4096 ≤ elapsed (s.now cfgIsl) s.cfg.winAt)) s
    ({ s with
      cfg := { s.cfg with
        liveMap := s.islandBits fun i => !i.inReset && i.cycle != i.winCycle
        shutMap := s.islandBits fun i => i.state == .shut
        haltedMap := s.eph.halted, lostSeen := s.log.lostSeen, winAt := s.now cfgIsl }
      islands := s.islands.map fun i => { i with winCycle := i.cycle } })

end Sys2Proof.Machine
end

