-- ==== Sys2Proof/Machine/Reset.lean ====
section
/-! DEFINITION. Resets (R40, R41, R45, R98-R102, R180, R218, R220, R459, R471-R476, R493, R496): what the reset of each island loses, its
release, and power-on reset. -/

namespace Sys2Proof.Machine

/-! A slice. -/

/-- A home read that a slice's reset ends: whom it was for will not get it; a requester elsewhere finds out by its timeout (R436). -/
def State.readLost (s : State) (p : SliceNo) (j : RJob) : State :=
  match j.dest with
  | .eye sl id => s.readFailed sl id fsUnreachable
  | .move no | .moveLine no _ _ => s.moveFails no
  | .almanac .. => s.deliver p j.obj j.plate j.dest { unwritten := true }
  | _ => s

/-- A line that the Survey had asked of the slice's port will not come. -/
def State.lineLost (s : State) (r : MemReq) : State :=
  match r.why with
  | .scrub _ => s.lineCame r [] false
  | .rebuild .. => s.lineCame r [] true
  | _ => s

/-- A write that a slice's reset ends. -/
def State.writeLost (s : State) (run : Option Nat) (slot : Option (SliceNo × Fin 64)) (heal : Bool) (oid : BitVec 40) (k : BitVec 24) :
    State :=
  let s1 := (s.failRun run stUnreachable).releaseSlot slot
  if heal then s1.healStored oid k false else s1

/-- A write job that a slice's reset ends: its commit, or the move it belongs to, has failed. -/
def State.jobLost (s : State) (j : WJob) : State :=
  let s1 := s.writeLost j.run j.slot j.heal j.oid j.plate
  match j.commit with
  | some c =>
    let upd (m : Commit) : Commit := { m with left := m.left - 1, failed := true }
    let inSlice (x : Slice) : Slice := { x with store := { x.store with commits := mapIf (fun m => m.id == c) upd x.store.commits } }
    ({ s1 with slices := s1.slices.map inSlice } : State).abandonIfLost c
  | none => s1

/-- A commit of the slice that its reset ends: what it has placed elsewhere is freed, the old frame stays in force. -/
def State.commitLost (s : State) (p : SliceNo) (m : Commit) : State :=
  let s1 := s.failRun m.run stUnreachable
  if m.st = .inPlace then s1.onSlice p fun x => { x with store := { x.store with commits := x.store.commits.filter fun c => c.id != m.id } }
  else s1.abandonCommit p { m with answers := [] }

/-- A frame that was on its way to the slice: the move fails, and its source is told (R439). -/
def State.dstLost (s : State) (d : MvDst) : State :=
  let gone (e : MvDst) : MvDst := { e with failed := true, left := 0 }
  ({ s with eph := { s.eph with dsts := mapIf (fun e => e == d) gone s.eph.dsts } } : State).copyDoneIfAll d.obj.oid d.span.toNat

/-- A request of the slice's own unit that its reset gives up. -/
def State.unitReqLost (s : State) (r : FabReq) : State :=
  match r.why with
  | .write run slot _ => s.writeLost run slot run.isNone r.oid r.idx
  | .reduce run => s.failRun (some run) stUnreachable
  | _ => s

/-- The home duties of slice q, as the reset of its port, or of one of the ports of its joint device, ends them. -/
def State.homeLost (s : State) (q : SliceNo) : State :=
  let h := (s.slice q).home
  let s1 := h.reads.foldl (fun (s : State) j => s.readLost q j) s
  let s2 := h.writes.foldl State.jobLost s1
  let s3 := h.inq.foldl (fun (s : State) w => s.writeLost w.run w.slot w.heal w.obj.oid w.plate) s2
  let s4 := (s3.eph.dsts.filter fun d => d.slice == q && !d.told).foldl State.dstLost s3
  let mine := s4.eph.places.filter fun pl => pl.slice == q
  let s5 := mine.foldl (fun (s : State) pl => match pl.incoming with
    | some src => s.refuseMove q src pl.obj.oid pl.span fsUnreachable
    | none => s) s4
  ({ s5 with eph := { s5.eph with places := s5.eph.places.filter fun pl => pl.slice != q } } : State).onSlice q fun x =>
    { x with home := { touched := x.home.touched } }

/-- The reset of slice p (R45, R102, R218, R471-R473): its datapath and its device are lost; the slice holds nothing, and its pins stay. -/
def State.resetSlice (s : State) (p : SliceNo) : State :=
  let s0 := (s.shutDatapath p).loseDevice p
  let lines := (s0.slice p).mp.waiting ++ (((s0.slice p).mp.tags.filter fun t => !t.timedOut) ++ (s0.slice p).mp.ahead).map (·.req) ++
    (s0.slice p).mp.back.map (·.2.1)
  let s1 := lines.foldl State.lineLost (s0.homeLost p)
  let s2 := if s1.isJoint p then s1.homeLost (s1.homeSlice p) else s1
  let s3 := (s2.slice p).store.commits.foldl (fun (s : State) m => s.commitLost p m) s2
  let reqs := s3.reqs.filter fun r => r.unit == unitPs p
  let s4 := reqs.foldl State.unitReqLost { s3 with reqs := s3.reqs.filter fun r => r.unit != unitPs p }
  ((s4.bridgeCut (twinOf p)).onPair (twinOf p) fun q => { q with serving := false }).onSlice p fun x => {
    mp := { upPin := x.mp.upPin }, home := { touched := x.home.touched } }

/-! The other islands. -/

/-- The reset of a link group: its lanes' inputs stay (R94). -/
def State.resetGroup (s : State) (g : GroupNo) : State :=
  s.onGroup g fun q => q.afterReset

/-- The reset of a quadrant (R40): every queue of its pool is empty; each island that owns one reports it, at once where it runs. -/
def State.resetQuad (s : State) (x : QuadNo) : State :=
  let cancelled (q : Nat × CQueue) : Option (Nat × CQueue) := if q.2.emptied.cancelled then some (q.1, q.2.emptied) else none
  let s1 := s.onQuad x fun d => { queues := d.queues.filterMap cancelled }
  (poolOwners x).foldl (fun (s : State) k =>
    let s1 := s.onIsl k fun i => { i with emptiedBy := setBit i.emptiedBy x.val true }
    if s.awake k && k != xqIsl x then s1.onIsl k fun i => i.reportEmptied k else s1) s1

/-- The reset of CFG (R102, R180): the configuration and key stores are empty; the other islands keep theirs. -/
def State.resetCfg (s : State) : State := { s with cfg := {}, cp := {} }

/-- Commits of commands that have gone with CMD: they fail once their writes have been answered (R465). -/
def Slice.orphans (x : Slice) (ids : List Nat) : Slice :=
  let mine (m : Commit) : Bool := match m.run with | some r => ids.contains r && m.st != .inPlace | none => false
  { x with store := { x.store with commits := mapIf mine (fun m => { m with failed := true }) x.store.commits } }

/-- A halt ends once both EPH and CMD have been reset (R468). -/
def State.unhalt (s : State) : State :=
  if s.eph.haltCmdReset && s.eph.haltEphReset then { s with eph := { s.eph with halted := 0 } } else s

/-- The reset of CMD (R102, R468): every command is gone; the network path's pin stays. -/
def State.resetCmd (s : State) : State :=
  let ids := s.cmd.runs.map (·.id)
  let s1 := ids.foldl (fun (s : State) id => s.purge id stAborted) s
  let s2 : State := if s.consistent then { s1 with slices := s1.slices.map fun x => x.orphans ids } else s1
  ({ s2 with
    cmd := { pathPin := s2.cmd.pathPin }
    reqs := s2.reqs.filter fun r => r.unit != unitCmd
    eph := { s2.eph with haltCmdReset := true } } : State).unhalt

/-- The reset of EPH (R468, R476): directory, map, cache and tables are gone; what MIR holds stays, and so does what the frames in
memory hold. Local requests that were parked are asked for again. -/
def State.resetEph (s : State) : State :=
  let h := s.eph
  let again (s : State) (q : Park) : State := match q.who with | .eye p id => s.askAgain p id | .fabric _ => s
  let unplace (x : Slice) : Slice :=
    { x with store := { x.store with commits := mapIf (fun m => m.st == .placing) (fun m => { m with st := .ready }) x.store.commits } }
  let s1 : State := { s with
    eph := {
      mirDir := h.mirDir, mirMap := h.mirMap, written := h.written, poisoned := h.poisoned, lostPlates := h.lostPlates
      moved := h.moved, moveNo := h.moveNo, gone := h.gone, beatAt := h.beatAt, beatSeen := h.beatSeen, halted := h.halted
      haltCmdReset := h.haltCmdReset, haltEphReset := true }
    reqs := s.reqs.filter fun r => r.unit != unitEph
    slices := s.slices.map unplace }
  (h.park.foldl again s1).unhalt

/-- The reset of MIR: its copies are gone. -/
def State.resetMir (s : State) : State :=
  { s with eph := { s.eph with mirDir := [], mirMap := {}, beatSeen := false, beatAt := 0 } }

/-- The reset of LOG (R493): reports on their way wait. -/
def State.resetLog (s : State) : State := { s with log := { arriving := s.log.arriving } }

/-- The reset of SPG (R220): its slots and their commands are dealt with as it enters RUN. -/
def State.resetSpg (s : State) : State :=
  { s with spg := { slots := s.spg.slots, freeOrder := s.spg.freeOrder, builds := s.spg.builds, closed := s.spg.closed } }

/-- The reset of SVY (R459): heals begin anew once it runs; commands that scrub have lost their unit. -/
def State.resetSvy (s : State) : State :=
  let s1 := s.svy.scrubs.foldl (fun (s : State) j => s.failRun j.run stUnreachable) s
  let calm (x : Slice) : Slice := { x with
    eye := x.eye.dropRun 0, store := { x.store with queue := x.store.queue.filter fun e => !e.heal } }
  { s1 with
    svy := {}
    eph := { s1.eph with dark := s1.eph.dark.map fun d => { d with healing := false } }
    reqs := s1.reqs.filter fun r => r.unit != unitSvy
    slices := s1.slices.map calm }

/-- What the reset of island k loses beside its queues. -/
def State.resetUnit (s : State) (k : IslandNo) : State :=
  if k.val < 32 then s.resetSlice (sliceOf k)
  else if k.val < 48 then s.resetGroup (groupOf k)
  else if k.val < 52 then s.resetQuad (quadrantOf k)
  else match k.val with
    | 52 => s.resetCfg | 53 => s.resetCmd | 54 => s.resetEph | 55 => s.resetMir | 56 => s.resetLog
    | 57 => s.resetSpg | 58 => s.resetSvy | _ => { s with inj := {} }

/-- The arming at an island that is reset ends (R496). -/
def State.resetArming (s : State) (k : IslandNo) : State :=
  if s.inj.armedAt = some k then { s with inj := { s.inj with armedAt := none, cancelSeen := true } } else s

/-- ISLAND_RESET_ASSERT (R40, R41, R98, R100, R102): the reset of a quadrant has the effects of its loss on the work of the block
(R474). DESIGN CHOICE (log entry 121): it raises no `attn`, which is no effect on work or data, and R104 ties it to a recorded event. -/
def execIslandResetAssert (k : IslandNo) (s : State) : Outcome :=
  guarded (!(s.isl k).inReset) s
    (let s1 := (s.resetUnit k).resetArming k
    let s2 := ({ s1 with quads := Vector.ofFn fun (x : Fin 4) => s1.quads[x].afterReset x k } : State).onIsl k Island.cleared
    if 48 ≤ k.val && k.val < 52 then s2.quadLost else s2)

/-! The release. -/

/-- A slice and a link group copy their keys from the key store (R180). -/
def State.copyKeys (s : State) (k : IslandNo) : State :=
  match s.cfg.store with
  | none => s
  | some c =>
    let key (n : Fin 16) : Option (List Byte) := if c.keyUsedBy n.val k && (s.cfg.keys[n]).loaded then some (s.cfg.keys[n]).key else none
    if k.val < 32 then s.onSlice (sliceOf k) fun x => { x with keys := Vector.ofFn key }
    else if k.val < 48 then s.onGroup (groupOf k) fun q => { q with held := (List.finRange 16).findSome? key }
    else s

/-- An island leaves reset (R21, R100, R140): RESETS rises, and it is configured from CFG's store, where that holds a stream. -/
def Island.leaves (i : Island) (c : Option Conf) : Island :=
  { i with inReset := false, state := .config, resets := sat16Inc i.resets, cycle := 0, seq := 0, conf := c, liveRecs := [] }

/-- ISLAND_RESET_RELEASE (R99, R100, R140, R180): the island's clock has synchronised the release; it waits in CONFIG. -/
def execIslandResetRelease (k : IslandNo) (s : State) : Outcome :=
  guarded (!s.por && (s.isl k).inReset && (s.isl k).clkRun) s
    ((s.onIsl k fun i => i.leaves (if k = cfgIsl then none else s.cfg.store)).copyKeys k)

/-! Power-on reset. -/

/-- An island held by power-on reset: its clock may run. -/
def Island.poweredOff (i : Island) : Island := { (default : Island) with clkRun := i.clkRun }

/-- POR_ASSERT (R99, R180): every island is in reset, and all state that survives an island's reset is cleared; the pins stay. -/
def execPorAssert (s : State) : Outcome :=
  .next { State.reset with
    islands := s.islands.map Island.poweredOff
    slices := s.slices.map fun x => { mp := { upPin := x.mp.upPin } }
    groups := s.groups.map fun q => q.afterReset
    cmd := { pathPin := s.cmd.pathPin }
    freeIdx := s.freeIdx, nextId := s.nextId, tickNo := s.tickNo, pending := s.pending }

/-- POR_RELEASE (R21, R99): islands may leave reset; CLK_SEEN is set where a clock runs. -/
def execPorRelease (s : State) : Outcome :=
  guarded s.por s { s with por := false, islands := s.islands.map fun i => { i with clkSeen := i.clkSeen || i.clkRun } }

end Sys2Proof.Machine
end

