-- ==== Sys2Proof/Machine/Dispatch.lean ====
section
/-! DEFINITION. Which meaning each command has: one arm per constructor, in the order of the opcode table. -/

namespace Sys2Proof.Machine

/-- The effect of a command on everything but the queue. -/
def exec (i : Instr) (s : State) : Host.Outcome State Fault Refusal :=
  match i with
  | .porAssert => Sys2Proof.Machine.execPorAssert s
  | .porRelease => Sys2Proof.Machine.execPorRelease s
  | .islandResetAssert k => Sys2Proof.Machine.execIslandResetAssert k s
  | .islandResetRelease k => Sys2Proof.Machine.execIslandResetRelease k s
  | .checkWindowClose => Sys2Proof.Machine.execCheckWindowClose s
  | .packetOpen x q maxWords written => Sys2Proof.Machine.execPacketOpen x q maxWords written s
  | .packetClose x q more tag poisonIn => Sys2Proof.Machine.execPacketClose x q more tag poisonIn s
  | .packetVisible x q => Sys2Proof.Machine.execPacketVisible x q s
  | .packetConsume x q parity => Sys2Proof.Machine.execPacketConsume x q parity s
  | .queueWriteFull x q w => Sys2Proof.Machine.execQueueWriteFull x q w s
  | .quadrantForward x q dest parity => Sys2Proof.Machine.execQuadrantForward x q dest parity s
  | .mpUpRise p => Sys2Proof.Machine.execMpUpRise p s
  | .mpUpStable p => Sys2Proof.Machine.execMpUpStable p s
  | .mpUpFall p => Sys2Proof.Machine.execMpUpFall p s
  | .mpNotReady p => Sys2Proof.Machine.execMpNotReady p s
  | .mpDownForced p => Sys2Proof.Machine.execMpDownForced p s
  | .mpRequestIssue p rd wr => Sys2Proof.Machine.execMpRequestIssue p rd wr s
  | .mpWriteDataBeat p => Sys2Proof.Machine.execMpWriteDataBeat p s
  | .mpReadResponse p tag data poison err => Sys2Proof.Machine.execMpReadResponse p tag data poison err s
  | .mpWriteResponse p tag err => Sys2Proof.Machine.execMpWriteResponse p tag err s
  | .mpTagTimeout p tag => Sys2Proof.Machine.execMpTagTimeout p tag s
  | .mpHeldRequestTimeout p index => Sys2Proof.Machine.execMpHeldRequestTimeout p index s
  | .exportBeat p => Sys2Proof.Machine.execExportBeat p s
  | .exportAbandon p => Sys2Proof.Machine.execExportAbandon p s
  | .importStreamOpen p => Sys2Proof.Machine.execImportStreamOpen p s
  | .importBeat p stream beat fmt data scale last poison => Sys2Proof.Machine.execImportBeat p stream beat fmt data scale last poison s
  | .importPlateTimeout p stream => Sys2Proof.Machine.execImportPlateTimeout p stream s
  | .importStreamIdleTimeout p stream => Sys2Proof.Machine.execImportStreamIdleTimeout p stream s
  | .registerWrite tag ask hold via => Sys2Proof.Machine.execRegisterWrite tag ask hold via s
  | .broadcastWrite tag addr data via => Sys2Proof.Machine.execBroadcastWrite tag addr data via s
  | .registerResponseTimeout tag wr addr data => Sys2Proof.Machine.execRegisterResponseTimeout tag wr addr data s
  | .doorbell bell => Sys2Proof.Machine.execDoorbell bell s
  | .nwPathUpRise => Sys2Proof.Machine.execNwPathUpRise s
  | .nwPathUpStable => Sys2Proof.Machine.execNwPathUpStable s
  | .nwPathDown => Sys2Proof.Machine.execNwPathDown s
  | .nwRequestIssue tag => Sys2Proof.Machine.execNwRequestIssue tag s
  | .nwWriteDataBeat => Sys2Proof.Machine.execNwWriteDataBeat s
  | .nwReadBeat tag data last err => Sys2Proof.Machine.execNwReadBeat tag data last err s
  | .nwWriteAck tag err => Sys2Proof.Machine.execNwWriteAck tag err s
  | .nwTagTimeout tag => Sys2Proof.Machine.execNwTagTimeout tag s
  | .pmaRxLockFall g lane => Sys2Proof.Machine.execPmaRxLockFall g lane s
  | .attnCauseClear mask => Sys2Proof.Machine.execAttnCauseClear mask s
  | .actUpExpire p => Sys2Proof.Machine.execActUpExpire p s
  | .bistNetworkStart k => Sys2Proof.Machine.execBistNetworkStart k s
  | .streamWord w => Sys2Proof.Machine.execStreamWord w s
  | .streamTruncated => Sys2Proof.Machine.execStreamTruncated s
  | .streamResyncEnd => Sys2Proof.Machine.execStreamResyncEnd s
  | .quiesceRequest k => Sys2Proof.Machine.execQuiesceRequest k s
  | .islandQuiesced k => Sys2Proof.Machine.execIslandQuiesced k s
  | .quiesceRelease k => Sys2Proof.Machine.execQuiesceRelease k s
  | .keyCommit data => Sys2Proof.Machine.execKeyCommit data s
  | .guardLineFill p line => Sys2Proof.Machine.execGuardLineFill p line s
  | .guardWritebackTimer p line => Sys2Proof.Machine.execGuardWritebackTimer p line s
  | .frcEncode p => Sys2Proof.Machine.execFrcEncode p s
  | .plateWrite p => Sys2Proof.Machine.execPlateWrite p s
  | .storePlate p => Sys2Proof.Machine.execStorePlate p s
  | .frameClaim p oid span => Sys2Proof.Machine.execFrameClaim p oid span s
  | .indexWrite p oid span => Sys2Proof.Machine.execIndexWrite p oid span s
  | .spanSwing p oid span => Sys2Proof.Machine.execSpanSwing p oid span s
  | .frameFree p oid span => Sys2Proof.Machine.execFrameFree p oid span s
  | .deferredSwings run => Sys2Proof.Machine.execDeferredSwings run s
  | .histogramSend p => Sys2Proof.Machine.execHistogramSend p s
  | .tableBuild => Sys2Proof.Machine.execTableBuild s
  | .slotLive slot => Sys2Proof.Machine.execSlotLive slot s
  | .slotDrainedReport p slot => Sys2Proof.Machine.execSlotDrainedReport p slot s
  | .slotDrainComplete slot => Sys2Proof.Machine.execSlotDrainComplete slot s
  | .slotHoldTimeout slot => Sys2Proof.Machine.execSlotHoldTimeout slot s
  | .plateAdmissible p id => Sys2Proof.Machine.execPlateAdmissible p id s
  | .contextSwitch p ctx => Sys2Proof.Machine.execContextSwitch p ctx s
  | .laneAssign p => Sys2Proof.Machine.execLaneAssign p s
  | .substreamEnd p lane => Sys2Proof.Machine.execSubstreamEnd p lane s
  | .substreamDecodeTimeout p lane => Sys2Proof.Machine.execSubstreamDecodeTimeout p lane s
  | .tableCacheFill p slot => Sys2Proof.Machine.execTableCacheFill p slot s
  | .rowBlockLoad p => Sys2Proof.Machine.execRowBlockLoad p s
  | .passStart p => Sys2Proof.Machine.execPassStart p s
  | .activationRowIssue p failing => Sys2Proof.Machine.execActivationRowIssue p failing s
  | .outputFinal p => Sys2Proof.Machine.execOutputFinal p s
  | .accumulatorDrain p => Sys2Proof.Machine.execAccumulatorDrain p s
  | .pairJoin pair => Sys2Proof.Machine.execPairJoin pair s
  | .pairSeparate pair => Sys2Proof.Machine.execPairSeparate pair s
  | .portEndReadyNotice p => Sys2Proof.Machine.execPortEndReadyNotice p s
  | .twinTakeUp p => Sys2Proof.Machine.execTwinTakeUp p s
  | .engineChoice p => Sys2Proof.Machine.execEngineChoice p s
  | .chunkQueue p => Sys2Proof.Machine.execChunkQueue p s
  | .taskRun p lane => Sys2Proof.Machine.execTaskRun p lane s
  | .workSteal p lane => Sys2Proof.Machine.execWorkSteal p lane s
  | .spillRecordWrite p => Sys2Proof.Machine.execSpillRecordWrite p s
  | .groupEnd p => Sys2Proof.Machine.execGroupEnd p s
  | .drainRound p => Sys2Proof.Machine.execDrainRound p s
  | .entryFetch q => Sys2Proof.Machine.execEntryFetch q s
  | .staleRefetch q => Sys2Proof.Machine.execStaleRefetch q s
  | .nop q => Sys2Proof.Machine.execNop q s
  | .plateMatmul q => Sys2Proof.Machine.execPlateMatmul q s
  | .exportCmd q => Sys2Proof.Machine.execExportCmd q s
  | .importCmd q => Sys2Proof.Machine.execImportCmd q s
  | .compress q => Sys2Proof.Machine.execCompress q s
  | .recode q => Sys2Proof.Machine.execRecode q s
  | .move q => Sys2Proof.Machine.execMove q s
  | .copy q => Sys2Proof.Machine.execCopy q s
  | .prefetch q => Sys2Proof.Machine.execPrefetch q s
  | .evict q => Sys2Proof.Machine.execEvict q s
  | .pin q => Sys2Proof.Machine.execPin q s
  | .unpin q => Sys2Proof.Machine.execUnpin q s
  | .reduce q => Sys2Proof.Machine.execReduce q s
  | .hostRead q => Sys2Proof.Machine.execHostRead q s
  | .hostWrite q => Sys2Proof.Machine.execHostWrite q s
  | .signal q => Sys2Proof.Machine.execSignal q s
  | .wait q => Sys2Proof.Machine.execWait q s
  | .waitRelease q => Sys2Proof.Machine.execWaitRelease q s
  | .fence q => Sys2Proof.Machine.execFence q s
  | .tableLoad q => Sys2Proof.Machine.execTableLoad q s
  | .tableRetire q => Sys2Proof.Machine.execTableRetire q s
  | .scrub q => Sys2Proof.Machine.execScrub q s
  | .commandComplete run => Sys2Proof.Machine.execCommandComplete run s
  | .cqRecordHeldWrite cq => Sys2Proof.Machine.execCqRecordHeldWrite cq s
  | .hostCompletionWrite run => Sys2Proof.Machine.execHostCompletionWrite run s
  | .queueConfigWrite tag addr data via => Sys2Proof.Machine.execQueueConfigWrite tag addr data via s
  | .queueReset q newHead halt resume => Sys2Proof.Machine.execQueueReset q newHead halt resume s
  | .queueHalt q resume => Sys2Proof.Machine.execQueueHalt q resume s
  | .queueResume q => Sys2Proof.Machine.execQueueResume q s
  | .cqRead tag cq parity => Sys2Proof.Machine.execCqRead tag cq parity s
  | .markerReceive g lane w => Sys2Proof.Machine.execMarkerReceive g lane w s
  | .frameReceive g words => Sys2Proof.Machine.execFrameReceive g words s
  | .flitSend g parity => Sys2Proof.Machine.execFlitSend g parity s
  | .replayTimeout g => Sys2Proof.Machine.execReplayTimeout g s
  | .trainingTimeout g => Sys2Proof.Machine.execTrainingTimeout g s
  | .linkRetrain g => Sys2Proof.Machine.execLinkRetrain g s
  | .linkRestart g => Sys2Proof.Machine.execLinkRestart g s
  | .fabricPacketArrive x j v parity => Sys2Proof.Machine.execFabricPacketArrive x j v parity s
  | .peerQueueDispatch x v parity => Sys2Proof.Machine.execPeerQueueDispatch x v parity s
  | .requestTimeout unit tid => Sys2Proof.Machine.execRequestTimeout unit tid s
  | .rdReq p src oid plate => Sys2Proof.Machine.execRdReq p src oid plate s
  | .rdRsp p tid status newHome plate => Sys2Proof.Machine.execRdRsp p tid status newHome plate s
  | .wrReq p src oid plate data => Sys2Proof.Machine.execWrReq p src oid plate data s
  | .lookup src oid span => Sys2Proof.Machine.execLookup src oid span s
  | .lookupRsp tid status object override => Sys2Proof.Machine.execLookupRsp tid status object override s
  | .register src record => Sys2Proof.Machine.execRegister src record s
  | .objReq src oid => Sys2Proof.Machine.execObjReq src oid s
  | .objRsp tid status record => Sys2Proof.Machine.execObjRsp tid status record s
  | .cmdx src opcode words => Sys2Proof.Machine.execCmdx src opcode words s
  | .spanMoveStart index => Sys2Proof.Machine.execSpanMoveStart index s
  | .mvStart src oid span newHome moveNo => Sys2Proof.Machine.execMvStart src oid span newHome moveNo s
  | .mvData p src oid plate segment line data => Sys2Proof.Machine.execMvData p src oid plate segment line data s
  | .copyDone src oid span status newHome => Sys2Proof.Machine.execCopyDone src oid span status newHome s
  | .commit src oid span newHome abort why => Sys2Proof.Machine.execCommit src oid span newHome abort why s
  | .mirror src entries => Sys2Proof.Machine.execMirror src entries s
  | .commitAck oid span newHome => Sys2Proof.Machine.execCommitAck oid span newHome s
  | .cmdxResult tid status plates => Sys2Proof.Machine.execCmdxResult tid status plates s
  | .fabricAck unit tid status newHome plates => Sys2Proof.Machine.execFabricAck unit tid status newHome plates s
  | .free src oid span => Sys2Proof.Machine.execFree src oid span s
  | .pinSet src oid span pinned => Sys2Proof.Machine.execPinSet src oid span pinned s
  | .evictReq src oid span tier => Sys2Proof.Machine.execEvictReq src oid span tier s
  | .join src role icount islice freeExtents => Sys2Proof.Machine.execJoin src role icount islice freeExtents s
  | .occ src freeExtents freeEntries => Sys2Proof.Machine.execOcc src freeExtents freeEntries s
  | .occSend => Sys2Proof.Machine.execOccSend s
  | .sig src set counter value => Sys2Proof.Machine.execSig src set counter value s
  | .redData p src oid plate rcc data poison => Sys2Proof.Machine.execRedData p src oid plate rcc data poison s
  | .detectorEvent k e => Sys2Proof.Machine.execDetectorEvent k e s
  | .detectorWindowStart k code inst => Sys2Proof.Machine.execDetectorWindowStart k code inst s
  | .healStart => Sys2Proof.Machine.execHealStart s
  | .healEnd oid plate => Sys2Proof.Machine.execHealEnd oid plate s
  | .haltSet mask => Sys2Proof.Machine.execHaltSet mask s
  | .patrolBurst => Sys2Proof.Machine.execPatrolBurst s
  | .auditCompare differs => Sys2Proof.Machine.execAuditCompare differs s
  | .mirrorBeat => Sys2Proof.Machine.execMirrorBeat s
  | .reportSend k poisoned => Sys2Proof.Machine.execReportSend k poisoned s
  | .logReportTake => Sys2Proof.Machine.execLogReportTake s
  | .stagedAppend => Sys2Proof.Machine.execStagedAppend s
  | .logRead tag parity => Sys2Proof.Machine.execLogRead tag parity s
  | .logCodeSeenClear => Sys2Proof.Machine.execLogCodeSeenClear s
  | .injArm tag count spacing via => Sys2Proof.Machine.execInjArm tag count spacing via s
  | .injCancel => Sys2Proof.Machine.execInjCancel s
  | .islandSnap k freeze => Sys2Proof.Machine.execIslandSnap k freeze s
  | .prauxSnap freeze => Sys2Proof.Machine.execPrauxSnap freeze s
  | .islandBist k pass => Sys2Proof.Machine.execIslandBist k pass s
  | .linkBringupBound g => Sys2Proof.Machine.execLinkBringupBound g s
  | .mgrStepBound => Sys2Proof.Machine.execMgrStepBound s
  | .joinResend => Sys2Proof.Machine.execJoinResend s
  | .cmdEnable => Sys2Proof.Machine.execCmdEnable s
  | .readySet => Sys2Proof.Machine.execReadySet s
  | .readyClear => Sys2Proof.Machine.execReadyClear s
  | .pmaTxRdyChange g lane up => Sys2Proof.Machine.execPmaTxRdyChange g lane up s
  | .markerMissing g lane => Sys2Proof.Machine.execMarkerMissing g lane s
  | .islandClockStart k => Sys2Proof.Machine.execIslandClockStart k s
  | .islandClockStop k => Sys2Proof.Machine.execIslandClockStop k s
  | .cfgSelfTestEnd pass => Sys2Proof.Machine.execCfgSelfTestEnd pass s
  | .ephReloadEnd => Sys2Proof.Machine.execEphReloadEnd s
  | .freeRunOverflowMerge => Sys2Proof.Machine.execFreeRunOverflowMerge s

end Sys2Proof.Machine
end

