-- ==== Sys2Proof/Machine/Tick.lean ====
section
/-! DEFINITION. What passes on an empty queue: each running island's cycle counter advances by some number of cycles
(R19); the manual gives no relation between island clocks, so the number is free (log entry 2). Counters of cycles count them
(R76), the beat intervals that end in them are judged (R477), and CMD acts on the doorbells it holds (R84). -/

namespace Sys2Proof.Machine

/-- The cycles that pass in island k in this idle step. -/
def State.passed (s : State) (k : Nat) : Nat := Config.cyclesPassed s.tickNo k

/-- Whether a lane of slice p's SME waits for the spill buffer (R308). -/
def State.spillWaits (s : State) (p : SliceNo) : Bool :=
  match (s.slice p).dpe.job with
  | none => false
  | some j => (s.slice p).sme.work.any fun w => match w.left with
    | u :: _ => ((s.slice p).sme.haccAdd (s.logical p) j.np u).isNone | [] => false

/-- The counters of slice p that count slice cycles: plates parked at the Eyepiece, passes held, lanes that wait. -/
def State.cycleCounts (s : State) (p : SliceNo) : List Nat :=
  let x := s.slice p
  (if x.eye.flight.any (·.parked) then [psEyeParked] else []) ++
    (match x.dpe.stall with | 1 => [psDpeStallW] | 2 => [psDpeStallA] | 3 => [psDpeStallAcc] | 4 => [psDpeStallDuty] | _ => []) ++
    (if x.dpe.blkP != 0 && !x.dpe.chosen then [psDpeStallA] else []) ++
    (if s.spillWaits p then [psHaccSpillWait] else [])

/-- Cycles, of the n that pass in slice k, in which its duty limit holds a pass (R125): only under a DUTY below 255. -/
def State.dutyCycles (s : State) (k n : Nat) (i : Island) : Nat :=
  if h : k < 32 then
    match i.conf with
    | some c => if c.duty k < 255 && !(s.slice ⟨k, h⟩).dpe.pass.isEmpty then min n (Config.dutyHeld s.tickNo k) else 0
    | none => 0
  else 0

/-- Island k after n cycles. -/
def State.aged (s : State) (k : Nat) (i : Island) : Island :=
  if !i.live then i
  else
    let n := s.passed k
    let offs := if h : k < 32 then s.cycleCounts ⟨k, h⟩
      else if k = cmdIsl.val && !s.cmd.held.isEmpty then [cmdCqHold] else []
    (offs.foldl (fun (i : Island) o => i.bump o n) { i with cycle := i.cycle + BitVec.ofNat 48 n }).bump psDpeStallDuty (s.dutyCycles k n i)

/-- The beat intervals of island k that end while n cycles pass (R477; log entry 23). -/
def beatsEnded (before : Ctr) (n : Nat) : Nat := (before.toNat + n) / 2 ^ 16 - before.toNat / 2 ^ 16

/-- Intervals that ended badly are events of a detector: those that did, and one more that an injection makes end so (R494). -/
def State.beats (s : State) (k : IslandNo) (code n bad : Nat) : State :=
  if n = 0 then s
  else
    let ev (injected : Bool) : DetEvent := { code := BitVec.ofNat 16 code, inst := 0, injected := injected }
    if (s.isl k).armedFor code 0 then
      (s.useInjection k).onIsl k fun i => { i with detQueue := i.detQueue ++ ev true :: List.replicate (bad - 1) (ev false) }
    else s.onIsl k fun i => { i with detQueue := i.detQueue ++ List.replicate bad (ev false) }

/-- The role of this block in its domain. -/
def State.role (s : State) : Nat := match s.conf ephIsl with | some c => c.role | none => 0

/-- The mirror judges the beat intervals of MIR that have ended: one in which no MIRROR came is an event of MGR_BEAT. -/
def State.mirrorBeats (s t : State) : State :=
  let n := beatsEnded (s.now mirIsl) (s.passed mirIsl.val)
  let got := s.eph.beatSeen && s.eph.beatAt.toNat / 2 ^ 16 == (s.now mirIsl).toNat / 2 ^ 16
  if s.running mirIsl && s.role == 2 then t.beats mirIsl 0x0401 n (if got then n - 1 else n) else t

/-- The primary judges the beat intervals of EPH: one that ends with a MIRROR unacknowledged is an event of MIR_ACK. -/
def State.ackBeats (s t : State) : State :=
  let n := beatsEnded (s.now ephIsl) (s.passed ephIsl.val)
  if s.running ephIsl && s.role == 1 then
    t.beats ephIsl 0x0402 n (if s.reqs.any fun r => r.ptype == ptMirror then n else 0)
  else t

/-- The estimate of slice p's power (R105, R124), whose formula the manual does not give: free, and scaled by the target clock. -/
def State.actWish (s : State) (p : SliceNo) : BitVec 3 :=
  Config.activityEighths s.tickNo p.val (match s.conf (psIsl p) with | some c => c.target p.val | none => nominalMhz p.val)

/-- ps_act_lvl and ps_act_up of a running slice (R105, R106; log entry 1). The level follows the estimate; it rises by more than one
eighth only when ps_act_up has been high for 256 cycles, and otherwise by one eighth at most every 256 cycles. ps_act_up rises when the
slice means to raise its activity, and falls once the higher level is reached; for its fall after 1,024 cycles see ACT_UP_EXPIRE. -/
def State.actStep (s : State) (p : SliceNo) (x : Slice) : Slice :=
  let now := s.now (psIsl p)
  let w := s.actWish p
  if !s.running (psIsl p) then x
  else if w ≤ x.actLvl then
    let y := { x with actLvl := w }
    if !x.actUp && Config.actMoves s.tickNo p.val then { y with actUp := true, actAt := now } else y
  else if x.actUp && 256 ≤ elapsed now x.actAt then { x with actLvl := w, lvlAt := now, actUp := false }
  else if 256 ≤ elapsed now x.lvlAt then { x with actLvl := x.actLvl + 1, lvlAt := now }
  else if !x.actUp && Config.actMoves s.tickNo p.val then { x with actUp := true, actAt := now } else x

/-- Link cycles pass in group g: where an injection is armed at LANE_LOCK for an enabled lane, the lane's marker lock is lost for one of
them (R494). -/
def State.laneCycles (s t : State) (g : GroupNo) : State :=
  let k := lgIsl g
  match (t.isl k).armed with
  | none => t
  | some a =>
    let lane := a.inst.toNat
    if s.awake k && 0 < s.passed k.val && (t.group g).st != .down && lane < 12 && (t.linkLaneEn g).getLsbD lane &&
        (t.isl k).armedFor 0x0201 lane then
      (t.useInjection k).event k { code := 0x0201, inst := a.inst, injected := true }
    else t

/-- What link cycles that pass in group g do. -/
def State.groupCycles (s t : State) (g : GroupNo) : State :=
  (s.laneCycles t g).sendTraining g

/-- Idle time. -/
def tick (s : State) : State :=
  let t : State := { s with
    islands := s.islands.mapIdx fun k i => s.aged k i
    slices := s.slices.mapIdx fun p x => s.actStep (Fin.ofNat 32 p) x
    tickNo := s.tickNo + 1 }
  let u := if s.running cmdIsl then t.ringAll else t
  (List.finRange 16).foldl s.groupCycles (s.ackBeats (s.mirrorBeats u))

end Sys2Proof.Machine
end

