-- ==== Sys2Proof/Safety.lean ====
section
/-! DEFINITION. What the statements call a sound state, and the words they use for what a command leaves as it was. -/

namespace Sys2Proof.Machine

/-- What holds in every state that a run reaches: while por_n is low every island is in reset (R99); an island in reset shows STATE RESET
(R21, R22) and holds no configuration (R102, R140); and the entry store is in canonical form. -/
def State.Inv (s : State) : Prop :=
  (s.por = true → ∀ k, (s.isl k).inReset = true) ∧ (∀ k, (s.isl k).inReset = true → (s.isl k).state = .reset) ∧
    (∀ k, (s.isl k).inReset = true → (s.isl k).conf = none) ∧ Memory.wf s.cmd.store = true

/-- Only island k differs. -/
def OnlyIsland (k : IslandNo) (s t : State) : Prop := t = s.onIsl k fun _ => t.isl k

/-- Only slice p differs. -/
def OnlySlice (p : SliceNo) (s t : State) : Prop := t = s.onSlice p fun _ => t.slice p

/-- Only link group g differs. -/
def OnlyGroup (g : GroupNo) (s t : State) : Prop := t = s.onGroup g fun _ => t.group g

/-- Only crossbar quadrant x differs. -/
def OnlyQuad (x : QuadNo) (s t : State) : Prop := t = s.onQuad x fun _ => t.quad x

/-- The parity checkers of quadrant x see nothing wrong in a packet, no injection is armed at the cell they name, and the packet's
length word says how many words it has (R29, R33, R494). -/
abbrev ReadsClean (x : QuadNo) (o : ParityObs) (p : Pkt) (s : State) : Prop :=
  parityAny o = false ∧ (s.isl (xqIsl x)).armedFor 0x0301 (p.cells.getD o.inCell 0) = false ∧ p.length.toNat = p.words.length

/-- Only CFG's own state differs. -/
def OnlyCfg (s t : State) : Prop := t = { s with cfg := t.cfg }

/-- Only CMD's own state differs. -/
def OnlyCmd (s t : State) : Prop := t = { s with cmd := t.cmd }

/-- Only the Ephemeris differs. -/
def OnlyEph (s t : State) : Prop := t = { s with eph := t.eph }

/-- Only LOG's own state differs. -/
def OnlyLog (s t : State) : Prop := t = { s with log := t.log }

/-- Slice p and the counters and reports of its island differ, and nothing else. -/
def OnlySliceAndIsland (p : SliceNo) (s t : State) : Prop := t = (s.onSlice p fun _ => t.slice p).onIsl (psIsl p) fun _ => t.isl (psIsl p)

end Sys2Proof.Machine
end

