-- ==== Sys2Proof/Certificates/Slice0/Obligations.lean ====
section
/-! DEFINITION. The statements for the provers. -/

open Sys2Proof Sys2Proof.Machine

/-- A step with a command at the front of the queue is that command's effect on the state with the queue's rest. -/
def Obligations.StepRunsFrontCommand : Prop :=
  ∀ (c : Instr) (s : State) (rest : List Instr), s.pending = c :: rest → step s = exec c { s with pending := rest }

/-- Right after power-on reset (R21, R99): por_n is low; every island is in reset with STATE RESET, no configuration, RESETS, CYCLE and
the sequence number 0 and CLK_SEEN clear; no queue of any pool holds a packet; no memory port is enabled and no link group has left DOWN;
CFG holds no configuration and no loaded key; READY is clear; the Logbook's cause register is 0; no command runs and none waits. -/
def Obligations.ResetLeavesBlockInReset : Prop :=
  State.reset.por = true ∧
  (∀ k, (State.reset.isl k).inReset = true ∧ (State.reset.isl k).state = .reset ∧ (State.reset.isl k).conf = none ∧
    (State.reset.isl k).resets = 0 ∧ (State.reset.isl k).cycle = 0 ∧ (State.reset.isl k).seq = 0 ∧ (State.reset.isl k).clkSeen = false) ∧
  (∀ x q, ((State.reset.quad x).queue q).packets = []) ∧ (∀ p, (State.reset.slice p).mp.en = false) ∧
  (∀ g, (State.reset.group g).st = .down) ∧ State.reset.cfg.store = none ∧ (∀ n : Fin 16, State.reset.cfg.keys[n].loaded = false) ∧
  State.reset.cfg.ready = false ∧ State.reset.log.cause = 0 ∧ State.reset.cmd.runs = [] ∧ State.reset.pending = []

/-- The state after reset is sound. -/
def Obligations.InvHoldsAtReset : Prop := State.Inv State.reset

/-- Every step from a sound state, whatever command is in front, leads to a sound state: por_n low holds every island in reset (R99), STATE
reads RESET in reset (R22), an island in reset holds no configuration (R102, R140), and the entry store keeps its canonical form. -/
def Obligations.StepKeepsInv : Prop := ∀ s t : State, s.Inv → step s = .next t → t.Inv

/-- RESETS of an island (R21) changes only by that island's reset release, which adds one up to 0xFFFF, and by power-on reset, which clears
it; idle time leaves it. -/
def Obligations.ResetCountOnlyByReleaseOrPower : Prop :=
  (∀ (c : Instr) (s t : State) (k : IslandNo), exec c s = .next t →
    (t.isl k).resets = (s.isl k).resets ∨
    (c = .islandResetRelease k ∧ (s.isl k).inReset = true ∧ (t.isl k).resets = sat16Inc (s.isl k).resets) ∨
    (c = .porAssert ∧ (t.isl k).resets = 0)) ∧
  ∀ (s t : State) (k : IslandNo), s.pending = [] → step s = .next t → (t.isl k).resets = (s.isl k).resets

/-- The configuration that CFG holds (R140) changes only by a word of the structure stream, by a reset of CFG, which loses it, and by
power-on reset. -/
def Obligations.ConfigurationOnlyByStreamOrReset : Prop :=
  ∀ (c : Instr) (s t : State), exec c s = .next t →
    t.cfg.store = s.cfg.store ∨ (∃ w, c = .streamWord w) ∨ ((c = .islandResetAssert cfgIsl ∨ c = .porAssert) ∧ t.cfg.store = none)

/-- The key store (R177, R178) changes only by KEY_COMMIT, by a register write, by a full stream (R138, which clears the marks of a
write), by a reset of CFG and by power-on reset. -/
def Obligations.KeysOnlyByCommitStreamOrReset : Prop :=
  ∀ (c : Instr) (s t : State), exec c s = .next t →
    t.cfg.keys = s.cfg.keys ∨ (∃ d, c = .keyCommit d) ∨ (∃ g a h v, c = .registerWrite g a h v) ∨ (∃ g a d v, c = .broadcastWrite g a d v) ∨
    (∃ g w a d, c = .registerResponseTimeout g w a d) ∨ (∃ w, c = .streamWord w) ∨
    ((c = .islandResetAssert cfgIsl ∨ c = .porAssert) ∧ ∀ n : Fin 16, (t.cfg.keys[n]).loaded = false)

/-- The local entry store (R326) changes only by register writes, by a reset of CMD and by power-on reset, which empty it. -/
def Obligations.EntryStoreOnlyByRegisterWriteOrReset : Prop :=
  ∀ (c : Instr) (s t : State), exec c s = .next t →
    t.cmd.store = s.cmd.store ∨ (∃ g a h v, c = .registerWrite g a h v) ∨ (∃ g a d v, c = .broadcastWrite g a d v) ∨
    (∃ g w a d, c = .registerResponseTimeout g w a d) ∨ ((c = .islandResetAssert cmdIsl ∨ c = .porAssert) ∧ t.cmd.store = [])

/-- A command takes no time: the cycle counter of an island (R19) changes only by its own reset, its release and power-on reset, which
leave it at zero. -/
def Obligations.CyclesMoveOnlyInIdleTime : Prop :=
  ∀ (c : Instr) (s t : State) (k : IslandNo), exec c s = .next t →
    (t.isl k).cycle = (s.isl k).cycle ∨
    ((c = .islandResetAssert k ∨ c = .islandResetRelease k ∨ c = .porAssert) ∧ (t.isl k).cycle = 0)

/-- No command puts a command on the queue or takes one from it. -/
def Obligations.CommandsLeaveTheQueue : Prop := ∀ (c : Instr) (s t : State), exec c s = .next t → t.pending = s.pending

/-- Only the rows of a reset line take an island into or out of reset, and only the rows of a clock start or stop it (R98-R101). -/
def Obligations.ResetsAndClocksOnlyByTheirRows : Prop :=
  ∀ (c : Instr) (s t : State) (k : IslandNo), exec c s = .next t →
    ((t.isl k).inReset = (s.isl k).inReset ∨ (c = .islandResetAssert k ∧ (t.isl k).inReset = true) ∨
      (c = .islandResetRelease k ∧ (t.isl k).inReset = false) ∨ (c = .porAssert ∧ (t.isl k).inReset = true)) ∧
    ((t.isl k).clkRun = (s.isl k).clkRun ∨ c = .islandClockStart k ∨ c = .islandClockStop k)

/-! Resets, clocks, CFG's watch over the islands, and start-up. -/

/-- POR_ASSERT (R99): every island is in reset with STATE RESET, RESETS and CLK_SEEN cleared; every unit's state is as at reset; pins keep
their levels, clocks go on, and the queue of commands stays. POR_RELEASE: por_n rises, and CLK_SEEN shows the clocks that run. -/
def Obligations.PowerOnResetClearsTheBlock : Prop :=
  (∀ s : State, ∃ t, exec .porAssert s = .next t ∧ t.por = true ∧
    (∀ k, (t.isl k).inReset = true ∧ (t.isl k).state = .reset ∧ (t.isl k).resets = 0 ∧ (t.isl k).clkSeen = false ∧ (t.isl k).conf = none ∧
      (t.isl k).reports = [] ∧ (t.isl k).clkRun = (s.isl k).clkRun) ∧
    t.cfg = {} ∧ t.eph = {} ∧ t.spg = {} ∧ t.svy = {} ∧ t.log = {} ∧ t.inj = {} ∧ t.reqs = [] ∧ t.cmd = { pathPin := s.cmd.pathPin } ∧
    (∀ g, (t.group g).st = .down ∧ (t.group g).key = none) ∧ t.cp = {} ∧ (∀ x, t.quad x = {}) ∧
      (∀ p, t.slice p = { mp := { upPin := (s.slice p).mp.upPin } }) ∧ t.pending = s.pending) ∧
  ∀ s : State, s.por = true →
    exec .porRelease s = .next { s with por := false, islands := s.islands.map fun i => { i with clkSeen := i.clkSeen || i.clkRun } }

/-- ISLAND_RESET_ASSERT (R21, R102, R486): the island is in reset, STATE reads RESET, its configuration, reports, counters and armed
injection are lost, and RESETS and CLK_SEEN stay; every other island stays in or out of reset as it was, with its RESETS and CYCLE.
ISLAND_RESET_RELEASE (R19, R21, R100, R140): an island whose clock runs leaves reset into CONFIG with CYCLE and the sequence number zero and
RESETS one higher, configured from CFG's store unless it is CFG; no other island changes. ISLAND_CLOCK_START and ISLAND_CLOCK_STOP (R21,
R22) change the island's clock, in reset or out of it, and the first sets CLK_SEEN once por_n is high. -/
def Obligations.IslandResetsAndClocks : Prop :=
  (∀ (k : IslandNo) (s : State), (s.isl k).inReset = false → ∃ t, exec (.islandResetAssert k) s = .next t ∧
    (t.isl k).inReset = true ∧ (t.isl k).state = .reset ∧ (t.isl k).conf = none ∧ (t.isl k).reports = [] ∧ (t.isl k).ctr = [] ∧
    (t.isl k).armed = none ∧ (t.isl k).resets = (s.isl k).resets ∧ (t.isl k).clkRun = (s.isl k).clkRun ∧
    ∀ j, j ≠ k → (t.isl j).inReset = (s.isl j).inReset ∧ (t.isl j).resets = (s.isl j).resets ∧ (t.isl j).cycle = (s.isl j).cycle) ∧
  (∀ (k : IslandNo) (s : State), s.por = false → (s.isl k).inReset = true → (s.isl k).clkRun = true →
    ∃ t, exec (.islandResetRelease k) s = .next t ∧ (t.isl k).inReset = false ∧ (t.isl k).state = .config ∧ (t.isl k).cycle = 0 ∧
      (t.isl k).seq = 0 ∧ (t.isl k).resets = sat16Inc (s.isl k).resets ∧ (t.isl k).conf = (if k = cfgIsl then none else s.cfg.store) ∧
      (∀ j, j ≠ k → t.isl j = s.isl j) ∧ t.cfg = s.cfg ∧ t.eph = s.eph ∧ t.cmd = s.cmd ∧ t.log = s.log) ∧
  (∀ (k : IslandNo) (s : State), (s.isl k).clkRun = false →
    exec (.islandClockStart k) s = .next (s.onIsl k fun i => { i with clkRun := true, clkSeen := i.clkSeen || !s.por })) ∧
  ∀ (k : IslandNo) (s : State), (s.isl k).clkRun = true →
    exec (.islandClockStop k) s = .next (s.onIsl k fun i => { i with clkRun := false })

/-- CHECK_WINDOW_CLOSE (R103, R22, R521): once 4,096 CFG cycles have passed, bit k of LIVE says whether island k was out of reset and its
cycle counter advanced since the last window, and bit k of the summary of shut islands whether its STATE is SHUT; the halted domains and
the Logbook's loss are those of now. READY_SET and READY_CLEAR (R510): READY follows CMD, the Ephemeris and the four quadrants. -/
def Obligations.CfgWatchesTheIslands : Prop :=
  (∀ s : State, s.chanUp = true → 4096 ≤ elapsed (s.now cfgIsl) s.cfg.winAt → ∃ t, exec .checkWindowClose s = .next t ∧
    (∀ k : IslandNo, t.cfg.liveMap.getLsbD k.val = (!(s.isl k).inReset && (s.isl k).cycle != (s.isl k).winCycle)) ∧
    (∀ k : IslandNo, t.cfg.shutMap.getLsbD k.val = ((s.isl k).state == .shut)) ∧ t.cfg.haltedMap = s.eph.halted ∧
    t.cfg.lostSeen = s.log.lostSeen ∧ t.cfg.winAt = s.now cfgIsl ∧ t.cfg.store = s.cfg.store ∧
    ∀ k, t.isl k = { s.isl k with winCycle := (s.isl k).cycle }) ∧
  (∀ s : State, s.chanUp = true → s.cfg.ready = false → (∀ k ∈ [cmdIsl, ephIsl, xqIsl 0, xqIsl 1, xqIsl 2, xqIsl 3], s.running k = true) →
    ∃ t, exec .readySet s = .next t ∧ t.cfg.ready = true ∧ OnlyCfg s t ∧ t.cfg.store = s.cfg.store ∧ t.cfg.keys = s.cfg.keys) ∧
  ∀ (s : State) (k : IslandNo), s.chanUp = true → s.cfg.ready = true → k ∈ [cmdIsl, ephIsl, xqIsl 0, xqIsl 1, xqIsl 2, xqIsl 3] →
    (s.isl k).inReset = true ∨ (s.isl k).state = .config ∨ (s.isl k).state = .shut →
      exec .readyClear s = .next { s with cfg := { s.cfg with ready := false } }

/-- CFG_SELF_TEST_END (R501): its result is noted, and a failure sets bit 52 of PRAUX_BIST_FAIL. CMD_ENABLE (R500): CMD enters RUN.
LINK_BRINGUP_BOUND (R500) and MGR_STEP_BOUND (R508): the step ends by its bound, and LINK_SHORT is set for a group that is not UP,
MGR_ABSENT for managers that did not answer. ISLAND_BIST (R500, R502, R504): the result of the memory BIST of an island in CONFIG is
noted; a failure shuts it; the island's bit of PRAUX_BIST_FAIL says which (R512); an island other than CMD that passes enters RUN; and a
slice's port starts. -/
def Obligations.StartUpSteps : Prop :=
  ((∀ (pass : Bool) (s : State), (s.isl cfgIsl).live = true → s.cfg.selfTest = none → ∃ t, exec (.cfgSelfTestEnd pass) s = .next t ∧
    t.cfg.selfTest = some pass ∧ OnlyCfg s t ∧ (pass = true → t.cfg.bistFail = s.cfg.bistFail) ∧
    (pass = false → t.cfg.bistFail.getLsbD 52 = true)) ∧
  (∀ s : State, (s.isl cmdIsl).live = true → (s.isl cmdIsl).state = .config → (s.isl cmdIsl).bist = some true → s.portsSettled = true →
    s.eph.step7 = true → s.startStopped = false → ∃ t, exec .cmdEnable s = .next t ∧ (t.isl cmdIsl).state = .run ∧ t.eph = s.eph) ∧
  (∀ (g : GroupNo) (s : State) (t0 : Ctr), (s.group g).step6At = some t0 → (s.isl (lgIsl g)).live = true → (s.group g).step6 = false →
    2 ^ 22 ≤ elapsed (s.now (lgIsl g)) t0 → exec (.linkBringupBound g) s = .next
      ((s.onGroup g fun q => { q with step6 := true }).groupEnds g false).step7Check ∧ ((s.groupEnds g false).cfg.linkShort = true ∧
        (s.groupEnds g false).cfg.linksUp.getLsbD g.val = false)) ∧
  ∀ (s : State) (t0 : Ctr), s.eph.step7At = some t0 → (s.isl ephIsl).live = true → s.eph.step7 = false →
    2 ^ 22 ≤ elapsed (s.now ephIsl) t0 →
    exec .mgrStepBound s = .next { s with cfg := { s.cfg with mgrAbsent := true }, eph := { s.eph with step7 := true } }) ∧
  (∀ (k : IslandNo) (pass : Bool) (s : State), (s.isl k).live = true → k ≠ cfgIsl → (s.isl k).state = .config → (s.isl k).conf.isSome = true →
    (s.isl k).bist = none → ∃ u t, exec (.islandBist k pass) s = .next t ∧
      u = s.onIsl k (fun i => { i with bist := some pass }) ∧
      t = (let w := ({ u with cfg := { u.cfg with bistFail := setBit u.cfg.bistFail k.val !pass } } : State)
            let v := if pass then (if k = cmdIsl then w else w.enterRun k) else w.shutFailed k
            if k.val < 32 then v.portStarts (sliceOf k) else v).step7Check)

/-- BIST_NETWORK_START (R109): the island's segment is in the network's path; out of reset the controller refuses the run and notes it; in
reset the run ends with some result. ACT_UP_EXPIRE
(R106): 1,024 slice cycles after ps_act_up rose it falls. ATTN_CAUSE_CLEAR (R499): each CAUSE bit of the mask clears, with its LOG_FATAL
slot, and the others stay. EPH_RELOAD_END (R476): accesses no longer wait for the reload. JOIN_RESEND (R508): after 2^16
EPH cycles the JOIN goes again. -/
def Obligations.SmallServiceRows : Prop :=
  (∀ (k : IslandNo) (s : State), (s.isl k).inReset = false →
    exec (.bistNetworkStart k) s = .next ((s.openSegment k).onIsl k fun i => { i with bistRefused := true })) ∧
  (∀ (k : IslandNo) (s : State), (s.isl k).inReset = true →
    ∃ t b, exec (.bistNetworkStart k) s = .next t ∧
      t = { (s.openSegment k).onIsl k (fun i => { i with bistNet := some b }) with freeIdx := s.freeIdx + 1 }) ∧
  (∀ (p : SliceNo) (s : State), (s.isl (psIsl p)).live = true → (s.slice p).actUp = true →
    1024 ≤ elapsed (s.now (psIsl p)) (s.slice p).actAt → exec (.actUpExpire p) s = .next (s.onSlice p fun x => { x with actUp := false })) ∧
  (∀ (m : BitVec 16) (s : State), (s.isl logIsl).live = true → ∃ t, exec (.attnCauseClear m) s = .next t ∧ OnlyLog s t ∧
    t.log.cause = s.log.cause &&& ~~~m ∧ ∀ n : Fin 6, t.log.fatal[n] = if m.getLsbD n.val then [] else s.log.fatal[n]) ∧
  (∀ s : State, (s.isl ephIsl).live = true → s.eph.reloading = true → ∃ t, exec .ephReloadEnd s = .next t ∧ t.eph.reloading = false) ∧
  ∀ s : State, s.ephLive = true → s.eph.step7At.isSome = true → 2 ^ 16 ≤ elapsed (s.now ephIsl) s.eph.joinAt →
    exec .joinResend s = .next s.joinAll

/-! Crossing queues. -/

/-- PACKET_OPEN (R27): an admitted open claims cells of the free list and holds the words written so far; on a queue that a link group
produces, the group writes what it has received of the channel (R402); PACKET_CLOSE (R27, R29): the packet stands at
the back of its queue, whole and not yet visible, in the first of the cells claimed; PACKET_VISIBLE (R30): the first packet not yet visible
becomes so. -/
def Obligations.PacketsAreWritten : Prop :=
  (∀ (x : QuadNo) (q n : BitVec 16) (ws : List PWord) (s : State), ¬ (0x2020 ≤ q.toNat ∧ q.toNat < 0x2060 ∧ 8 ≤ q.toNat % 16) →
    s.canOpen x q.toNat (cellsFor n.toNat) = true → ws.length ≤ n.toNat → ∃ t, exec (.packetOpen x q n ws) s = .next t ∧ OnlyQuad x s t ∧
      ((t.quad x).queue q.toNat).openPkt = some { cells := (s.quad x).pick (cellsFor n.toNat), words := ws } ∧
      ((t.quad x).queue q.toNat).packets = ((s.quad x).queue q.toNat).packets) ∧
  (∀ (g : GroupNo) (v : Fin 8) (n : BitVec 16) (ws : List PWord) (s : State), s.awake (lgIsl g) = true →
    exec (.packetOpen (quadOf (lgIsl g)) (BitVec.ofNat 16 (0x2028 + 16 * (g.val % 4) + v.val)) n ws) s = .next (State.drainChan g v 2000 s)) ∧
  (∀ (x : QuadNo) (q : BitVec 16) (more : List PWord) (tag : BitVec 24) (poison : Bool) (s : State) (o : OpenPkt),
    ((s.quad x).queue q.toNat).openPkt = some o → s.awake (queueProducer x q.toNat) = true → s.awake (xqIsl x) = true →
    1 ≤ (o.words ++ more).length → (o.words ++ more).length ≤ 65535 → cellsFor (o.words ++ more).length ≤ o.cells.length →
    ∃ t e, exec (.packetClose x q more tag poison) s = .next t ∧ ((t.quad x).queue q.toNat).openPkt = none ∧
      ((t.quad x).queue q.toNat).packets = ((s.quad x).queue q.toNat).packets ++ [e] ∧
      e.words = o.words ++ more ∧ e.length = BitVec.ofNat 16 (o.words ++ more).length ∧ e.tag = tag ∧ e.visible = false ∧
      e.cells = o.cells.take (cellsFor (o.words ++ more).length) ∧ (poison = true → e.poisonIn = true) ∧
      (∀ y, y ≠ x → t.quad y = s.quad y) ∧ ∀ k, k ≠ queueProducer x q.toNat → t.isl k = s.isl k) ∧
  ∀ (x : QuadNo) (q : BitVec 16) (s : State) (l r : List Pkt) (p : Pkt), s.awake (xqIsl x) = true →
    ((s.quad x).queue q.toNat).packets = l ++ p :: r → (∀ a ∈ l, a.visible = true) → p.visible = false →
    ∃ t, exec (.packetVisible x q) s = .next t ∧ OnlyQuad x s t ∧
      ((t.quad x).queue q.toNat).packets = l ++ { p with visible := true } :: r

/-- PACKET_CONSUME (R33, R35, R39): the slice or service island that consumes a queue takes its front packet, where no parity check fails
as it stands, and acts on it, if it can take it; an abandoned packet is dropped. So LOG has a report that comes (R486), and words of which
the manual says no more are kept. Where words of such a packet fail parity, they are poisoned, and each of them is an event of the pool's
detector. Where its length cannot be recovered, or a link fails, the queue is wedged and delivers nothing. QUEUE_WRITE_FULL (R37): a write
while the queue is truly full is discarded and sets OVERRUN, and nothing else changes. -/
def Obligations.PacketsAreRead : Prop :=
  (∀ (x : QuadNo) (q : BitVec 16) (o : ParityObs) (s : State) (p : Pkt) (r : List Pkt), ReadsClean x o p s →
    ((s.quad x).queue q.toNat).packets = p :: r → takesFor (queueOwner x q.toNat) q.toNat = true → s.canTake p = true →
    s.awake (queueOwner x q.toNat) = true → s.awake (xqIsl x) = true → p.visible = true → ((s.quad x).queue q.toNat).wedged = false →
    ∃ u, exec (.packetConsume x q o) s = .next (if p.abandoned then u else u.takeIn (queueOwner x q.toNat) q p) ∧
      ((u.quad x).queue q.toNat).packets = r ∧ OnlyQuad x s u) ∧
  (∀ (k : IslandNo) (q : BitVec 16) (s : State) (p : Pkt) (r : Report), p.cargo = .report r → ∃ t, s.takeIn k q p = t ∧ OnlyLog s t ∧
      t.log.arriving = s.log.arriving ++ [{ r with poisoned := r.poisoned || p.poisoned }]) ∧
  (∀ (x : QuadNo) (q : BitVec 16) (o : ParityObs) (s : State) (p : Pkt) (r : List Pkt),
    (s.isl (xqIsl x)).armedFor 0x0301 (p.cells.getD o.inCell 0) = false → ((s.quad x).queue q.toNat).packets = p :: r →
    takesFor (queueOwner x q.toNat) q.toNat = true → p.cargo = .words → p.length.toNat = p.words.length →
    s.awake (queueOwner x q.toNat) = true → s.awake (xqIsl x) = true → p.visible = true → ((s.quad x).queue q.toNat).wedged = false →
    (p.abandoned = false → o.lenBytes = 0 → o.lenXor = 0 → o.link = false → (∀ i ∈ o.words, i < p.words.length) →
      ∃ t e, exec (.packetConsume x q o) s = .next t ∧
        (t.isl (queueOwner x q.toNat)).inbox = (s.isl (queueOwner x q.toNat)).inbox ++ [(q, e)] ∧ e.words.length = p.words.length ∧
        (∀ i, i < p.words.length → (e.words.getD i { w := 0 }).w = (p.words.getD i { w := 0 }).w ∧
          (e.words.getD i { w := 0 }).poison = ((p.words.getD i { w := 0 }).poison || o.words.contains i)) ∧
        (t.isl (xqIsl x)).detQueue = (s.isl (xqIsl x)).detQueue ++ List.replicate o.words.length
          { code := 0x0301, inst := BitVec.ofNat 16 (p.cells.getD o.inCell 0), arg := BitVec.ofNat 64 (p.cells.getD o.inCell 0) }) ∧
    (lengthTaken o p.lengthWord = none → ∃ t, exec (.packetConsume x q o) s = .next t ∧ ((t.quad x).queue q.toNat).wedged = true ∧
      ((t.quad x).queue q.toNat).packets = p :: r ∧ (t.isl (queueOwner x q.toNat)).inbox = (s.isl (queueOwner x q.toNat)).inbox ∧
      ∀ y, y ≠ x → t.quad y = s.quad y)) ∧
  (∀ (x : QuadNo) (q : BitVec 16) (w : W64) (s : State), queueExists x q.toNat = true → s.awake (xqIsl x) = true →
    ((s.quad x).queue q.toNat).openPkt = none → (s.quad x).admits (s.poolOf x) q.toNat 1 = false →
    ∃ t, exec (.queueWriteFull x q w) s = .next t ∧ OnlyQuad x s t ∧
      (t.quad x).queue q.toNat = { (s.quad x).queue q.toNat with overrun := true })

/-- QUADRANT_FORWARD moves a packet for an island on another quadrant one segment of the ring on: a packet of this block's own traffic, a
fabric packet for a unit of this block, and one for the per-peer queue of another block. Between adjacent quadrants it takes the direct
segment; between XQ0 and XQ2, and between XQ1 and XQ3, it passes through the next-higher quadrant (R16): the packet leaves its queue and
stands at the back of the ring queue of that quadrant and of no other. -/
def Obligations.RingTakesTheOneRoute : Prop :=
  ∀ (x y d : QuadNo) (q : BitVec 16) (ch : Nat) (other : IslandNo) (o : ParityObs) (s : State) (p : Pkt) (r : List Pkt),
    ((∀ c, p.cargo ≠ .fabric c) ∧ d = quadOf (p.cargo.dest other) ∧ ch = channelOf q.toNat) ∨
      (∃ c k, p.cargo = .fabric c ∧ (pktHead p.words).dest = s.block ∧
        ((pktHead p.words).ptype = ptScale ∨ (classOf (pktHead p.words).ptype).isSome = true) ∧
        s.takerOf (pktHead p.words).dunit c = some k ∧ d = quadOf k ∧ ch = pktChannel q.toNat p ∧ ch < 8) ∨
      (∃ c, p.cargo = .fabric c ∧ (pktHead p.words).dest ≠ s.block ∧ rtValid (s.routeOf x (pktHead p.words).dest) = true ∧
        d = peerQuad (pktHead p.words).dest ∧ ch = 2 * c + rtDir (s.routeOf x (pktHead p.words).dest) ∧ ch < 8) →
    d ≠ x → y = (if d = x + 1 ∨ d = x + 3 then d else x + 1) →
    ReadsClean x o p s → ((s.quad x).queue q.toNat).packets = p :: r → s.begins (xqIsl x) = true → s.awake (xqIsl y) = true →
    0x2000 ≤ q.toNat → (q.toNat < 0x2020 ∨ 0x2060 ≤ q.toNat) →
    queueOwner x q.toNat = xqIsl x → p.visible = true → p.abandoned = false → ((s.quad x).queue q.toNat).wedged = false →
    (other.val < 48 ∨ 52 ≤ other.val) → ((s.quad y).queue (ringQueue x y ch)).wedged = false →
    ((s.quad y).queue (ringQueue x y ch)).openPkt = none →
    (s.quad y).admits (s.poolOf y) (ringQueue x y ch) p.cells.length = true →
    ∃ t, exec (.quadrantForward x q other o) s = .next t ∧ ((t.quad x).queue q.toNat).packets = r ∧
      (∃ e : Pkt, ((t.quad y).queue (ringQueue x y ch)).packets = ((s.quad y).queue (ringQueue x y ch)).packets ++ [e] ∧
          e.words = p.carried ∧ e.tag = p.tag ∧ e.poisonIn = p.poisoned ∧ e.cargo = p.cargo) ∧
      (∀ z, z ≠ x → z ≠ y → t.quad z = s.quad z) ∧ t.islands = s.islands

/-! Memory ports. -/

/-- The rows of mp_up (R57, R60-R62, R500, R505). The level rises, and timed-out tags return to use; UP sets once 16 slice cycles have
passed since it rose and since mp_en rose, which ends step 5 for the port; UP falls with the level; a port that has not come up within
2^24 slice cycles sets NOT_READY and its device shutter closes; and after 2^20 slice cycles of a low level every waiting request is
answered inside the slice, those whose data went ahead first, as DOWN_FORCED shows (on a port whose mp_up has never risen too: the model's
choice, log entry 118). -/
def Obligations.PortLevelRows : Prop :=
  (∀ (p : SliceNo) (s : State), (s.slice p).mp.upPin = false → exec (.mpUpRise p) s = .next (s.onMp p fun m =>
    { m with upPin := true, upAt := s.now (psIsl p), tags := m.tags.filter fun t => !t.timedOut })) ∧
  (∀ (p : SliceNo) (s : State), s.portLive p = true → (s.slice p).mp.upPin = true → (s.slice p).mp.up = false →
    16 ≤ elapsed (s.now (psIsl p)) (s.slice p).mp.upAt → 16 ≤ elapsed (s.now (psIsl p)) (s.slice p).mp.enAt →
    ∃ t, exec (.mpUpStable p) s = .next t ∧ (t.slice p).mp = { (s.slice p).mp with
        up := true, downForced := false, step5 := true, leftOut := (s.slice p).mp.step5 && (s.slice p).mp.leftOut } ∧
      ((s.slice p).mp.step5 = true → OnlySlice p s t) ∧ ((s.slice p).mp.step5 = false → t.cfg.portsUp.getLsbD p.val = true) ∧
      (∀ q, q ≠ p → t.slice q = s.slice q) ∧ t.islands = s.islands) ∧
  (∀ (p : SliceNo) (s : State), (s.slice p).mp.upPin = true → exec (.mpUpFall p) s = .next (s.onMp p fun m =>
    { m with upPin := false, up := false, upAt := s.now (psIsl p) })) ∧
  (∀ (p : SliceNo) (s : State), s.portLive p = true → (s.slice p).mp.step5 = false → (s.slice p).mp.up = false →
    2 ^ 24 ≤ elapsed (s.now (psIsl p)) (s.slice p).mp.enAt →
    ∃ u : State, exec (.mpNotReady p) s = .next (u.shutDevice p) ∧
      (u.slice p).mp = { (s.slice p).mp with notReady := true, step5 := true, leftOut := true } ∧
      u.cfg.portFail = true ∧ u.cfg.portsUp.getLsbD p.val = false ∧ (∀ q, q ≠ p → u.slice q = s.slice q) ∧ u.islands = s.islands ∧
      u.eph = s.eph) ∧
  ∀ (p : SliceNo) (s : State), s.portLive p = true → (s.slice p).mp.upPin = false → (s.slice p).mp.downForced = false →
    2 ^ 20 ≤ elapsed (s.now (psIsl p)) (s.slice p).mp.upAt →
    exec (.mpDownForced p) s = .next (((s.slice p).mp.ahead.map TagUse.back ++ (s.slice p).mp.waiting).foldl
      (fun s r => s.answerDown p r 0x0103) (s.onMp p fun m => { m with downForced := true, waiting := [], ahead := [] }))

/-- MP_REQUEST_ISSUE (R47-R50, R62, R169): a free tag is put on the first waiting request that may go, and a data line written goes out
enciphered under its key slot and tweak, behind the write data not yet transferred; a write whose data went ahead goes first, under the
tag of its data; while the device shutter is closed, or under DOWN_FORCED, the oldest request is answered inside the slice instead.
MP_WRITE_DATA_BEAT (R49): the oldest issued write's data transfers; where there is none, that of the next write goes ahead of its request,
under a free tag. -/
def Obligations.PortIssuesRequests : Prop :=
  (∀ (p : SliceNo) (t : BitVec 8) (s : State) (i : Nat) (r : MemReq), s.portLive p = true → (s.slice p).mp.up = true →
    (s.slice p).devShut = false → (s.slice p).mp.downForced = false → (s.slice p).mp.tagFree t = true → s.issuable p false = some i →
    (s.slice p).mp.waiting[i]? = some r → ∃ u, exec (.mpRequestIssue p (some t) none) s = .next u ∧
      (u.slice p).mp.waiting = (s.slice p).mp.waiting.eraseIdx i ∧ (u.slice p).mp.wdata = (s.slice p).mp.wdata ∧
      (∃ e : TagUse, (u.slice p).mp.tags = (s.slice p).mp.tags ++ [e] ∧ e.tag = t ∧ e.req = r ∧ e.at_ = s.now (psIsl p) ∧ e.timedOut = false) ∧
      ∀ q, q ≠ p → u.slice q = s.slice q) ∧
  (∀ (p : SliceNo) (t : BitVec 8) (s : State) (i : Nat) (r : MemReq), s.portLive p = true → (s.slice p).mp.up = true →
    (s.slice p).devShut = false → (s.slice p).mp.downForced = false → (s.slice p).mp.tagFree t = true → s.issuable p true = some i →
    (s.slice p).mp.ahead = [] → (s.slice p).mp.waiting[i]? = some r → r.isData = true → r.why ≠ .refresh →
    ∃ u, exec (.mpRequestIssue p none (some t)) s = .next u ∧ (s.isJoint p = false → OnlySlice p s u) ∧
      (u.slice p).mp.waiting = (s.slice p).mp.waiting.eraseIdx i ∧
      (u.slice p).mp.wdata = (s.slice p).mp.wdata ++ [(t, xts true (((s.slice p).keys[Fin.ofNat 16 r.id.key]).getD [])
        (xtsTweak r.id.oid r.id.plate r.id.seg.code r.id.line) (fit 512 r.data))] ∧
      ∃ e : TagUse, (u.slice p).mp.tags = (s.slice p).mp.tags ++ [e] ∧ e.tag = t ∧ e.req = r ∧ e.at_ = s.now (psIsl p) ∧ e.timedOut = false) ∧
  (∀ (p : SliceNo) (a b : BitVec 8) (s : State) (i j : Nat), s.portLive p = true → (s.slice p).mp.up = true → (s.slice p).devShut = false →
    (s.slice p).mp.downForced = false → (s.slice p).mp.tagFree a = true → (s.slice p).mp.tagFree b = true → a ≠ b →
    (s.slice p).mp.ahead = [] →
    s.issuable p false = some i → (s.issuable p true).isSome = true → (s.issue p i a).issuable p true = some j →
    exec (.mpRequestIssue p (some a) (some b)) s = .next ((s.issue p i a).issue p j b)) ∧
  (∀ (p : SliceNo) (s : State) (u : TagUse) (rest : List TagUse), s.portLive p = true → (s.slice p).mp.up = true →
    (s.slice p).devShut = false → (s.slice p).mp.downForced = false → (s.slice p).mp.ahead = u :: rest →
    exec (.mpRequestIssue p none (some u.tag)) s = .next (s.onMp p fun m =>
      { m with ahead := rest, tags := m.tags ++ [{ u with at_ := s.now (psIsl p) }] })) ∧
  (∀ (p : SliceNo) (rd wr : Option (BitVec 8)) (s : State) (r : MemReq) (rest : List MemReq), s.portLive p = true →
    (s.slice p).devShut = true ∨ (s.slice p).mp.downForced = true → (s.slice p).mp.ahead = [] → (s.slice p).mp.waiting = r :: rest →
    exec (.mpRequestIssue p rd wr) s = .next ((s.onMp p fun m => { m with waiting := rest }).answerDown p r 0x0103)) ∧
  (∀ (p : SliceNo) (s : State) (b : BitVec 8 × List Byte) (rest : List (BitVec 8 × List Byte)), s.portLive p = true →
    (s.slice p).mp.wdata = b :: rest → exec (.mpWriteDataBeat p) s = .next (s.onMp p fun m => { m with wdata := rest })) ∧
  ∀ (p : SliceNo) (t : BitVec 8) (s : State) (i : Nat) (r : MemReq), s.portLive p = true → (s.slice p).mp.up = true →
    (s.slice p).devShut = false → (s.slice p).mp.tagFree t = true → (s.slice p).mp.wdata = [] → s.issuable p true = some i →
    (s.slice p).mp.waiting[i]? = some r → ∃ u, exec (.mpWriteDataBeat p) s = .next u ∧ (u.slice p).mp.wdata = [] ∧
      (u.slice p).mp.waiting = (s.slice p).mp.waiting.eraseIdx i ∧ (u.slice p).mp.tags = (s.slice p).mp.tags ∧
      ∃ e : TagUse, (u.slice p).mp.ahead = (s.slice p).mp.ahead ++ [e] ∧ (s.slice p).mp.tagFree e.tag = true ∧ e.req = r ∧
        e.timedOut = false

/-- A response whose tag is not outstanding, or whose tag belongs to a request of the other kind, is unexpected (R58): it is discarded,
UNEXP_SEEN is set and a Logbook record that carries the tag is made, and nothing else happens. -/
def Obligations.UnexpectedResponses : Prop :=
  (∀ (p : SliceNo) (tag : BitVec 8) (data : List Byte) (poison : Bool) (err : BitVec 4) (s : State), s.portLive p = true →
    (∀ t, (s.slice p).mp.tags.find? (fun t => t.tag == tag) = some t → t.req.wr = true) →
    exec (.mpReadResponse p tag data poison err) s = .next ((s.onMp p fun m => { m with unexpSeen := true }).emit (psIsl p)
      { code := 3, sev := sevInfo, arg := put tag.toNat 0 })) ∧
  ∀ (p : SliceNo) (tag : BitVec 8) (err : BitVec 4) (s : State), s.portLive p = true →
    (∀ t, (s.slice p).mp.tags.find? (fun t => t.tag == tag) = some t → t.req.wr = false) →
    exec (.mpWriteResponse p tag err) s = .next ((s.onMp p fun m => { m with unexpSeen := true }).emit (psIsl p)
      { code := 3, sev := sevInfo, arg := put tag.toNat 0 })

/-- Responses to outstanding tags (R51-R53, R57). A late response, to a timed-out tag, is discarded and counted, sets LATE_SEEN and gives
the tag back. A read answered without error, or corrected, gives up its tag, is counted, and its line goes on with the guard check; one
answered poisoned, with an error or a reserved code is counted and is an event of the uncorrectable detector, or of the device detector
for code 0x4, and its line is delivered poisoned; answered RETRY it is issued again, first of all, at most four times. A write answered
without error, or corrected, gives up its tag and is counted; any error reaches the device detector, and the line is taken as not written;
answered RETRY it is issued again. MP_TAG_TIMEOUT (R56): a tag outstanding for 2^20 slice cycles is timed out: it stays out of use,
TIMEOUT_SEEN is set, the timeout is counted and reported to the timeout detector, and the request is treated as failed.
MP_HELD_REQUEST_TIMEOUT (R50): a request held back behind a timed-out tag for 2^20 slice cycles is answered inside the slice, counted and
reported so, and holds no tag. -/
def Obligations.ResponsesAreTaken : Prop :=
  ((∀ (p : SliceNo) (tag : BitVec 8) (data : List Byte) (poison : Bool) (err : BitVec 4) (s : State) (t : TagUse), s.portLive p = true →
    (s.slice p).mp.tags.find? (fun t => t.tag == tag) = some t → t.timedOut = true →
    let u := (s.onMp p fun m => { m with lateSeen := true, tags := m.tags.filter fun t => t.tag != tag }).bump (psIsl p) psMpLate
    (t.req.wr = false → exec (.mpReadResponse p tag data poison err) s = .next u) ∧
    (t.req.wr = true → exec (.mpWriteResponse p tag err) s = .next u)) ∧
  (∀ (p : SliceNo) (tag : BitVec 8) (data : List Byte) (s : State) (t : TagUse), s.portLive p = true → (s.isl (psIsl p)).armed = none →
    (s.slice p).mp.tags.find? (fun t => t.tag == tag) = some t → t.req.wr = false → t.timedOut = false → t.injTimeout = false →
    let u := s.onMp p fun m => { m with tags := m.tags.filter fun u => u.tag != tag }
    let bad (c : BitVec 16) := ((u.bump (psIsl p) psMpUncorr).event (psIsl p) {
      code := c, inst := 0, oid := t.req.id.oid, plate := t.req.id.plate, arg := mpArg tag t.req.addr }).lineRead p t.req [] true false []
    exec (.mpReadResponse p tag data false 0) s = .next (u.readAnswered p t 0 false data) ∧
    exec (.mpReadResponse p tag data false 1) s = .next (u.readAnswered p t 1 false data) ∧
    (∀ (err : BitVec 4) (poison : Bool), ((err = 0 ∨ err = 1) ∧ poison = true) ∨ err = 2 ∨ err = 3 ∨ (err = 5 ∧ 4 ≤ t.req.retries) ∨
      5 < err.toNat → exec (.mpReadResponse p tag data poison err) s = .next (bad 0x0102)) ∧
    (∀ poison : Bool, exec (.mpReadResponse p tag data poison 4) s = .next (bad 0x0103)) ∧
    (t.req.retries < 4 → ∀ poison : Bool, exec (.mpReadResponse p tag data poison 5) s = .next ((s.onMp p fun m =>
      { m with tags := m.tags.filter fun u => u.tag != tag, waiting := { t.req with retries := t.req.retries + 1, prev := none } :: m.waiting }).bump
      (psIsl p) psMpRetry))) ∧
  ∀ (p : SliceNo) (tag : BitVec 8) (s : State) (t : TagUse), s.portLive p = true →
    (s.slice p).mp.tags.find? (fun t => t.tag == tag) = some t → t.req.wr = true → t.timedOut = false →
    let u := s.onMp p fun m => { m with tags := m.tags.filter fun u => u.tag != tag }
    let ev (c : BitVec 16) : DetEvent :=
      { code := c, inst := 0, oid := t.req.id.oid, plate := t.req.id.plate, arg := mpArg tag t.req.addr }
    exec (.mpWriteResponse p tag 0) s = .next (((u.bump (psIsl p) psMpWrLines).bridgeLine p).lineWrote p t.req false t.prevGuard) ∧
    exec (.mpWriteResponse p tag 1) s = .next (((((u.bump (psIsl p) psMpWrLines).bridgeLine p).bump (psIsl p) psMpCorr).event (psIsl p)
      (ev 0x0101)).lineWrote p t.req false t.prevGuard) ∧
    (∀ err : BitVec 4, err = 2 ∨ err = 3 ∨ err = 4 ∨ (err = 5 ∧ 4 ≤ t.req.retries) ∨ 5 < err.toNat → exec (.mpWriteResponse p tag err) s =
      .next ((u.event (psIsl p) (ev 0x0103)).lineWrote p t.req true t.prevGuard)) ∧
    (t.req.retries < 4 → exec (.mpWriteResponse p tag 5) s = .next ((s.onMp p fun m => { m with
      tags := m.tags.filter fun u => u.tag != tag
      waiting := { t.req with retries := t.req.retries + 1, prev := some t.prevGuard } :: m.waiting }).bump (psIsl p) psMpRetry))) ∧
  ((∀ (p : SliceNo) (tag : BitVec 8) (s : State) (t : TagUse), s.portLive p = true →
    (s.slice p).mp.tags.find? (fun t => t.tag == tag) = some t → t.timedOut = false → 2 ^ 20 ≤ elapsed (s.now (psIsl p)) t.at_ →
    ∃ u, u = ((s.onMp p fun m => { m with
        timeoutSeen := true, tags := mapIf (fun u => u.tag == tag) (fun u => { u with timedOut := true }) m.tags }).bump
        (psIsl p) psMpTimeout).event (psIsl p)
        { code := 0x0104, inst := 0, oid := t.req.id.oid, plate := t.req.id.plate, arg := mpArg tag t.req.addr } ∧
      exec (.mpTagTimeout p tag) s = .next (if t.req.wr then u.lineWrote p t.req true t.prevGuard else u.lineRead p t.req [] true false [])) ∧
  ∀ (p : SliceNo) (n : Nat) (s : State) (r : MemReq) (t : TagUse), s.portLive p = true → (s.slice p).mp.waiting[n]? = some r →
    2 ^ 20 ≤ elapsed (s.now (psIsl p)) r.since → t ∈ (s.slice p).mp.tags → t.timedOut = true → t.req.addr = r.addr →
    (t.req.wr = true ∨ r.wr = true) → 2 ^ 21 ≤ elapsed (s.now (psIsl p)) t.at_ →
    exec (.mpHeldRequestTimeout p n) s = .next (((s.onMp p fun m => { m with waiting := m.waiting.eraseIdx n, timeoutSeen := true }).bump
      (psIsl p) psMpTimeout).answerDown p r 0x0104))

/-! Export and import ports. -/

/-- EXPORT_BEAT (R65-R69): the next beat of the plate being sent transfers and is counted; after the last of a plate the plate leaves and
its command has exported one more. EXPORT_ABANDON (R70): after 2^20 slice cycles without a transfer the command's beats are dropped,
TX_ABANDON_SEEN is set, the plates not sent are counted, and the command fails with PORT_TIMEOUT. -/
def Obligations.ExportPortRows : Prop :=
  (∀ (p : SliceNo) (s : State) (i : Nat) (e : TxPlate), s.pathLive p = true → s.txNext p = some i → (s.slice p).xp.tx[i]? = some e →
    ∃ t, exec (.exportBeat p) s = .next t ∧ (t.slice p).xp.lastBeat = some e.next ∧
      (t.isl (psIsl p)).ctr = ((s.isl (psIsl p)).bump psXpTxBeats 1).ctr ∧
      (e.next.last = false → (t.slice p).xp.tx = (s.slice p).xp.tx.set i { e with beat := e.beat + 1 } ∧ t.cmd = s.cmd) ∧
      (e.next.last = true → (t.slice p).xp.tx = (s.slice p).xp.tx.eraseIdx i ∧
        t.cmd.runs = mapIf (fun r => r.id == e.run) (fun r => { r with plates := r.plates + 1 }) s.cmd.runs) ∧
      (∀ q, q ≠ p → t.slice q = s.slice q) ∧ ∀ k, k ≠ psIsl p → t.isl k = s.isl k) ∧
  ∀ (p : SliceNo) (s : State) (i : Nat) (e : TxPlate) (r : CmdRun), s.pathLive p = true → s.txNext p = some i →
    (s.slice p).xp.tx[i]? = some e → 2 ^ 20 ≤ elapsed (s.now (psIsl p)) (s.slice p).xp.txAt → s.findRun e.run = some r →
    ∃ t, exec (.exportAbandon p) s = .next t ∧ (t.slice p).xp.tx = (s.slice p).xp.tx.filter (fun u => u.run != e.run) ∧
      (t.slice p).xp.txAbandonSeen = true ∧ (t.isl (psIsl p)).ctr = ((s.isl (psIsl p)).bump psXpTxAbandon (r.exports - r.plates)).ctr ∧
      t.cmd.runs = mapIf (fun r => r.id == e.run) (fun r => r.fail stPortTimeout) s.cmd.runs ∧ ∀ q, q ≠ p → t.slice q = s.slice q

/-- IMPORT_STREAM_OPEN (R71): the import that has waited longest of those whose stream is not open opens it, four streams at most.
IMPORT_BEAT (R71-R73, R75): the import buffer has drained by the rows the store path takes a cycle, and takes a beat while it holds fewer
than 256; a beat for no open stream is discarded and counted with RX_DISCARD_SEEN; a beat in order is taken into the buffer and the plate;
one that breaks R72 discards the plate and what it held. IMPORT_PLATE_TIMEOUT and IMPORT_STREAM_IDLE_TIMEOUT (R74): the stream closes and
its IMPORT fails with PORT_TIMEOUT. -/
def Obligations.ImportPortRows : Prop :=
  (∀ (p : SliceNo) (s : State) (w : Nat × BitVec 8 × Fmt × Nat), s.pathLive p = true → s.begins (psIsl p) = true →
    (s.slice p).xp.streams.length < 4 →
    (s.slice p).xp.waiting.find? (fun w => !((s.slice p).xp.streams.any fun t => t.stream == w.2.1) && (s.slice p).takesRun w.1) = some w →
    exec (.importStreamOpen p) s = .next (s.onXp p fun x => { x with
      waiting := x.waiting.erase w
      streams := x.streams ++ [{ run := w.1, stream := w.2.1, fmt := w.2.2.1, count := w.2.2.2, at_ := s.now (psIsl p) }] })) ∧
  (∀ (p : SliceNo) (stream beat : BitVec 8) (fmt : Fmt) (data scale : List Byte) (last poison : Bool) (s : State), s.pathLive p = true →
    ((s.importDrain p).slice p).xp.buf.length < 256 → (∀ t ∈ (s.slice p).xp.streams, t.stream ≠ stream) →
    exec (.importBeat p stream beat fmt data scale last poison) s = .next ((((s.importDrain p).bump (psIsl p) psXpRxBeats).onXp p fun x =>
      { x with rxDiscardSeen := true }).bump (psIsl p) psXpRxDiscard)) ∧
  (∀ (p : SliceNo) (stream : BitVec 8) (data scale : List Byte) (poison : Bool) (s : State) (t : ImpStream), s.pathLive p = true →
    ((s.importDrain p).slice p).xp.buf.length < 256 → (s.slice p).xp.streams.find? (fun t => t.stream == stream) = some t → t.discarding = false →
    t.beats < 256 → t.beats + 1 ≠ beatsPerPlate t.fmt →
    exec (.importBeat p stream (BitVec.ofNat 8 t.beats) t.fmt data scale false poison) s = .next ((((s.importDrain p).bump (psIsl p)
      psXpRxBeats).onXp p fun x => { x with buf := x.buf ++ [{ run := t.run, plate := s.importDst t, left := beatCost t.fmt }] }).onXp p
      fun x => { x with streams := mapIf (fun u => u.stream == stream) (fun _ => { t with
        beats := t.beats + 1, data := t.data ++ fit 256 data, scale := t.scale ++ fit (scalesPerBeat t.fmt) scale
        poison := t.poison || poison, at_ := s.now (psIsl p) }) x.streams })) ∧
  (∀ (p : SliceNo) (stream beat : BitVec 8) (fmt : Fmt) (data scale : List Byte) (poison : Bool) (s : State) (t : ImpStream),
    s.pathLive p = true → ((s.importDrain p).slice p).xp.buf.length < 256 → (s.slice p).xp.streams.find? (fun t => t.stream == stream) = some t →
    beat.toNat ≠ t.beats ∨ fmt ≠ t.fmt → ∃ u, exec (.importBeat p stream beat fmt data scale false poison) s = .next u ∧
      (u.slice p).xp.rxDiscardSeen = true ∧
        (u.slice p).xp.buf = ((s.importDrain p).slice p).xp.buf.filter (fun b => !(b.run == t.run && b.plate == s.importDst t)) ∧
      (u.slice p).xp.streams = mapIf (fun v => v.stream == stream) (fun _ => { t with
        discarding := true, broken := true, beats := 0, data := [], scale := [], at_ := s.now (psIsl p) }) (s.slice p).xp.streams ∧
      (u.slice p).store = (s.slice p).store) ∧
  (∀ (p : SliceNo) (stream : BitVec 8) (s : State) (t : ImpStream), s.pathLive p = true →
    (s.slice p).xp.streams.find? (fun t => t.stream == stream) = some t → t.beats ≠ 0 ∨ t.discarding = true →
    2 ^ 20 ≤ elapsed (s.now (psIsl p)) t.at_ → exec (.importPlateTimeout p stream) s = .next (((s.dropBeats p t).onXp p fun x =>
      { x with streams := x.streams.filter fun v => v.stream != t.stream }).importFails t.run stPortTimeout)) ∧
  ∀ (p : SliceNo) (stream : BitVec 8) (s : State) (t : ImpStream), s.pathLive p = true →
    (s.slice p).xp.streams.find? (fun t => t.stream == stream) = some t → t.beats = 0 → t.discarding = false →
    2 ^ 24 ≤ elapsed (s.now (psIsl p)) t.at_ → exec (.importStreamIdleTimeout p stream) s = .next (((s.dropBeats p t).onXp p fun x => { x with
      streams := x.streams.filter fun v => v.stream != t.stream }).importFails t.run stPortTimeout)

/-! The register channel, keys and doorbells. -/

/-- A read of any register of an island that is in reset, or whose clock is not running, returns zero, and so STATE reads RESET; a write
to it is ignored; and the next summary of islands does not show it as responding (R22, R103). -/
def Obligations.DeadIslandsReadZero : Prop :=
  (∀ (k : IslandNo) (addr : BitVec 21) (s : State), addrIsland addr = some k → (s.isl k).live = false →
    (s.regRead addr).rdata = 0 ∧ fld (s.regRead addr).rdata 2 0 = IslState.reset.code) ∧
  (∀ (k : IslandNo) (tag : BitVec 4) (ask : RegAsk) (hold : Bool) (via : List (IslandNo × Crossing)) (s : State), ask.wr = true →
    addrIsland ask.addr = some k → (s.isl k).live = false → (∀ r ∈ s.cp.out, r.tag ≠ tag) →
    ∃ t, exec (.registerWrite tag ask hold via) s = .next t ∧ t = { s with cp := t.cp }) ∧
  (∀ (k : IslandNo) (tag : BitVec 4) (ask : RegAsk) (via : List (IslandNo × Crossing)) (s : State), ask.wr = false →
    addrIsland ask.addr = some k → (s.isl k).live = false → s.reqReady tag = true → s.cp.first tag ask = true →
    ∃ t a, exec (.registerWrite tag ask false via) s = .next t ∧ t = { s with cp := t.cp } ∧
      t.cp.answers = s.cp.answers.set tag.toNat (some a) ∧ a.rdata = 0) ∧
  ∀ (k : IslandNo) (s : State), s.chanUp = true → 4096 ≤ elapsed (s.now cfgIsl) s.cfg.winAt →
    (s.isl k).inReset = true ∨ (s.isl k).cycle = (s.isl k).winCycle →
    ∃ t, exec .checkWindowClose s = .next t ∧ t.cfg.liveMap.getLsbD k.val = false

/-- REGISTER_WRITE (R77-R81): a request on the register channel whose tag is not outstanding, and before which none for its island is,
takes effect in the island it names and is answered; so a write to CMD_SIG n sets signal counter n (R347) and changes nothing else but the
answer, and a read of a register that no read consumes is answered with what the register reads as. One that the island holds stays
outstanding, and is answered under its tag later. A request that crossed a queue poisoned is not performed, and where it or its answer did
the answer is POISONED. BROADCAST_WRITE (R524): it is applied to the islands of the class, and answered with the largest code.
REGISTER_RESPONSE_TIMEOUT (R82): a request outstanding for 8,192 CFG cycles is answered NO_RESPONSE and no longer outstanding; whether the
request has taken effect the spec leaves open, and the model keeps free (log entry 1). KEY_COMMIT (R177, R178): a commit that is allowed
loads the key slot with the staged key, which every user of the slot that may take it receives, and counts; a denied one loads nothing and
counts as denied; either clears the staging words. -/
def Obligations.RegisterRequestsAreAnswered : Prop :=
  ((∀ (k : IslandNo) (tag : BitVec 4) (ask : RegAsk) (via : List (IslandNo × Crossing)) (s : State), s.chanUp = true → s.cfg.selfTest ≠ some false →
    (∀ r ∈ s.cp.out, r.tag ≠ tag) → s.cp.first tag ask = true → addrIsland ask.addr = some k → (s.isl k).live = true →
    (ask.wr = true → crossingAt via k = .clean → exec (.registerWrite tag ask false via) s =
      .next ((s.islandWrite k (addrOff ask.addr) ask.data).2.answer tag (s.islandWrite k (addrOff ask.addr) ask.data).1)) ∧
    (ask.wr = true → crossingAt via k = .request → exec (.registerWrite tag ask false via) s = .next (s.answer tag ansPoisoned)) ∧
    (ask.wr = true → crossingAt via k = .answer → exec (.registerWrite tag ask false via) s =
      .next ((s.islandWrite k (addrOff ask.addr) ask.data).2.answer tag ansPoisoned)) ∧
    (ask.wr = false → readsQueue ask.addr = none → crossingAt via k = .clean → exec (.registerWrite tag ask false via) s =
      .next (s.answer tag ansOk (s.islandReg k (addrOff ask.addr))))) ∧
  (∀ (tag : BitVec 4) (ask : RegAsk) (via : List (IslandNo × Crossing)) (s : State), s.chanUp = true → (∀ r ∈ s.cp.out, r.tag ≠ tag) →
    exec (.registerWrite tag ask true via) s =
      .next { s with cp := { s.cp with out := s.cp.out ++ [{ tag := tag, ask := ask, at_ := s.now cfgIsl }] } }) ∧
  (∀ (tag : BitVec 4) (ask : RegAsk) (via : List (IslandNo × Crossing)) (s : State) (r : CpReq), s.chanUp = true →
    s.cp.out.find? (fun r => r.tag == tag) = some r → s.cp.first tag r.ask = true →
    exec (.registerWrite tag ask false via) s = .next (s.perform tag r.ask via)) ∧
  (∀ (n : Fin 256) (tag : BitVec 4) (data : W64) (s : State), s.chanUp = true → s.cfg.selfTest ≠ some false → s.cp.out = [] →
    (s.isl cmdIsl).live = true →
    exec (.registerWrite tag { wr := true, addr := BitVec.ofNat 21 (0x8000 * 53 + 0xC00 + n.val), data := data } false []) s =
      .next (({ s with cmd := { s.cmd with sig := s.cmd.sig.set n (bits 32 data 0) } } : State).answer tag ansOk)) ∧
  (∀ (tag : BitVec 4) (addr : BitVec 21) (data : W64) (via : List (IslandNo × Crossing)) (s : State), s.reqReady tag = true →
    s.cfg.selfTest ≠ some false → 61 ≤ regByte addr / 0x40000 → exec (.broadcastWrite tag addr data via) s =
      .next ((s.castWrite (addrOff addr) data (castClass addr) via).2.answer tag (s.castWrite (addrOff addr) data (castClass addr) via).1)) ∧
  ∀ (k : IslandNo) (tag : BitVec 4) (s : State) (r : CpReq), s.chanUp = true →
    s.cp.out.find? (fun q => q.tag == tag && q.ask == r.ask) = some r →
    8192 ≤ elapsed (s.now cfgIsl) r.at_ → r.ask.wr = true → addrIsland r.ask.addr = some k →
    let v : State := { s with freeIdx := s.freeIdx + 1, cp := { s.cp with out := s.cp.out.filter fun q => q.tag != tag } }
    ∃ t u, exec (.registerResponseTimeout tag true r.ask.addr r.ask.data) s = .next t ∧ t = u.answer tag ansNoResponse ∧
      (u = v ∨ u = (v.regWrite r.ask.addr r.ask.data []).2)) ∧
  ((∀ (data : W64) (s : State) (c : Conf), s.chanUp = true → s.cfg.store = some c → s.keyDenied (fld data 3 0) = false →
    exec (.keyCommit data) s = .next (({ s with cfg := { s.cfg with
      keyStage := Vector.replicate 8 0
      keys := s.cfg.keys.setIfInBounds (fld data 3 0) { loaded := true, key := s.cfg.staged, written := true }
      keyCommits := sat16Inc s.cfg.keyCommits } } : State).spreadKey c (fld data 3 0) s.cfg.staged)) ∧
  ∀ (data : W64) (s : State), s.chanUp = true → s.cfg.store = none ∨ s.keyDenied (fld data 3 0) = true →
    exec (.keyCommit data) s = .next { s with cfg := { s.cfg with
      keyStage := Vector.replicate 8 0, keyDenials := sat16Inc s.cfg.keyDenials } })

/-- QUEUE_CONFIG_WRITE (R374): a write of RING or HCQ of a disabled queue takes effect and is answered; one that would move the ring of an
enabled queue is DENIED and changes nothing. CQ_READ and LOG_READ (R36, R362, R492): a read of a queue with a record answers
the record's next word, and the last word of the record takes it from the queue; from an empty queue the last word is answered again. -/
def Obligations.QueueRegistersAndReads : Prop :=
  (∀ (q : Fin 64) (tag : BitVec 4) (data : W64) (s : State), s.reqReady tag = true → s.answers cmdIsl = true → (s.cq q).en = false →
    exec (.queueConfigWrite tag (BitVec.ofNat 21 (0x8000 * 53 + 0x800 + 8 * q.val + 1)) data .clean) s =
      .next ((s.onCq q fun c => { c with ring := bits 52 data 12 }).answer tag ansOk) ∧
    exec (.queueConfigWrite tag (BitVec.ofNat 21 (0x8000 * 53 + 0x800 + 8 * q.val + 2)) data .clean) s =
      .next ((s.onCq q fun c => { c with hcq := bits 52 data 12 }).answer tag ansOk)) ∧
  (∀ (q : Fin 64) (tag : BitVec 4) (data : W64) (s : State), s.reqReady tag = true → s.answers cmdIsl = true → (s.cq q).en = true →
    (s.cq q).ring ≠ bits 52 data 12 → exec (.queueConfigWrite tag (BitVec.ofNat 21 (0x8000 * 53 + 0x800 + 8 * q.val + 1)) data .clean) s =
      .next (s.answer tag ansDenied)) ∧
  (∀ (cq : Fin 16) (tag : BitVec 4) (o : ParityObs) (s : State), s.reqReady tag = true → s.answers cmdIsl = true →
    ((s.quad 0).queue (0x2100 + cq.val)).isEmpty = true → ∃ t, exec (.cqRead tag cq o) s = .next t ∧
      t.cp.answers = s.cp.answers.set tag.toNat (some { code := ansOk, rdata := ((s.quad 0).queue (0x2100 + cq.val)).lastWord }) ∧
      ((t.quad 0).queue (0x2100 + cq.val)).underrun = true ∧ t.cmd = s.cmd ∧ t.islands = s.islands) ∧
  (∀ (cq : Fin 16) (tag : BitVec 4) (o : ParityObs) (s : State) (p : Pkt) (r : List Pkt) (w : PWord) (ws : List PWord), ReadsClean 0 o p s → s.reqReady tag = true → s.answers cmdIsl = true →
    ((s.quad 0).queue (0x2100 + cq.val)).packets = p :: r → p.visible = true → p.abandoned = false →
      ((s.quad 0).queue (0x2100 + cq.val)).wedged = false →
    ((s.quad 0).queue (0x2100 + cq.val)).readPos = 0 →
    p.words = w :: ws → w.poison = false → ∃ t, exec (.cqRead tag cq o) s = .next t ∧
      t.cp.answers = s.cp.answers.set tag.toNat (some { code := ansOk, rdata := w.w }) ∧ t.cmd = s.cmd ∧ t.islands = s.islands ∧
      ((t.quad 0).queue (0x2100 + cq.val)).packets = (if ws = [] then r else p :: r) ∧
        ((t.quad 0).queue (0x2100 + cq.val)).readPos = (if ws = [] then 0 else 1)) ∧
  ∀ (tag : BitVec 4) (o : ParityObs) (s : State) (p : Pkt) (r : List Pkt) (w : PWord) (ws : List PWord), ReadsClean 0 o p s →
    s.reqReady tag = true → s.answers logIsl = true →
    ((s.quad 0).queue 0x2110).packets = p :: r → p.visible = true → p.abandoned = false → ((s.quad 0).queue 0x2110).wedged = false →
    ((s.quad 0).queue 0x2110).readPos = 0 →
    p.words = w :: ws → w.poison = false → ∃ t, exec (.logRead tag o) s = .next t ∧
      t.cp.answers = s.cp.answers.set tag.toNat (some { code := ansOk, rdata := w.w }) ∧ t.log = s.log ∧ t.islands = s.islands ∧
      ((t.quad 0).queue 0x2110).packets = (if ws = [] then r else p :: r) ∧ ((t.quad 0).queue 0x2110).readPos = (if ws = [] then 0 else 1)

/-- DOORBELL (R84, R336, R373): while CMD takes work, a doorbell of an enabled local queue, or of an armed host queue whose epoch it has,
moves its TAIL to the number it carries, up to SIZE - 1 entries past HEAD; an old one is counted and changes nothing; one of SIZE or more,
one for a queue that is not enabled, and one with a reserved bit set, is counted as bad and changes no queue; one with another epoch is
counted and changes no queue; and one for a disarmed host queue with the next epoch arms it again, with RESTART from the number it carries,
the entries between counted as skipped. One on which CMD does not act at once stays in the doorbell buffer. While CMD takes no work a
doorbell is dropped and counted. -/
def Obligations.DoorbellsMoveTheTail : Prop :=
  (∀ (data : W64) (s : State) (q : Fin 64) (d : Nat), s.cmdActive = true → (s.isl cmdIsl).live = true → s.cmd.doorbells = [] →
    fld data 63 58 = q.val → fld data 32 0 = 0 → (s.cq q).en = true →
    (s.cq q).host = false ∨ ((s.cq q).armed = true ∧ bits 8 data 34 = (s.cq q).epoch) → d < (s.cq q).size → d < 65536 →
    fld data 57 42 = ((s.cq q).head.toNat + d) % 65536 →
    (((s.cq q).tail.toNat + 131072 - (s.cq q).head.toNat) % 65536 ≤ d → exec (.doorbell ⟨data, true⟩) s =
      .next ((s.onCq q fun c => { c with tail := c.head + BitVec.ofNat 17 d }).bump cmdIsl cmdDbAccepted)) ∧
    (d < ((s.cq q).tail.toNat + 131072 - (s.cq q).head.toNat) % 65536 → exec (.doorbell ⟨data, true⟩) s =
      .next ((s.bump cmdIsl cmdDbAccepted).bump cmdIsl cmdDbOld))) ∧
  (∀ (data : W64) (s : State) (q : Fin 64), s.cmdActive = true → (s.isl cmdIsl).live = true → s.cmd.doorbells = [] → fld data 63 58 = q.val →
    (s.cq q).en = false ∨ fld data 32 0 ≠ 0 ∨
      (((s.cq q).host = false ∨ (s.cq q).armed = true ∨ bits 8 data 34 ≠ (s.cq q).epoch + 1 ∨ bitAt data 33 = false) ∧
        (s.cq q).size ≤ (fld data 57 42 + 65536 - (s.cq q).head.toNat % 65536) % 65536) →
    exec (.doorbell ⟨data, true⟩) s = .next ((s.bump cmdIsl cmdDbAccepted).bump cmdIsl cmdDbBad)) ∧
  (∀ (data : W64) (s : State) (q : Fin 64) (d : Nat), s.cmdActive = true → (s.isl cmdIsl).live = true → s.cmd.doorbells = [] →
    fld data 63 58 = q.val → fld data 32 0 = 0 → (s.cq q).en = true → (s.cq q).host = true →
    ((s.cq q).armed = true → bits 8 data 34 ≠ (s.cq q).epoch) → ((s.cq q).armed = false → bits 8 data 34 ≠ (s.cq q).epoch + 1) →
    d < (s.cq q).size → fld data 57 42 = ((s.cq q).head.toNat + d) % 65536 → d < 65536 →
    exec (.doorbell ⟨data, true⟩) s = .next ((s.bump cmdIsl cmdDbAccepted).bump cmdIsl cmdDbEpoch)) ∧
  (∀ (data : W64) (s : State) (q : Fin 64) (d : Nat), s.cmdActive = true → (s.isl cmdIsl).live = true → s.cmd.doorbells = [] →
    fld data 63 58 = q.val → fld data 32 0 = 0 → (s.cq q).en = true → (s.cq q).host = true → (s.cq q).armed = false →
    bits 8 data 34 = (s.cq q).epoch + 1 → d < 65536 → fld data 57 42 = ((s.cq q).head.toNat + d) % 65536 →
    (bitAt data 33 = false → d < (s.cq q).size → ((s.cq q).tail.toNat + 131072 - (s.cq q).head.toNat) % 65536 ≤ d →
      exec (.doorbell ⟨data, true⟩) s = .next ((s.onCq q fun c =>
        { c with armed := true, epoch := bits 8 data 34, tail := c.head + BitVec.ofNat 17 d }).bump cmdIsl cmdDbAccepted)) ∧
    (bitAt data 33 = false → d < (s.cq q).size → d < ((s.cq q).tail.toNat + 131072 - (s.cq q).head.toNat) % 65536 →
      exec (.doorbell ⟨data, true⟩) s = .next (((s.onCq q fun c => { c with armed := true, epoch := bits 8 data 34 }).bump
        cmdIsl cmdDbAccepted).bump cmdIsl cmdDbOld)) ∧
    (bitAt data 33 = true → exec (.doorbell ⟨data, true⟩) s = .next (((s.onCq q fun c =>
      { c with
        armed := true, epoch := bits 8 data 34, head := c.head + BitVec.ofNat 17 d, tail := c.head + BitVec.ofNat 17 d
        stale := none }).bump cmdIsl cmdDbAccepted).bump cmdIsl cmdQSkipped d))) ∧
  (∀ (data : W64) (s : State), (s.isl cmdIsl).live = true → s.cmdActive = true → s.cmd.doorbells.length < 64 →
    exec (.doorbell ⟨data, false⟩) s =
      .next (({ s with cmd := { s.cmd with doorbells := s.cmd.doorbells ++ [data] } } : State).bump cmdIsl cmdDbAccepted)) ∧
  ∀ (bell : Bell) (s : State), (s.isl cmdIsl).live = true → s.cmdActive = false →
    exec (.doorbell bell) s = .next (s.bump cmdIsl cmdDbDropped)

/-! The Network Window Port. -/

/-- The rows of nw_path_up (R92, R370-R372): the level rises, and timed-out tags return to use; PATH_UP sets after 16 CMD cycles; as it
falls, every outstanding access ends as HOST_LOST, each host queue disarms and its accepted entries abort, and the fall is counted (what
becomes of write beats not sent is the model's choice, log entry 120); while CMD is in reset only the level falls. -/
def Obligations.HostPathRows : Prop :=
  (∀ s : State, s.cmd.pathPin = false → exec .nwPathUpRise s = .next (s.onCmd fun c => { c with
    pathPin := true, pathAt := s.now cmdIsl, nwTags := c.nwTags.filter fun t => !t.timedOut })) ∧
  (∀ s : State, (s.isl cmdIsl).live = true → s.cmd.pathPin = true → s.cmd.pathUp = false → 16 ≤ elapsed (s.now cmdIsl) s.cmd.pathAt →
    exec .nwPathUpStable s = .next (s.onCmd fun c => { c with pathUp := true })) ∧
  (∀ s : State, (s.isl cmdIsl).live = false → s.cmd.pathPin = true → exec .nwPathDown s = .next (s.onCmd fun c => { c with pathPin := false })) ∧
  (∀ s : State, (s.isl cmdIsl).live = true → s.cmd.pathPin = true → (∀ q : Fin 64, (s.cq q).host = false) → (∀ t ∈ s.cmd.nwTags, t.timedOut = true) →
    s.cmd.nwAhead = [] → exec .nwPathDown s = .next (s.onCmd fun c => { c with
      pathPin := false, pathUp := false, pathAt := s.now cmdIsl, pathDownSeen := true
      pathFalls := if c.pathFalls = 0xFFFF then c.pathFalls else c.pathFalls + 1
      nwTags := c.nwTags.map fun t => { t with timedOut := true }, nwData := [], nwAhead := [] })) ∧
  (∀ (s : State) (q : Fin 64), (s.isl cmdIsl).live = true → s.cmd.pathPin = true → (s.cq q).host = true → (∀ t ∈ s.cmd.nwTags, t.timedOut = true) →
    s.cmd.nwAhead = [] → ∃ t, exec .nwPathDown s = .next t ∧ (t.cq q).armed = false ∧ (t.cq q).fetch = none ∧ (t.cq q).accepted = [] ∧
      (t.cq q).en = (s.cq q).en ∧ t.cmd.pathUp = false) ∧
  ∀ (s : State) (q : Fin 64) (id : Nat) (t : NwTag), (s.isl cmdIsl).live = true → s.cmd.pathPin = true → s.cmd.nwTags = [t] → t.timedOut = false →
    s.cmd.nwAhead = [] → t.acc.why = .fetch q id → (∀ f, (s.cq q).fetch = some f → f.id = id) →
    (∀ q : Fin 64, (s.cq q).host = false) → ∃ u, exec .nwPathDown s = .next u ∧ u.cmd.pathUp = false ∧ u.cmd.nwTags = [{ t with timedOut := true }] ∧
      (u.cq q).fetch = none ∧ (u.cq q).halted = (s.cq q).halted

/-- NW_REQUEST_ISSUE (R87, R93): a write whose data went ahead goes out under the tag of its data; else the access that has waited longest
goes out under a free tag, with the DEST of its window, its data behind the data not yet transferred; one outside its window fails with
WINDOW, and one without path or arming with HOST_LOST. NW_WRITE_DATA_BEAT (R86, R87): 64 bytes of the oldest write transfer; where no
issued write has beats left, those of the next access, a write, begin to go ahead of its request, under a free tag. NW_READ_BEAT and
NW_WRITE_ACK (R88-R92): data gather until the last beat, which ends the access by its code and frees its tag; what names no outstanding
tag of its kind, a tag timed out, or comes with the path down, sets LATE_SEEN and nothing else. NW_TAG_TIMEOUT (R91): after 2^22 CMD cycles the access ends as HOST_LOST, TIMEOUT_SEEN is set and the tag
stays out of use; beats not sent stay. -/
def Obligations.HostAccessesRun : Prop :=
  ((∀ (tag : BitVec 8) (s : State) (a : NwAcc) (rest : List NwAcc), s.awake cmdIsl = true → s.cmd.nwAhead = [] → s.cmd.nwWaiting = a :: rest →
    s.accDead a = false → s.cmd.mayIssue a = true → s.cmd.winAdmits a.win a.addr a.len = true → s.cmd.tagFree tag = true →
    exec (.nwRequestIssue tag) s = .next (s.onCmd fun c => { c with
      nwWaiting := rest
      nwTags := c.nwTags ++ [{ tag := tag, acc := a, dest := (s.cmd.wins[Fin.ofNat 16 a.win.toNat]).dest, at_ := s.now cmdIsl }]
      nwData := if a.wr then c.nwData ++ [(tag, a.data)] else c.nwData })) ∧
  (∀ (s : State) (u : NwTag) (rest : List NwTag), s.awake cmdIsl = true → s.cmd.nwAhead = u :: rest →
    exec (.nwRequestIssue u.tag) s = .next (s.onCmd fun c => { c with
      nwAhead := rest, nwTags := c.nwTags ++ [{ u with at_ := s.now cmdIsl }] })) ∧
  (∀ (tag : BitVec 8) (s : State) (a : NwAcc) (rest : List NwAcc), s.awake cmdIsl = true → s.cmd.nwAhead = [] → s.cmd.nwWaiting = a :: rest →
    s.accDead a = false →
    (s.cmd.mayIssue a = false → exec (.nwRequestIssue tag) s = .next ((s.onCmd fun c => { c with nwWaiting := rest }).accFailed a stHostLost)) ∧
    (s.cmd.mayIssue a = true → s.cmd.winAdmits a.win a.addr a.len = false →
      exec (.nwRequestIssue tag) s = .next ((s.onCmd fun c => { c with nwWaiting := rest }).accFailed a stWindow)))) ∧
  (∀ (s : State) (t : BitVec 8) (b : List Byte) (rest : List (BitVec 8 × List Byte)), (s.isl cmdIsl).live = true →
    s.cmd.nwData = (t, b) :: rest → exec .nwWriteDataBeat s = .next (s.onCmd fun c => { c with
      lastBeat := some { tag := t, data := b.take 64, last := decide (b.length ≤ 64) }
      nwData := if b.length ≤ 64 then rest else (t, b.drop 64) :: rest })) ∧
  (∀ (s : State) (t : BitVec 8) (a : NwAcc) (rest : List NwAcc), s.awake cmdIsl = true → s.cmd.nwData = [] → s.cmd.nwWaiting = a :: rest →
    a.wr = true → s.accDead a = false → s.cmd.mayIssue a = true → s.cmd.winAdmits a.win a.addr a.len = true → s.cmd.tagFree t = true →
    ∃ tag, s.cmd.tagFree tag = true ∧ exec .nwWriteDataBeat s = .next (({ s with freeIdx := s.freeIdx + 1 } : State).onCmd fun c => { c with
      nwWaiting := rest, lastBeat := some { tag := tag, data := a.data.take 64, last := decide (a.data.length ≤ 64) }
      nwData := if a.data.length ≤ 64 then [] else [(tag, a.data.drop 64)]
      nwAhead := c.nwAhead ++ [{ tag := tag, acc := a, dest := (s.cmd.wins[Fin.ofNat 16 a.win.toNat]).dest, at_ := s.now cmdIsl }] })) ∧
  (∀ (tag : BitVec 8) (data : List Byte) (s : State) (t : NwTag), (s.isl cmdIsl).live = true → s.cmd.pathPin = true →
    s.cmd.nwTags.find? (fun t => t.tag == tag) = some t → t.timedOut = false → t.acc.wr = false →
    exec (.nwReadBeat tag data true 0) s = .next ((s.onCmd fun c => { c with nwTags := c.nwTags.filter fun t => t.tag != tag }).accDone t.acc
      (fit t.acc.len (t.got ++ fit 64 data))) ∧
    ∀ err : BitVec 2, (exec (.nwReadBeat tag data false err) s = .next (s.onCmd fun c => { c with
        nwTags := mapIf (fun u => u.tag == tag) (fun u => { u with got := t.got ++ fit 64 data }) c.nwTags })) ∧
      (err ≠ 0 → exec (.nwReadBeat tag data true err) s =
        .next ((s.onCmd fun c => { c with nwTags := c.nwTags.filter fun t => t.tag != tag }).accFailed t.acc
          (if err = 1 then stHostError else stHostLost)))) ∧
  (∀ (tag : BitVec 8) (s : State) (t : NwTag), (s.isl cmdIsl).live = true → s.cmd.pathPin = true →
    s.cmd.nwTags.find? (fun t => t.tag == tag) = some t → t.timedOut = false → t.acc.wr = true →
    exec (.nwWriteAck tag 0) s = .next ((s.onCmd fun c => { c with nwTags := c.nwTags.filter fun t => t.tag != tag }).accDone t.acc []) ∧
    ∀ err : BitVec 2, err ≠ 0 → exec (.nwWriteAck tag err) s =
      .next ((s.onCmd fun c => { c with nwTags := c.nwTags.filter fun t => t.tag != tag }).accFailed t.acc
        (if err = 1 then stHostError else stHostLost))) ∧
  (∀ (tag : BitVec 8) (data : List Byte) (last : Bool) (err : BitVec 2) (s : State), (s.isl cmdIsl).live = true →
    s.cmd.pathPin = false ∨ (∀ t ∈ s.cmd.nwTags, t.tag = tag → t.timedOut = true ∨ t.acc.wr = true) →
    exec (.nwReadBeat tag data last err) s = .next { s with cmd := { s.cmd with lateSeen := true } }) ∧
  (∀ (tag : BitVec 8) (err : BitVec 2) (s : State), (s.isl cmdIsl).live = true →
    s.cmd.pathPin = false ∨ (∀ t ∈ s.cmd.nwTags, t.tag = tag → t.timedOut = true ∨ t.acc.wr = false) →
    exec (.nwWriteAck tag err) s = .next { s with cmd := { s.cmd with lateSeen := true } }) ∧
  ∀ (tag : BitVec 8) (s : State) (t : NwTag), (s.isl cmdIsl).live = true → s.cmd.nwTags.find? (fun t => t.tag == tag) = some t →
    t.timedOut = false → 2 ^ 22 ≤ elapsed (s.now cmdIsl) t.at_ → exec (.nwTagTimeout tag) s = .next ((s.onCmd fun c => { c with
      timeoutSeen := true, nwTags := mapIf (fun u => u.tag == tag) (fun u => { u with timedOut := true }) c.nwTags }).accFailed t.acc stHostLost)

/-! The structure stream. -/

/-- CFG accepts a full stream only while it is in STATE CONFIG: its first word is taken there, and in RUN the stream is rejected with code
NOT_CONFIG and changes nothing (R137): no island, no configuration, no key; only the record of the rejection. -/
def Obligations.FullStreamOnlyInConfig : Prop :=
  (∀ (w : W64) (s : State), (s.isl cfgIsl).live = true → s.cfg.selfTest = some true → s.cfg.resync = false → s.cfg.recv = none →
    fld w 63 32 = 0x50525853 → fld w 31 16 = 3 → fld w 15 0 = 0 → (s.isl cfgIsl).state = .config →
    ∃ r, exec (.streamWord w) s = .next { s with cfg := { s.cfg with wordAt := s.now cfgIsl, recv := some r } } ∧ r.count = 1 ∧ r.hdr = [w]) ∧
  ∀ (w : W64) (s : State), (s.isl cfgIsl).live = true → s.cfg.selfTest = some true → s.cfg.resync = false → s.cfg.recv = none →
    fld w 63 32 = 0x50525853 → fld w 31 16 = 3 → fld w 15 0 = 0 → (s.isl cfgIsl).state = .run ∨ (s.isl cfgIsl).state = .quiesced →
    exec (.streamWord w) s = .next (({ s with cfg := { s.cfg with
      wordAt := s.now cfgIsl, resync := true, lastErr := BitVec.ofNat 8 SsErr.notConfig.code, rejects := sat16Inc s.cfg.rejects, errType := 0, errInst := 0
      errOffset := 0 } } : State).emit cfgIsl { code := 0x000C, sev := sevInfo, arg := 13 })

/-- STREAM_WORD (R111, R138-R140): a stream's last word finishes it; a full stream without fault whose STREAM_ID agrees becomes CFG's
store and configures every island in CONFIG, and CFG enters RUN. STREAM_TRUNCATED and STREAM_RESYNC_END (R113): 2^20 CFG cycles after its
last word the stream is rejected with code TRUNCATED and discarded, and after a gap of 64 CFG cycles the next word begins a stream.
QUIESCE_REQUEST (R144): the bit of CFG_QUIESCE sets and reaches an island out of reset that is not shut. ISLAND_QUIESCED (R143): an island
asked to, whose work has ended and that holds no packet open, is QUIESCED. QUIESCE_RELEASE (R144, R147): the bit clears, and a QUIESCED
island takes the records of live streams that it holds and returns to RUN. -/
def Obligations.StreamsEnd : Prop :=
  ((∀ (w : W64) (s : State) (r r' : SsRecv), (s.isl cfgIsl).live = true → s.cfg.selfTest = some true → s.cfg.resync = false →
    s.cfg.recv = some r → (s.isl cfgIsl).state = .config → r.take w true false = .inl r' → 4 ≤ r'.count →
    8 * r'.count = fld (r'.hdr.getD 1 0) 31 0 → fld (r'.hdr.getD 0 0) 15 12 = 0 → r'.ended = true →
    (r'.crc ^^^ 0xFFFFFFFF) = fld (r'.hdr.getD 2 0) 31 0 →
    let c : Conf := { streamId := bits 32 (r'.hdr.getD 2 0) 32, recs := r'.recs }
    crossErr c = none → s.idsMatch c.streamId = true →
    ∃ t, exec (.streamWord w) s = .next t ∧ t.cfg.store = some c ∧ t.cfg.recv = none ∧ (t.isl cfgIsl).state = .run ∧
      ∀ k, k ≠ cfgIsl → (t.isl k).conf =
        (if (s.isl k).inReset = false ∧ (s.isl k).state = .config then some c else (s.isl k).conf)) ∧
  (∀ (s : State) (r : SsRecv), (s.isl cfgIsl).live = true → s.cfg.recv = some r → 2 ^ 20 ≤ elapsed (s.now cfgIsl) s.cfg.wordAt →
    ∃ t, exec .streamTruncated s = .next t ∧
    t.cfg.recv = none ∧ t.cfg.resync = true ∧ t.cfg.lastErr = 5 ∧ t.cfg.rejects = sat16Inc s.cfg.rejects ∧ t.cfg.store = s.cfg.store ∧
    t.cfg.keys = s.cfg.keys ∧ ∀ k, k ≠ cfgIsl → t.isl k = s.isl k) ∧
  ∀ s : State, s.cfg.resync = true → (s.isl cfgIsl).live = true → 64 ≤ elapsed (s.now cfgIsl) s.cfg.wordAt →
    exec .streamResyncEnd s = .next { s with cfg := { s.cfg with resync := false } }) ∧
  ((∀ (k : IslandNo) (s : State), s.chanUp = true → (s.isl k).inReset = false → (s.isl k).state ≠ .shut →
    exec (.quiesceRequest k) s = .next (({ s with cfg := { s.cfg with quiesce := setBit s.cfg.quiesce k.val true } } : State).onIsl k
      fun i => { i with quiesceAsk := true })) ∧
  (∀ (k : IslandNo) (s : State), s.chanUp = true → (s.isl k).inReset = true ∨ (s.isl k).state = .shut →
    exec (.quiesceRequest k) s = .next { s with cfg := { s.cfg with quiesce := setBit s.cfg.quiesce k.val true } }) ∧
  (∀ (k : IslandNo) (s : State), s.running k = true → (s.isl k).quiesceAsk = true → s.workEnded k = true → s.holdsOpen k = false →
    exec (.islandQuiesced k) s = .next (s.onIsl k fun i => { i with state := .quiesced })) ∧
  ∀ (k : IslandNo) (s : State), s.chanUp = true → (s.isl k).inReset = false → (s.isl k).state = .quiesced →
    ∃ u : State, exec (.quiesceRelease k) s = .next ((u.linksOf k).tablesResume k) ∧
      u.cfg = { s.cfg with quiesce := setBit s.cfg.quiesce k.val false } ∧
      (u.isl k).state = .run ∧ (u.isl k).quiesceAsk = false ∧ (u.isl k).conf = (s.isl k).conf.map (·.withLive (s.isl k).liveRecs) ∧
      (∀ j, j ≠ k → u.isl j = s.isl j) ∧ u.slices = s.slices ∧ u.groups = s.groups ∧ u.quads = s.quads)

/-! Guard lines, the store path and frames. -/

/-- GUARD_LINE_FILL (R174, R514): a guard line that a waiting data request needs, and the cache has room for, is asked of the device;
where the request is a write and no line it covers was ever written, it is formed as zeros and nothing is read. GUARD_WRITEBACK_TIMER
(R165, R175): a line dirty for 65,536 slice cycles, or whose slice is asked to quiesce or has its data shutter closed, is written to its
place past the data lines, as it stands when no write it covers is outstanding; the guards of a pinned line that are not known are free
(the model's choice, log entry 116). PLATE_WRITE (R206, R257-R261): the home advances one write: a commit that can go on goes on, else one
whose key slot is not loaded is refused, else the first write in its queue that may go begins. FRAME_FREE (R260, R262, R421): once no read
of the old frame is under way, its extents return to the free list of its slice. -/
def Obligations.LinesAreWritten : Prop :=
  ((∀ (p : SliceNo) (line : BitVec 32) (s : State) (r : MemReq) (rest : List MemReq), s.portLive p = true →
    (s.slice p).mp.waiting.filter (fun r => r.isData && guardOf r.addr.toNat == line.toNat) = r :: rest →
    (s.slice p).mp.guardEnt line.toNat = none → (s.slice p).mp.cache.length < 64 →
    let zero := r.wr && (s.slice p).home.untouched line.toNat
    ∃ t, exec (.guardLineFill p line) s = .next t ∧ OnlySlice p s t ∧
      (t.slice p).mp.cache = (s.slice p).mp.cache ++ [{ line := line.toNat, filled := zero, used := (s.slice p).mp.useNo + 1 }] ∧
      (zero = true → (t.slice p).mp.waiting = (s.slice p).mp.waiting) ∧
      (zero = false → (t.slice p).mp.waiting = (s.slice p).mp.waiting ++ [{
        wr := false, addr := BitVec.ofNat 32 (s.dataEnd p + line.toNat), why := .guardFill line.toNat, since := s.now (psIsl p) }])) ∧
  ∀ (p : SliceNo) (line : BitVec 32) (s : State) (e : GuardEnt), s.portLive p = true → (s.slice p).mp.guardEnt line.toNat = some e →
    e.dirty = true → e.wb = false → (65536 ≤ elapsed (s.now (psIsl p)) e.dirtyAt ∨ (s.isl (psIsl p)).quiesceAsk = true ∨
      (s.slice p).dataShut = true) →
    (s.slice p).mp.openWrites e.line = [] →
    ∃ t, exec (.guardWritebackTimer p line) s = .next t ∧ OnlySlice p s t ∧
      (t.slice p).mp.waiting = (s.slice p).mp.waiting ++ [{
        wr := true, addr := BitVec.ofNat 32 (s.dataEnd p + e.line), why := .guardWb e.line
        data := guardBytes (e.guards.zipIdx.map fun v => if e.pinned && !e.known.getLsbD v.2 then Config.freeGuard e.line v.2 else v.1)
        since := s.now (psIsl p) }]) ∧
  ((∀ (p : SliceNo) (s t : State), s.homeLive p = true → s.advanceAny p = some t → exec (.plateWrite p) s = .next t) ∧
  (∀ (p : SliceNo) (s t : State), s.homeLive p = true → s.advanceAny p = none → s.refuseKeyless p = some t → exec (.plateWrite p) s = .next t) ∧
  (∀ (p : SliceNo) (s : State) (e : PWrite × Nat), s.homeLive p = true → s.advanceAny p = none → s.refuseKeyless p = none →
    (s.slice p).home.inq.zipIdx.find? (fun e => s.mayWrite p e.2 e.1) = some e →
    exec (.plateWrite p) s = .next (s.goWrite p e.2 e.1)) ∧
  ∀ (p : SliceNo) (oid : BitVec 40) (span : BitVec 18) (base n : Nat) (s : State), s.awake ephIsl = true →
    s.eph.freeing.find? (fun f => f.1 == p && f.2.2.2.1 == oid && f.2.2.2.2 == span.toNat) = some (p, base, n, oid, span.toNat) →
    (∀ j ∈ (s.slice p).home.reads, j.obj.oid ≠ oid) → s.isJoint p = false → s.eph.runCount < 131072 → 0 < n →
    ∃ t, exec (.frameFree p oid span) s = .next t ∧ t.eph.free = s.eph.free.set p (mergeRun s.eph.free[p] { first := base, count := n }) ∧
      t.eph.freeing = s.eph.freeing.filter (· != (p, base, n, oid, span.toNat)) ∧ t.islands = s.islands ∧ ∀ q, q ≠ p → t.slice q = s.slice q)

/-- Both rows first put every plate that the import port has complete on the store path, and a plate taken from the path lets the import
port and HOST_READ go on (R252, R254, R267). FRC_ENCODE (R194, R200, R203, R212, R213, R239): with fewer than 8 plates in encoding, a
plate for an FRC object is encoded with the image and GEN of a slot that is LIVE, written at its home, and the slot counts one user more;
under a slot that is FREE or RETIRING the command fails with TABLE_NOT_LIVE, and where its source header names a master that does not
agree (R201), with MASTER_INVALID. STORE_PLATE (R254): a plate for another object is put into its stored form and written at its home,
with the counts of its form. A plate of a command that has stopped is dropped. -/
def Obligations.PlatesAreStored : Prop :=
  (∀ (p : SliceNo) (s : State) (e : StoreIn) (q : StoreP), s.running (psIsl p) = true → (s.slice p).dataShut = false →
    ((s.importDrain p).slice p).storeNext = some (e, q) → e.obj.code = 1 → (s.slice p).store.encoding < 8 → s.storeLive e.run = true →
    s.mustRegister e.run = false →
    let d := ((s.importDrain p).onSlice p fun x => { x with store := q }).hostReadsGo
    (((s.slice p).slots[e.slot]).st = .live → ((s.slice p).slots[e.slot]).draining = false → e.run = none →
      let c := (s.slice p).slots[e.slot]
      let f := frcEncodePlate (tableOf c.image) e.slot.val c.gen.toNat e.obj.rate e.obj.fmt e.master e.plate e.data.poison
        (plateF32 e.obj e.plate.toNat e.data.fmt e.data.codes e.data.scales)
      ∀ u : State, (d.onSlice p fun x =>
          { x with
            slots := x.slots.set e.slot { x.slots[e.slot] with inUse := x.slots[e.slot].inUse + 1 }
            store := { x.store with encoding := x.store.encoding + 1 } }).homeWrite p {
          obj := e.obj, plate := e.plate, body := f.body, header := f.header, poisoned := e.data.poison
          run := e.run, slot := some (p, e.slot), heal := e.heal } = (true, u) →
        exec (.frcEncode p) s = .next ((((u.bump (psIsl p) psFrcEncPlates).bump
          (psIsl p) psFrcFloorSubs f.floorSubs).bump (psIsl p) psFrcMoves f.moves).bump (psIsl p) psFrcNonfinite f.replaced)) ∧
    (((s.slice p).slots[e.slot]).st = .free ∨ ((s.slice p).slots[e.slot]).st = .retiring → e.heal = false → s.masterStatus e = .good →
      exec (.frcEncode p) s = .next (d.failRun e.run stTableNotLive)) ∧
    ∀ st, s.masterStatus e = .fails st → exec (.frcEncode p) s = .next (d.failRun e.run st)) ∧
  (∀ (p : SliceNo) (s : State) (e : StoreIn) (q : StoreP) (u : State), s.running (psIsl p) = true → (s.slice p).dataShut = false →
    ((s.importDrain p).slice p).storeNext = some (e, q) → e.obj.code ≠ 1 → s.storeLive e.run = true → s.mustRegister e.run = false → e.run = none →
    (((s.importDrain p).onSlice p fun x => { x with store := q }).hostReadsGo).homeWrite p (storeForm e).1 = (true, u) →
    exec (.storePlate p) s = .next ((storeForm e).2.2.foldl (fun s c => s.bump (psIsl p) c.1 c.2) u)) ∧
  ∀ (p : SliceNo) (s : State) (e : StoreIn) (q : StoreP), s.running (psIsl p) = true → (s.slice p).dataShut = false →
    ((s.importDrain p).slice p).storeNext = some (e, q) → (s.slice p).store.encoding < 8 → s.storeLive e.run = false →
    exec (if e.obj.code = 1 then .frcEncode p else .storePlate p) s =
      .next ((s.importDrain p).onSlice p fun x => { x with store := q }).hostReadsGo

/-- FRAME_CLAIM (R260, R261, R421): a commit that claims takes the free run the Ephemeris picks in its slice for its new frame.
INDEX_WRITE (R249, R260): with its plates written, a ZFC span's new index goes to the first two lines of its index segment. SPAN_SWING
(R260): a commit whose frame is complete swings the directory entry to it. DEFERRED_SWINGS (R465): a Consistent-mode command that has
written everything swings all its commits. -/
def Obligations.SpansCommit : Prop :=
  (∀ (p : SliceNo) (oid : BitVec 40) (span : BitVec 18) (s u : State) (m : Commit) (b : Nat), s.awake ephIsl = true → s.eph.reloading = false →
    (s.eph.places.find? fun q => q.obj.oid == oid && q.span == span.toNat && q.slice == p) = none →
    s.frameCommit p oid span.toNat = some m → s.eph.gone.getLsbD p.val = false → s.claim p (s.commitNeed m) none = (some b, u) →
    exec (.frameClaim p oid span) s = .next (u.flushPlates p { m with
      st := .newFrame, target := p, base := 16 * b, extents := s.commitNeed m, used := 0 })) ∧
  (∀ (p : SliceNo) (oid : BitVec 40) (span : BitVec 18) (s : State) (m : Commit), s.homeLive p = true →
    (s.slice p).store.commits.find? (fun m => m.obj.oid == oid && m.span == span.toNat && m.st == .tables) = some m → m.obj.code = 2 →
    m.closed = true → m.left = 0 → m.failed = false →
    let n := spanPlates m.obj m.span
    exec (.indexWrite p oid span) s = .next (s.commitLines p { m with st := .index } ((List.range 2).map fun i => {
      addr := m.base + segStart m.obj n .index + i, id := lineId m.obj (64 * m.span) .index i
      data := ((indexBytes m.obj m.span n m.used m.newEntries).drop (512 * i)).take 512 }))) ∧
  (∀ (p : SliceNo) (oid : BitVec 40) (span : BitVec 18) (s : State) (m : Commit), s.awake ephIsl = true →
    (s.slice p).store.commits.find? (fun m => m.obj.oid == oid && m.span == span.toNat && m.st == .ready) = some m → s.defers m = false →
    s.swingFits m = true → m.target = p → exec (.spanSwing p oid span) s = .next (s.swing p m)) ∧
  ∀ (run : Nat) (s : State) (r : CmdRun) (p : SliceNo) (m : Commit), s.awake ephIsl = true → s.findRun run = some r → s.consistent = true →
    r.status = 0 → r.stopped = false → r.tainted = false → s.writesDone r = true →
    ((List.finRange 32).flatMap fun p => ((s.slice p).store.commits.filter fun m => m.run == some run && m.st == .ready).map fun m => (p, m)) =
      [(p, m)] → exec (.deferredSwings run) s = .next (s.swing p m)

/-! The Spectrograph and the table slots. -/

/-- HISTOGRAM_SEND (R223, R226): a slice with nothing left to count sends its histogram as one packet and takes up the next pass that
waits; SPG adds a histogram that reaches it to the build, and a build for which none is outstanding closes. TABLE_BUILD (R219, R224,
R226): SPG builds the image of the first closed histogram and sends it to every slice that takes part and runs; a LOADING copy holds the
image that reaches it and passes its checks. The rows of a slot (R214, R217-R219). A LOADING slot whose image every such slice holds goes
LIVE in SPG and in every slice that takes part. A slice with no plate left under a slot being drained reports it; once all have, a
RETIRING slot becomes FREE. A hold that has lasted 2^20 SPG cycles in Progress mode ends, and its command fails with TABLE_HELD. -/
def Obligations.TableSlotRows : Prop :=
  ((∀ (p : SliceNo) (s : State) (run : Nat), s.awake (psIsl p) = true → (s.slice p).hist.run = some run → (s.slice p).hist.left = 0 →
    ∃ u : State, exec (.histogramSend p) s = .next (u.histNext p) ∧ (u.slice p).hist.run = none ∧
      (u.isl (psIsl p)).outbox = (s.isl (psIsl p)).outbox ++ [{
        quad := quadOf (psIsl p), queue := BitVec.ofNat 16 (queueFrom (psIsl p) 2), words := plain (s.slice p).hist.hist.words, cargo := .hist p run }] ∧
      u.cmd = s.cmd ∧ ∀ q, q ≠ p → u.slice q = s.slice q) ∧
  (∀ (p : SliceNo) (s : State) (run : Nat) (h : Hist) (b : Build), s.buildOf run = some b →
    (s.takeHist p run h false).spg.builds = mapIf (fun b => b.run == run) (fun b => { b with
      waiting := b.waiting.erase p, hist := b.hist.add h, closeAt := s.now spgIsl }) s.spg.builds ∧
    (b.waiting.erase p = [] → (s.takeHist p run h false).spg.closed = s.spg.closed ++ [run])) ∧
  (∀ (s : State) (run : Nat) (rest : List Nat) (b : Build) (n : Fin 64) (c : CmdRun), s.running spgIsl = true → s.spg.closed = run :: rest →
    s.buildOf run = some b → b.slot = some n → (s.slot n).st = .loading → (s.slot n).built = false → s.installing = false →
    s.findRun run = some c → bitAt (c.entry.words.getD 2 0) 15 = false →
    ∃ t, exec .tableBuild s = .next t ∧ (t.slot n).image = (buildImage b.hist).1 ∧ (t.slot n).built = true ∧
      (t.isl spgIsl).outbox = (s.isl spgIsl).outbox ++ ((List.finRange 32).filter s.takesImages).map (fun p => {
        quad := quadOf spgIsl, queue := BitVec.ofNat 16 (queueFrom spgIsl 2), words := queueWords (buildImage b.hist).1
        cargo := .image p n (s.slot n).gen }) ∧
      t.spg.iter = (buildImage b.hist).2 ∧ t.spg.closed = rest ∧ t.cmd = s.cmd ∧ t.slices = s.slices) ∧
  ∀ (p : SliceNo) (n : Fin 64) (img : List Byte) (s : State), ((s.slice p).slots[n]).st = .loading → crcsHold img = true →
    s.takeImage p n ((s.slice p).slots[n]).gen img false =
      s.onSlice p fun x => { x with slots := x.slots.set n { x.slots[n] with image := img } }) ∧
  ((∀ (n : Fin 64) (s : State), s.awake spgIsl = true → (s.slot n).st = .loading → (s.slot n).built = true → (s.slot n).cur = none →
    (s.slot n).queue = [] → (∀ p, s.takesImages p = true → ((s.slice p).slots[n]).image = (s.slot n).image) →
    ∃ t, exec (.slotLive n) s = .next t ∧ (t.slot n).st = .live ∧ (t.slot n).image = (s.slot n).image ∧ (t.slot n).gen = (s.slot n).gen ∧
      ∀ p, s.sliceIn p = true → ((t.slice p).slots[n]).st = .live) ∧
  (∀ (p : SliceNo) (n : Fin 64) (s : State), s.sliceIn p = true → s.awake spgIsl = true →
    (s.slot n).st = .retiring ∨ ((s.slot n).st = .live ∧ (s.slot n).draining = true) →
    ((s.slice p).slots[n]).st ≠ .live ∨ ((s.slice p).slots[n]).draining = true →
    ((s.slice p).slots[n]).inUse = 0 → ((s.slice p).slots[n]).reported = false →
    exec (.slotDrainedReport p n) s = .next (s.onSlice p fun x => { x with slots := x.slots.set n { x.slots[n] with reported := true } })) ∧
  (∀ (n : Fin 64) (s : State), s.awake spgIsl = true → (s.slot n).st = .retiring → (∀ p, s.drained p n = true) → (s.slot n).cur = none →
    exec (.slotDrainComplete n) s = .next (((s.slotFree n).bump spgIsl spgRetires).slotGo n)) ∧
  ∀ (n : Fin 64) (s : State) (c : SlotCmd), s.awake spgIsl = true → (s.slot n).cur = some c → (s.slot n).st = .live → (s.slot n).draining = true →
    s.consistent = false → 2 ^ 20 ≤ elapsed (s.now spgIsl) (s.slot n).holdAt →
    exec (.slotHoldTimeout n) s = .next ((s.bump spgIsl spgHoldFail).slotUnhold n c stTableHeld))

/-! The Eyepiece. -/

/-- PLATE_ADMISSIBLE (R159, R229): a plate that has arrived and that nobody wants any more leaves; an unwritten one that is wanted for a
consumer is delivered as zeros when its turn of admission comes. CONTEXT_SWITCH (R228): a stream that waits takes a free context.
LANE_ASSIGN (R231): the first plate with a substream left, its table cached, gives it to the lowest free lane. TABLE_CACHE_FILL (R232): a
slot that a plate in decode needs enters the cache of eight. SUBSTREAM_END (R197, R198, R207): the substream on a lane is decoded with its
slot's table, and the lane is free unless the plate is finished by it. SUBSTREAM_DECODE_TIMEOUT (R197): one that does not end in 160
cycles fails. -/
def Obligations.EyepieceRows : Prop :=
  ((∀ (p : SliceNo) (id : Nat) (s : State) (a : Arrived), s.pathLive p = true → (s.slice p).eye.arrived.find? (fun a => a.id == id) = some a →
    (s.slice p).eye.wantOf id = none → exec (.plateAdmissible p id) s =
      .next (s.onSlice p fun x => { x with eye := { x.eye with arrived := x.eye.arrived.filter fun a => a.id != id } })) ∧
  (∀ (p : SliceNo) (id : Nat) (s : State) (a : Arrived) (t : EStream) (w : Want), s.pathLive p = true →
    (s.slice p).eye.arrived.find? (fun a => a.id == id) = some a → (s.slice p).eye.wantOf id = some (t, w) → s.parkFull = false →
    (if w.use.stored then s.consumerFree p w.use = true else s.nextAdmit p = some id) → a.unwritten = true → (∀ d, w.use ≠ .copy d) →
    (∀ j, w.use ≠ .lines j) →
    let u := s.takeArrived p id
    exec (.plateAdmissible p id) s = .next ((if w.use.stored then u else u.onSlice p fun x => { x with eye := {
      x.eye with lastCtx := (s.slice p).eye.ctxOf t.id } }).eyeDeliver p t.run w (zeroPlate w w.obj.format a.marked) 0 (!a.marked))) ∧
  (∀ (p : SliceNo) (c : Fin 16) (s : State) (t : EStream), s.pathLive p = true → s.running (psIsl p) = true → (s.slice p).ctxWaiting = some t →
    (s.slice p).eye.ctxs[c] = none → exec (.contextSwitch p c) s =
      .next ((s.onSlice p fun x => { x with eye := { x.eye with ctxs := x.eye.ctxs.set c (some t.id) } }).eyeAsk p)) ∧
  (∀ (p : SliceNo) (s : State) (f : InFlight) (l : Fin 128), s.pathLive p = true →
    (s.slice p).eye.flight.find? (fun f => !f.parked && !f.subs.isEmpty) = some f → (s.slice p).eye.tcache.contains (Fin.ofNat 64 f.hdr.slot) = true →
    (s.slice p).eye.freeLane = some l → exec (.laneAssign p) s = .next (s.onSlice p fun x => { x with eye := { x.eye with
      lanes := x.eye.lanes.set l (some (f.want.id, f.subs.headD 0))
      flight := mapIf (fun g => g.want.id == f.want.id) (fun g => { g with subs := g.subs.drop 1 }) x.eye.flight } })) ∧
  ∀ (p : SliceNo) (n : Fin 64) (s : State), s.pathLive p = true → (s.slice p).eye.tcache.contains n = false →
    (s.slice p).eye.slotsUsed.contains n.val = true → (s.slice p).eye.tcache.length < 8 →
    exec (.tableCacheFill p n) s = .next (s.onSlice p fun x => { x with eye := { x.eye with tcache := n :: x.eye.tcache } })) ∧
  (∀ (p : SliceNo) (l : Fin 128) (s : State) (f : InFlight) (i : Nat), s.pathLive p = true → (s.slice p).eye.laneHolds l = some (f, i) →
    s.mayFinish p f = true →
    let tab := (s.slice p).tableFor f
    let bits := subBits f.hdr.rate f.arr.body i
    (subTimesOut tab (f.hdr.floor.getLsbD i) bits = false → (s.isl (psIsl p)).armed = none →
      exec (.substreamEnd p l) s = .next (s.subDone p l f i (decodeSub tab (f.hdr.floor.getLsbD i) (f.hdr.used.getD i 0) bits))) ∧
    (subTimesOut tab (f.hdr.floor.getLsbD i) bits = true → exec (.substreamDecodeTimeout p l) s = .next (s.subDone p l f i none)) ∧
    ∀ r, (KMap.put f.done i (match r with | some v => v.1 | none => [])).length ≠ 16 → ((s.subDone p l f i r).slice p).eye.lanes[l] = none)

/-! Engines. -/

/-- The rows of the Dense Plate Engine (R278-R286, R318-R320): ROW_BLOCK_LOAD moves to the next thing the row block needs, and so begins
the first queued command when none runs; PASS_START waits with code 1 while a weight is missing, and with weights, activations and
accumulator pages at hand the pass begins at row 0 and its weights leave the Eyepiece; the accumulator whose last row was issued first, 48
cycles ago, becomes output, a plate for each row of its block that was not given to the Sparse Merge Engine; ACCUMULATOR_DRAIN sends the
first output plate that stands in the slice on, or into the block of the pair's second stage, and counts the job; ENGINE_CHOICE asks for
the occupancy maps it needs, and with all of them there gives each output plate of the row block, or of the next one, to the Sparse Merge
Engine or leaves it to the Dense Plate Engine. -/
def Obligations.DenseEngineRows : Prop :=
  (∀ (p : SliceNo) (s : State), s.pathLive p = true → exec (.rowBlockLoad p) s = .next (s.blockLoad p)) ∧
  (∀ (p : SliceNo) (s : State) (j : MatJob) (j2 : Option MatJob) (rest : List (MatJob × Option MatJob)), s.pathLive p = true →
    let u := s.dpeAbsorb p
    (u.slice p).dpe.job = none → (u.slice p).dpe.queue = (j, j2) :: rest → u.blocksFree p = true → u.begins (psIsl p) = true →
    (u.slice p).pair.joined = false → j.join = false → exec (.rowBlockLoad p) s = .next (u.beginMatmul p j j2 rest)) ∧
  (∀ (p : SliceNo) (s : State) (j : MatJob), s.pathLive p = true → let u := s.dpeAbsorb p
    let d := (u.slice p).dpe
    d.cur = some j → d.blkP ≠ 0 → d.chosen = true → d.pass = [] → d.nextPass (u.arrays p) ≠ [] → u.abandoned j.run = false →
    u.passUses p j.run (d.nextPass (u.arrays p)) = none → exec (.passStart p) s = .next ((u.onDpe p fun d => { d with stall := 1 }).askPass p)) ∧
  (∀ (p : SliceNo) (s : State) (j : MatJob) (us : List PassUse), s.pathLive p = true → let u := s.dpeAbsorb p
    let d := (u.slice p).dpe
    let l := d.nextPass (u.arrays p)
    d.cur = some j → d.blkP ≠ 0 → d.chosen = true → d.pass = [] → l ≠ [] → u.abandoned j.run = false → u.passUses p j.run l = some us →
    (∀ e ∈ l, ∀ i ∈ d.rows, (d.act i e.2.kp).isSome = true) → u.accRoom p (d.newCols l) = true →
    (∀ v ∈ us, v.plate.poison = false) →
    let keys := l.map fun e => (e.2.n, e.2.kp)
    let drop (t : State) (q : SliceNo) : State := t.onSlice q fun x => { x with eye := x.eye.dropWeights j.run keys }
    exec (.passStart p) s = .next ((drop (drop (u.onDpe p fun d => { d with
      pass := us, row := 0, failed := [], stall := 0
      accs := d.accs ++ (d.newCols l).map fun e => d.newAcc e.1 (u.arraySlice p e.2)
      repair := d.repair.filter fun st => !(l.any fun e => e.2 == st), steps := d.steps.filter fun st => !(l.any fun e => e.2 == st)
      weights := d.weights.filter fun k => !keys.contains k, actKeys := [] }) p) (twinOf p)).askPass p)) ∧
  (∀ (p : SliceNo) (s : State) (a : Acc), s.pathLive p = true → (s.slice p).dpe.nextFinal (s.now (psIsl p)) = some a →
    48 ≤ elapsed (s.now (psIsl p)) (a.doneAt.getD 0) →
    let out := ((List.range a.p).map fun x => (a.row0 + x, x)).filter fun e => !a.skip.contains e.1
    exec (.outputFinal p) s = .next ((s.onDpe p fun d => { d with
      accs := d.accs.erase a
      drain := d.drain ++ out.map fun e => {
        i := e.1, n := a.n, row0 := a.row0, p := a.p, second := a.second, at_ := a.at_
        rows := (a.rows.drop (128 * e.2)).take 128, poison := a.poison.contains e.1 } }).bump (psIsl p) psDpeDiscard (a.p - out.length))) ∧
  (∀ (q p : SliceNo) (s : State) (j : MatJob) (o : OutPlate), s.pathLive q = true → s.drainFrom q = some (p, o) →
    (if o.second then (s.slice p).dpe.job2 else (s.slice p).dpe.job) = some j → s.outRoom q j = true →
    let v := (s.onDpe p fun d => { d with drain := d.drain.erase o }).bump (psIsl q) psDpeJobs
    let w := if o.poison then v.bump (psIsl q) psDpePoison else v
    (j.dest ≠ 2 → exec (.accumulatorDrain q) s = .next (w.outPlate q j o.i o.n o.rows.flatten o.poison false)) ∧
    (∀ k, j.dest = 2 → (s.slice p).dpe.job2 = some k → exec (.accumulatorDrain q) s = .next (w.onDpe p fun d => { d with
      staged := d.staged ++ [(o.i, o.n, {
        fmt := k.cfmt, codes := (convertTo k.cfmt o.rows.flatten).1, scales := (convertTo k.cfmt o.rows.flatten).2
        map := BitVec.allOnes 256, poison := o.poison })] }))) ∧
  (∀ (p : SliceNo) (s : State) (j : MatJob), s.pathLive p = true → let u := s.dpeAbsorb p
    let d := (u.slice p).dpe
    d.job = some j → d.choiceRows ≠ [] → j.engineOf = 0 → d.mapsAsked = none →
    exec (.engineChoice p) s = .next (u.askMaps p j d.choiceRows)) ∧
  ∀ (p : SliceNo) (s : State) (j : MatJob) (asked : List (Bool × Nat)), s.pathLive p = true → let u := s.dpeAbsorb p
    let d := (u.slice p).dpe
    let given := (d.choiceRows.flatMap fun i => d.cols.map fun n => (i, n)).filter fun e => (u.chooseJob p j e.1 e.2).1
    d.job = some j → d.choiceRows ≠ [] → j.engineOf = 0 → d.mapsAsked = some asked →
    (∀ a ∈ asked, ∃ e ∈ d.maps, e.1 = a) → ∃ t, exec (.engineChoice p) s = .next t ∧ (t.slice p).dpe.mapsAsked = none ∧
      (d.blkP ≠ 0 → d.chosen = false → (t.slice p).dpe.chosen = true ∧ (t.slice p).dpe.toSme = given) ∧
      (d.blkP = 0 ∨ d.chosen = true → (t.slice p).dpe.next = some given ∧ (t.slice p).dpe.toSme = d.toSme) ∧
      (∀ q, q ≠ p → t.slice q = u.slice q) ∧ t.cmd = u.cmd

/-- ACTIVATION_ROW_ISSUE (R275-R277, R279, R282, R452): one row of the block goes through every array of the pass. Where no check fails,
each array whose step has reached the row forms its dot products, the sum of each run of arrays that hold one column is added into the
column's accumulator row, and the pass goes on with the next row; with one array the dot products themselves are added. Where the check of
the row fails in an array, nothing is added, the array adds nothing more in the pass, a repair step from this row on is recorded, and its
detector hears of it. -/
def Obligations.RowsAreIssued : Prop :=
  (∀ (p : SliceNo) (s : State) (j : MatJob) (u : PassUse), s.pathLive p = true → (s.slice p).dpe.cur = some j → (s.slice p).dpe.pass = [u] →
    u.step.row0 ≤ (s.slice p).dpe.row → (s.slice p).dpe.failed = [] → s.rowFails p [] = [] →
    let d := (s.slice p).dpe
    let t := d.row
    ∀ a : Plate, d.act (d.blkRow + t / 128) u.step.kp = some a → a.poison = false → t + 1 ≠ 128 * d.blkP → u.arr < 64 → s.arraySlice p u.arr = p →
    ∃ x, exec (.activationRowIssue p []) s = .next x ∧ (x.slice p).dpe.row = t + 1 ∧ (x.slice p).dpe.pass = [u] ∧
      (x.slice p).dpe.accs = addSums d.accs t [(u.step.n, arrayRow a u.plate (t % 128))] ∧
      (∀ q, q ≠ p → x.slice q = s.slice q) ∧ x.cmd = s.cmd) ∧
  (∀ (p : SliceNo) (failing : List (Fin 64)) (s : State) (j : MatJob), s.pathLive p = true → (s.slice p).dpe.cur = some j →
    (s.slice p).dpe.pass ≠ [] → (s.slice p).dpe.failed = [] → s.rowFails p failing = [] →
    let d := (s.slice p).dpe
    let t := d.row
    let a (u : PassUse) : Plate := (d.act (d.blkRow + t / 128) u.step.kp).getD (Plate.zeros j.cfmt)
    (∀ u ∈ d.pass, (a u).poison = false) → t + 1 ≠ 128 * d.blkP →
    let runs := columnRuns ((List.range 64).filterMap fun arr =>
      if d.pass.any (fun u => u.arr == arr) || (s.arrays p).contains arr then some ((d.pass.find? fun u => u.arr == arr).map fun u =>
        (u.step.n, if u.step.row0 ≤ t then [(arr, arrayRow (a u) u.plate (t % 128))] else [])) else none)
    ∃ x, exec (.activationRowIssue p failing) s = .next x ∧ (x.slice p).dpe.row = t + 1 ∧ (x.slice p).dpe.pass = d.pass ∧
      (x.slice p).dpe.accs = addSums d.accs t
        (runs.map fun e => (e.1, runSum (s.freeNats (d.pass.filter fun u => u.step.row0 ≤ t).length).1 e.2)) ∧
      (∀ q, q ≠ p → x.slice q = s.slice q) ∧ x.cmd = s.cmd) ∧
  ∀ (p : SliceNo) (f : Fin 64) (s : State) (j : MatJob) (u : PassUse), s.pathLive p = true → (s.slice p).dpe.cur = some j →
    (s.slice p).dpe.pass = [u] → u.arr = f.val → u.step.row0 ≤ (s.slice p).dpe.row → (s.slice p).dpe.failed = [] →
    (s.slice p).dpe.row + 1 ≠ 128 * (s.slice p).dpe.blkP → s.arraySlice p u.arr = p →
    ∃ x, exec (.activationRowIssue p [f]) s = .next x ∧ (x.slice p).dpe.row = (s.slice p).dpe.row + 1 ∧ (x.slice p).dpe.failed = [u.arr] ∧
      (x.slice p).dpe.accs = (s.slice p).dpe.accs ∧ (x.slice p).dpe.repair = (s.slice p).dpe.repair ++ [{
        n := u.step.n, kp := u.step.kp, row0 := (s.slice p).dpe.row, repair := true, avoid := some u.arr }] ∧
      (x.isl (psIsl p)).detQueue = (s.isl (psIsl p)).detQueue ++ [{
        code := 0x0105, inst := BitVec.ofNat 16 (u.arr % 32), oid := j.b.oid, plate := BitVec.ofNat 24 (j.bPlate u.step.n u.step.kp) }] ∧
      (∀ q, q ≠ p → x.slice q = s.slice q) ∧ x.cmd = s.cmd

/-- Binocular mode (R292, R294): PAIR_JOIN joins the two slices of a pair that both stand between blocks, under the lead of the one that
waits; PAIR_SEPARATE parts them when the command is over; a slice with a shut datapath whose port end has settled hands it to its twin,
which serves it; and the twin takes it up with empty caches. -/
def Obligations.PairRows : Prop :=
  (∀ (k : Fin 16) (s : State), (s.slice (pairLow k)).pair.joinWait = true → s.pathLive (pairLow k) = true →
    (s.slice (pairLow k)).pair.joined = false →
    s.joinDeclined (pairLow k) = false → (s.slice (pairLow k)).noBlock = true → (s.slice (pairHigh k)).noBlock = true →
    ∃ t, exec (.pairJoin k) s = .next t ∧ (t.slice (pairLow k)).pair.joined = true ∧ (t.slice (pairLow k)).pair.lead = true ∧
      (t.slice (pairHigh k)).pair.joined = true ∧ (t.slice (pairHigh k)).pair.lead = false ∧
      (∀ q, q ≠ pairLow k → q ≠ pairHigh k → t.slice q = s.slice q) ∧ t.cmd = s.cmd) ∧
  (∀ (k : Fin 16) (s : State), (s.slice (pairLow k)).pair.lead = true → (s.slice (pairLow k)).pair.joined = true →
    (s.slice (pairLow k)).joinOver = true → ∃ t, exec (.pairSeparate k) s = .next t ∧ (t.slice (pairLow k)).pair.joined = false ∧
      (t.slice (pairHigh k)).pair.joined = false ∧ (∀ q, q ≠ pairLow k → q ≠ pairHigh k → t.slice q = s.slice q) ∧ t.islands = s.islands ∧
      t.cmd = s.cmd) ∧
  (∀ (p : SliceNo) (s : State), (s.isl (psIsl p)).live = true → (s.slice p).dataShut = true → (s.slice p).pair.noticeSent = false →
    s.twinServes p = true → (s.slice p).mp.settled = true → ∃ t, exec (.portEndReadyNotice p) s = .next t ∧
      (t.slice p).pair.noticeSent = true ∧ (t.slice (twinOf p)).pair.serving = true ∧
      (t.slice (twinOf p)).pair.noticeAt = some (s.now (psIsl (twinOf p))) ∧ t.islands = s.islands) ∧
  ∀ (p : SliceNo) (s : State), s.awake (psIsl p) = true → (s.slice p).pair.serving = true → (s.slice (twinOf p)).mp.bridged = false →
    (s.slice (twinOf p)).pair.noticeSent = true → ∃ t, exec (.twinTakeUp p) s = .next t ∧ OnlySlice (twinOf p) s t ∧
      (t.slice (twinOf p)).mp = { (s.slice (twinOf p)).mp with bridged := true, cache := [] } ∧
      (t.slice (twinOf p)).home.icache = [] ∧ (t.slice (twinOf p)).pair.portEnd = true

/-- The rows of the Sparse Merge Engine (R297-R313): CHUNK_QUEUE goes on with the group's next chunk; a lane takes the first task of its
queue, and a task without updates ends at once; an idle lane takes from its victim the newer half, newest first; a spill record joins the
strip; a group with all tasks done drains its jobs as fast as their destination takes them and, with none spilled, ends; and a drain round
first reads the strip back. -/
def Obligations.SparseEngineRows : Prop :=
  (∀ (p : SliceNo) (s : State) (j : MatJob), s.pathLive p = true → (s.slice p).dpe.job = some j → (s.slice p).sme.draining = false →
    s.abandoned j.run = false → s.lanes p ≠ [] → exec (.chunkQueue p) s = .next (s.chunkNext p j)) ∧
  (∀ (p : SliceNo) (l : Fin 32) (s : State) (j : MatJob) (t : Task) (rest : List Task), s.pathLive p = true → (s.slice p).dpe.job = some j →
    (∀ w ∈ (s.slice p).sme.work, w.lane ≠ l.val) → (s.slice p).sme.queues[l] = t :: rest → (s.lanes p).contains l.val = true →
    s.abandoned j.run = false →
    let u := s.onSme p fun m => { m with queues := m.queues.set l rest }
    exec (.taskRun p l) s = .next (if ((s.slice p).sme.updates j t).isEmpty then u.taskEnds p l.val t
      else u.onSme p fun m => { m with work := m.work ++ [{ lane := l.val, task := t, left := (s.slice p).sme.updates j t }] })) ∧
  (∀ (p : SliceNo) (l v : Fin 32) (s : State), s.pathLive p = true → (s.lanes p).contains l.val = true → (s.slice p).sme.queues[l] = [] →
    (∀ w ∈ (s.slice p).sme.work, w.lane ≠ l.val) →
    (s.slice p).sme.victim (if s.logical p then 32 else 16) (s.lanes p) l.val = some v.val →
    let q := (s.slice p).sme.queues[v]
    exec (.workSteal p l) s = .next ((s.onSme p fun m => { m with
      queues := (m.queues.set v (q.take (q.length - q.length / 2))).set l ((q.drop (q.length - q.length / 2)).reverse) }).bump
      (psIsl (s.laneSlice p l.val)) psSmeSteals (q.length / 2))) ∧
  (∀ (p : SliceNo) (s t : State) (j : MatJob) (r : HEnt) (rest : List HEnt), s.pathLive p = true → (s.slice p).dpe.job = some j →
    (s.slice p).sme.spill = r :: rest → (s.onSme p fun m => { m with spill := rest }).stripAdd p j [r] = some t →
    (s.stripKnown j (cdiv ((s.slice p).sme.strip.length + 1) 126)).1 = true →
    exec (.spillRecordWrite p) s = .next (t.stripFlush p j false)) ∧
  (∀ (p : SliceNo) (s : State) (j : MatJob), s.pathLive p = true → (s.slice p).dpe.job = some j → (s.slice p).sme.group ≠ [] →
    (s.slice p).sme.draining = false → j.chunks ≤ (s.slice p).sme.chunk → (s.slice p).sme.tasks = [] → (s.slice p).sme.spill = [] →
    (s.slice p).sme.undrained = [] → (s.stripKnown j 0).1 = true →
    let t := State.drainJobs p j (s.slice p).sme.plain s
    ((t.slice p).sme.plain = [] → exec (.groupEnd p) s = .next (t.onSme p Sme.endGroup)) ∧
    ((t.slice p).sme.plain ≠ [] → exec (.groupEnd p) s = .next t)) ∧
  ∀ (p : SliceNo) (s : State) (j : MatJob), s.pathLive p = true → (s.slice p).dpe.job = some j → (s.slice p).sme.draining = true →
    (s.slice p).sme.round = false → exec (.drainRound p) s = .next
      (((s.openStream p j.run j.spill ((List.range (s.slice p).sme.stripOut).map fun x => (x, Use.strip x)) none false).onSme p fun m =>
        { m with round := true }).bump (psIsl p) psHaccRounds)

/-! Command queues. -/

/-- ENTRY_FETCH (R336-R338): a local queue's next entry whose index, phase and check agree is accepted: HEAD moves on, and nothing of
another queue changes; one that does not agree makes the queue wait for a re-fetch. A host queue asks for the entries up to the next block
of eight, TAIL or the room left. STALE_REFETCH (R339): attempt k is made 256·2^k CMD cycles after the last answer, and counted. -/
def Obligations.EntriesAreFetched : Prop :=
  (∀ (q : Fin 64) (s : State), s.mayFetch q = true → (s.cq q).stale = none → (s.cq q).host = false →
    let ws := s.cmd.storeEntry ((s.cq q).lbase.toNat + (s.cq q).head.toNat % (s.cq q).size)
    (entryFits (s.cq q).head ws = true → exec (.entryFetch q) s = .next ((s.onCq q fun c => { c with
      head := c.head + 1, stale := none, accepted := c.accepted ++ [{ idx := c.head, words := ws, after := s.cmd.runs.map (·.id) }] }).bump
      cmdIsl cmdAccepted)) ∧
    (entryFits (s.cq q).head ws = false → exec (.entryFetch q) s = .next (s.onCq q fun c => { c with stale := some (0, s.now cmdIsl) }))) ∧
  (∀ (q : Fin 64) (s : State), s.mayFetch q = true → (s.cq q).stale = none → (s.cq q).host = true →
    let c := s.cq q
    let n := min (8 - c.head.toNat % 8) (min (c.tail - c.head).toNat (16 - c.accepted.length))
    let addr := c.ring.toNat * 4096 + 64 * (c.head.toNat % c.size)
    s.cmd.winAdmits c.win addr (64 * n) = true → ∃ t, exec (.entryFetch q) s = .next t ∧ OnlyCmd { s with nextId := s.nextId + 1 } t ∧
      (t.cq q).fetch = some { id := s.nextId, first := c.head, count := n } ∧ (∀ r, r ≠ q → t.cq r = s.cq r) ∧
      t.cmd.nwWaiting = s.cmd.nwWaiting ++ [{
        why := .fetch q s.nextId, wr := false, win := c.win, addr := addr, len := 64 * n, queue := some (q, c.epoch) }]) ∧
  ∀ (q : Fin 64) (s : State) (k : Nat) (t0 : Ctr), s.mayFetch q = true → (s.cq q).stale = some (k, t0) → (s.cq q).host = false →
    2 ^ k * 256 ≤ elapsed (s.now cmdIsl) t0 → exec (.staleRefetch q) s =
      .next (((s.onCq q fun c => { c with stale := some (k + 1, t0) }).bump cmdIsl cmdRefetch).takeEntry q
        (s.cmd.storeEntry ((s.cq q).lbase.toNat + (s.cq q).head.toNat % (s.cq q).size)))

/-- The start of a command (R331, R333, R341, R342): when the queue to serve next has an entry of the row's opcode at its front, its
records are known and every check passes, the entry leaves the queue and its command starts with its effect; when a check fails, the
command starts with that status and without its effect. One clause for each opcode; the two entries of a STAGE pair start one command
together, and a second stage without a first starts with BAD_DESCRIPTOR (R334). -/
def Obligations.CommandsStart : Prop :=
  (∀ (q : Fin 64) (s : State) (op : Nat) (e : Entry), s.entryOf q op = some e → e.isStage = false → e.isSecond = false → s.askFor e = [] →
    let st := s.startStatus e
    let r := s.newRun q e none st
    let u := s.startRun q r
    (op = opNop → exec (.nop q) s = .next u) ∧ (op = opFence → exec (.fence q) s = .next u) ∧
    (st = stOk →
      (op = opMatmul → exec (.plateMatmul q) s = .next (launchMatmul r u)) ∧ (op = opExport → exec (.exportCmd q) s = .next (launchExport r u)) ∧
      (op = opImport → exec (.importCmd q) s = .next (launchImport r u)) ∧ (op = opCompress → exec (.compress q) s = .next (launchCompress r u)) ∧
      (op = opRecode → exec (.recode q) s = .next (launchRecode r u)) ∧ (op = opMove → exec (.move q) s = .next (launchResidency r u)) ∧
      (op = opCopy → exec (.copy q) s = .next (launchCopy r u)) ∧ (op = opPrefetch → exec (.prefetch q) s = .next (launchResidency r u)) ∧
      (op = opEvict → exec (.evict q) s = .next (launchResidency r u)) ∧ (op = opPin → exec (.pin q) s = .next (launchResidency r u)) ∧
      (op = opUnpin → exec (.unpin q) s = .next (launchResidency r u)) ∧ (op = opReduce → exec (.reduce q) s = .next (launchReduce r u)) ∧
      (op = opHostRead → exec (.hostRead q) s = .next (launchHostRead r u)) ∧
      (op = opHostWrite → exec (.hostWrite q) s = .next (launchHostWrite r u)) ∧ (op = opSignal → exec (.signal q) s = .next (launchSignal r u)) ∧
      (op = opWait → exec (.wait q) s = .next (launchWait r u)) ∧ (op = opTableLoad → exec (.tableLoad q) s = .next (launchTableLoad r u)) ∧
      (op = opTableRetire → exec (.tableRetire q) s = .next (launchTableRetire r u)) ∧ (op = opScrub → exec (.scrub q) s = .next (launchScrub r u))) ∧
    (st ≠ stOk →
      (op = opMatmul → exec (.plateMatmul q) s = .next u) ∧ (op = opExport → exec (.exportCmd q) s = .next u) ∧
      (op = opImport → exec (.importCmd q) s = .next u) ∧ (op = opCompress → exec (.compress q) s = .next u) ∧
      (op = opRecode → exec (.recode q) s = .next u) ∧ (op = opMove → exec (.move q) s = .next u) ∧ (op = opCopy → exec (.copy q) s = .next u) ∧
      (op = opPrefetch → exec (.prefetch q) s = .next u) ∧ (op = opEvict → exec (.evict q) s = .next u) ∧
      (op = opPin → exec (.pin q) s = .next u) ∧ (op = opUnpin → exec (.unpin q) s = .next u) ∧ (op = opReduce → exec (.reduce q) s = .next u) ∧
      (op = opHostRead → exec (.hostRead q) s = .next u) ∧ (op = opHostWrite → exec (.hostWrite q) s = .next u) ∧
      (op = opSignal → exec (.signal q) s = .next u) ∧ (op = opWait → exec (.wait q) s = .next u) ∧
      (op = opTableLoad → exec (.tableLoad q) s = .next u) ∧ (op = opTableRetire → exec (.tableRetire q) s = .next u) ∧
      (op = opScrub → exec (.scrub q) s = .next u))) ∧
  (∀ (q : Fin 64) (s : State) (a b : Entry), s.entryOf q opMatmul = some a → a.isStage = true → ((s.cq q).accepted.drop 1).head? = some b →
    s.askFor a = [] → (b.isSecond = true → s.askFor b = []) →
    let st := s.pairStatus a b
    let r := s.newRun q a (some b) st
    exec (.plateMatmul q) s = .next (if st = stOk then launchMatmul r (s.startRun q r) else s.startRun q r)) ∧
  ∀ (q : Fin 64) (s : State) (e : Entry), s.entryOf q opMatmul = some e → e.isStage = false → e.isSecond = true → s.askFor e = [] →
    exec (.plateMatmul q) s = .next (s.startRun q (s.newRun q e none stBadDescriptor))

/-- What starting does to CMD: the run joins those that run, the queue's accepted entries lose the one that started, the queue is the one
last served, and no island, quadrant, slice or group changes (R342). A local SIGNAL sets a counter to VALUE, or adds VALUE to it (R350). A
WAIT whose counter has reached VALUE goes on; else it holds its queue until WAIT_RELEASE finds the counter there (R351). -/
def Obligations.SignalWaitFence : Prop :=
  (∀ (q : Fin 64) (s : State) (r : CmdRun), r.second = none → (s.startRun q r).cmd.runs = s.cmd.runs ++ [r] ∧ (s.startRun q r).cmd.lastQ = q.val ∧
    (s.startRun q r).cq q = { s.cq q with accepted := (s.cq q).accepted.drop 1 } ∧ (∀ p, p ≠ q → (s.startRun q r).cq p = s.cq p) ∧
    (s.startRun q r).islands = s.islands ∧ (s.startRun q r).quads = s.quads ∧ (s.startRun q r).slices = s.slices ∧
    (s.startRun q r).groups = s.groups) ∧
  (∀ (r : CmdRun) (s : State), bitAt (r.entry.word 1) 51 = false → ∃ t, launchSignal r s = t ∧ OnlyCmd s t ∧
    (let n : Fin 256 := Fin.ofNat 256 (bits 8 (r.entry.word 1) 32).toNat
     t.cmd.sig = s.cmd.sig.set n (if bitAt (r.entry.word 1) 50 then bits 32 (r.entry.word 1) 0 else s.cmd.sig[n] + bits 32 (r.entry.word 1) 0))) ∧
  (∀ (r : CmdRun) (s : State), let c := s.cmd.sig[Fin.ofNat 256 (fld (r.entry.word 1) 39 32)]
    ((c - bits 32 (r.entry.word 1) 0).toNat < 2 ^ 31 → launchWait r s = s) ∧
    (2 ^ 31 ≤ (c - bits 32 (r.entry.word 1) 0).toNat → ((launchWait r s).cq r.q).wait =
      some (r.id, fld (r.entry.word 1) 39 32, bits 32 (r.entry.word 1) 0) ∧ (launchWait r s).mayStart r.q = false)) ∧
  ∀ (q : Fin 64) (s : State) (run c : Nat) (v : BitVec 32), s.awake cmdIsl = true → (s.cq q).wait = some (run, c, v) →
    ((s.cmd.sig[Fin.ofNat 256 c] : BitVec 32) - v).toNat < 2 ^ 31 →
    exec (.waitRelease q) s = .next ((s.onCq q fun c => { c with wait := none }).onRun run fun r => { r with waiting := false })

/-- COMMAND_COMPLETE (R345, R364, R466): a command with nothing under way that is not to run again is finished; one whose host record has
been acknowledged or lost leaves, with its local record; and in Consistent mode one whose writes carry poison from a word of this block's
own memories is run again from its start (its abandoned commits counting as lost, which is the model's reading of R466, log entry 57).
CQ_RECORD_HELD_WRITE (R365): the oldest record held for a completion queue is written once the queue has room. HOST_COMPLETION_WRITE
(R366-R368): a host completion record that is due and may be issued goes to the host; one that may not is lost. QUEUE_RESET, QUEUE_HALT
and QUEUE_RESUME (R339, R376): a reset of a queue with no accepted entry sets HEAD and TAIL to the new head and ends a stale wait and a
fetch; HALT halts a queue that is not halted, with CAUSE 2; RESUME ends a halt; and nothing else changes. -/
def Obligations.CommandsComplete : Prop :=
  ((∀ (run : Nat) (s : State) (r : CmdRun), s.awake cmdIsl = true → s.findRun run = some r → r.done = false → r.stopped = false → s.busy r = false →
    r.tainted = false → s.retries r = false → exec (.commandComplete run) s = .next (s.finish r)) ∧
  (∀ (run : Nat) (s : State) (r : CmdRun), s.awake cmdIsl = true → s.findRun run = some r → r.done = true →
    r.hrec = .acked ∨ r.hrec = .lost → exec (.commandComplete run) s = .next (s.retire r)) ∧
  (∀ (cq : Fin 16) (s : State) (h : HeldRec), s.awake cmdIsl = true → s.cmd.held.find? (fun h => h.cq == cq) = some h →
    s.canOpen 0 (0x2100 + cq.val) 1 = true → ∃ t, exec (.cqRecordHeldWrite cq) s = .next t ∧ t.cmd = { s.cmd with held := s.cmd.held.erase h } ∧
      ((t.quad 0).queue (0x2100 + cq.val)).packets = ((s.quad 0).queue (0x2100 + cq.val)).packets ++ [{
        words := plain h.words, length := BitVec.ofNat 16 h.words.length, cells := ((s.quad 0).pick (cellsFor h.words.length)) }] ∧
      t.islands = s.islands ∧ t.slices = s.slices) ∧
  ∀ (run : Nat) (s : State) (r : CmdRun) (e : Entry), s.awake cmdIsl = true → s.findRun run = some r → r.done = true → r.hrec = .due →
    r.entries.filter Entry.hcq = [e] → let c := s.cq r.q
    let a : NwAcc := {
      why := .record run, wr := true, win := c.win, addr := c.hcq.toNat * 4096 + 64 * (e.idx.toNat % c.size), len := 64
      data := fit 64 (wordsBytes (recordWords r.q e.seq e.phase e.epoch e.opcode r false (s.now cmdIsl))), queue := some (r.q, e.epoch) }
    (s.cmd.mayIssue a = true → exec (.hostCompletionWrite run) s = .next ((s.hostRec run .issued).hostAccess a)) ∧
    (s.cmd.mayIssue a = false → exec (.hostCompletionWrite run) s = .next (s.hostRec run .lost))) ∧
  ((∀ (q : Fin 64) (h : BitVec 17) (s : State), (s.isl cmdIsl).live = true → (s.cq q).accepted = [] →
    exec (.queueReset q h false false) s = .next (s.onCq q fun c => { c with head := h, tail := h, stale := none, fetch := none, accepted := [] })) ∧
  (∀ (q : Fin 64) (h : BitVec 17) (a b : Bool) (s : State), (s.isl cmdIsl).live = true → ∃ t, exec (.queueReset q h a b) s = .next t ∧
    (t.cq q).head = h ∧ (t.cq q).tail = h ∧ (b = true → (t.cq q).halted = 0)) ∧
  (∀ (q : Fin 64) (s : State), (s.isl cmdIsl).live = true → (s.cq q).halted = 0 →
    exec (.queueHalt q false) s = .next (s.onCq q fun c => { c with halted := 2 }) ∧ exec (.queueResume q) s = .next s) ∧
  (∀ (q : Fin 64) (s : State), (s.isl cmdIsl).live = true → (s.cq q).halted ≠ 0 →
    exec (.queueHalt q false) s = .next s ∧ exec (.queueResume q) s = .next (s.onCq q fun c => { c with halted := 0, stale := none })) ∧
  ∀ (run : Nat) (s : State) (r : CmdRun), s.awake cmdIsl = true → s.findRun run = some r → r.done = false → s.consistent = true →
    r.tainted = true → s.writesDone r = true → (s.purge run (r.fail stStoreLost).status).busy (r.fail stStoreLost) = false →
    (s.purge run (r.fail stStoreLost).status).retries (r.fail stStoreLost) = true → exec (.commandComplete run) s = .next (launch r.entry.opcode
      (r.fail stStoreLost).again (((s.purge run (r.fail stStoreLost).status).onRun run fun _ => (r.fail stStoreLost).again).bump cmdIsl cmdRetries)))

/-! Meridian Link. -/

/-- The lanes of a link (R97, R380-R382, R403). MARKER_RECEIVE: an intact marker is taken, and may bring the two ends to agree on their
lanes; a broken one, or one MARKER_MISSING, costs the lane its three markers and, where it had them, is a lane event. PMA_RX_LOCK_FALL is
one. PMA_TX_RDY_CHANGE: the lane's transmitter follows its level, and the group comes up or goes down with it. -/
def Obligations.LinkLaneRows : Prop :=
  (∀ (g : GroupNo) (l : Fin 12) (w : BitVec 128) (s : State), s.awake (lgIsl g) = true → (s.linkLaneEn g).getLsbD l.val = true →
    (s.group g).st ≠ .down →
    (markerOk w = true → exec (.markerReceive g l w) s = .next ((s.onGroup g fun q => q.marker l w (s.now (lgIsl g))).agree g)) ∧
    (markerOk w = false → exec (.markerReceive g l w) s = .next (s.loseMark g l))) ∧
  (∀ (g : GroupNo) (l : Fin 12) (s : State), (s.isl (lgIsl g)).live = true → (s.linkLaneEn g).getLsbD l.val = true →
    ∃ t, exec (.markerMissing g l) s = .next t ∧ (t.group g).lanes[l] = { (s.group g).lanes[l] with marks := 0, late := false } ∧
      (∀ h, h ≠ g → t.group h = s.group h) ∧ (t.isl (lgIsl g)).detQueue = (s.isl (lgIsl g)).detQueue ++
        (if (s.group g).lanes[l].marks == 3 then [{ code := 0x0201, inst := BitVec.ofNat 16 l.val }] else [])) ∧
  (∀ (g : GroupNo) (l : Fin 12) (s : State), (s.group g).lanes[l].rxLock = true →
    ∃ t, exec (.pmaRxLockFall g l) s = .next t ∧
      (t.group g).lanes[l] = { (s.group g).lanes[l] with rxLock := false, rxValid := false, marks := 0, late := false } ∧
      (t.isl (lgIsl g)).detQueue = (s.isl (lgIsl g)).detQueue ++
        (if (s.isl (lgIsl g)).live then [{ code := 0x0201, inst := BitVec.ofNat 16 l.val }] else []) ∧
      (∀ h, h ≠ g → t.group h = s.group h)) ∧
  ∀ (g : GroupNo) (l : Fin 12) (b : Bool) (s : State), ∃ u t, exec (.pmaTxRdyChange g l b) s = .next t ∧ t = u.linkUpdate g ∧ OnlyGroup g s u ∧
    (u.group g).lanes[l] = { (s.group g).lanes[l] with txRdy := b }

/-- Frames, flits and training (R386-R397, R406, R408, R409). FRAME_RECEIVE: the words that arrive on the lanes in use are taken, and
where they complete a frame it is decoded. FLIT_SEND: a group whose set is ready sends the flit it chooses, with its acknowledgement and
one channel's credits. REPLAY_TIMEOUT: after 256 cycles without an acknowledgement all flits held are sent again. TRAINING_TIMEOUT: after
2^20 cycles training starts over, and is an event, of a group that is UP where an injection has made its attempt fail. LINK_RETRAIN and
LINK_RESTART: a group that is not DOWN trains again, the second with a fresh start, and counts it; where an injection is armed at TRAIN
(R494), the attempt begun is marked to fail, and the injection is used. -/
def Obligations.LinkRows : Prop :=
  (∀ (g : GroupNo) (words : List (List (BitVec 128))) (s : State), s.awake (lgIsl g) = true →
    (s.group g).st = .hello ∨ (s.group g).st = .up → (s.group g).rxN ≠ 0 → words.length = (s.group g).n →
    exec (.frameReceive g words) s = .next (s.lanesReceive g words).step7Check ∧
    let bits := words.zipIdx.map fun e => (s.group g).rxRest.getD e.2 [] ++ wordBits e.1
    (∃ b ∈ bits, b.length < laneFrameBits (s.group g).n) → ((s.lanesReceive g words).group g).rxRest = bits ∧
      ((s.lanesReceive g words).group g).rxBlocks = (s.group g).rxBlocks ∧ (s.lanesReceive g words).islands = s.islands) ∧
  (∀ (g : GroupNo) (o : List ParityObs) (s : State), s.awake (lgIsl g) = true → (s.group g).st = .hello ∨ (s.group g).st = .up →
    (s.group g).setReady = true →
    let c := s.chooseFlit g o
    let marks := ((List.finRange 12).filter fun i => (s.group g).set.getLsbD i.val).map (s.txMarker g)
    exec (.flitSend g o) s = .next (c.after.onGroup g fun q => ({ q with nakDue := false, crvc := (q.crvc + 1) % 8 }).sendBlocks marks
      (flitBytes c.type q.nakDue c.vc c.seq ((q.rxNext + 127) % 128) q.crvc (q.chans[Fin.ofNat 8 q.crvc]).freed c.payload))) ∧
  (∀ (g : GroupNo) (s : State), s.awake (lgIsl g) = true → (s.group g).st = .up → (s.group g).replay ≠ [] → (s.group g).replaying = [] →
    (s.group g).replays < 7 → 256 ≤ elapsed (s.now (lgIsl g)) (s.group g).ackAt → ∃ t, exec (.replayTimeout g) s = .next t ∧
      (t.group g) = { s.group g with replaying := (s.group g).replay, replays := (s.group g).replays + 1, ackAt := s.now (lgIsl g) } ∧
      (∀ h, h ≠ g → t.group h = s.group h) ∧ ∀ k, k ≠ lgIsl g → t.isl k = s.isl k) ∧
  (∀ (g : GroupNo) (s : State), s.awake (lgIsl g) = true → (s.group g).st = .training ∨ (s.group g).st = .hello ∨
    ((s.group g).st = .up ∧ (s.group g).trainFails = true) → (s.group g).held.isSome = true →
    2 ^ 20 ≤ elapsed (s.now (lgIsl g)) (s.group g).trainAt → (s.isl (lgIsl g)).armedFor 0x0205 0 = false → exec (.trainingTimeout g) s =
      .next ((s.onGroup g fun q => q.train (s.now (lgIsl g))).event (lgIsl g) { code := 0x0205, inst := 0, injected := (s.group g).trainFails })) ∧
  (∀ (g : GroupNo) (s : State), (s.isl (lgIsl g)).live = true → (s.group g).st ≠ .down → (s.isl (lgIsl g)).state ≠ .shut →
    (s.isl (lgIsl g)).armedFor 0x0205 0 = false →
    exec (.linkRetrain g) s = .next ((s.onGroup g fun q => q.train (s.now (lgIsl g))).bump (lgIsl g) lgRetrains) ∧
    exec (.linkRestart g) s =
      .next ((s.onGroup g fun q => { q.train (s.now (lgIsl g)) with freshMine := true }).bump (lgIsl g) lgRetrains)) ∧
  ∀ (g : GroupNo) (s : State), (s.isl (lgIsl g)).live = true → (s.group g).st ≠ .down → (s.isl (lgIsl g)).state ≠ .shut →
    (s.isl (lgIsl g)).armedFor 0x0205 0 = true → ∃ t, exec (.linkRetrain g) s = .next t ∧
      t.group g = { (s.group g).train (s.now (lgIsl g)) with trainFails := true } ∧
      (∀ a, (s.isl (lgIsl g)).armed = some a → a.remaining = 1 → (t.isl (lgIsl g)).armed = none) ∧ ∀ h, h ≠ g → t.group h = s.group h

/-! Fabric transactions. -/

/-- FABRIC_PACKET_ARRIVE (R433): the quadrant takes the front packet of a link's queue and sends it on its way, to its unit or to the
per-peer queue of its block with HOPS raised by one, or nowhere; an abandoned one vanishes. PEER_QUEUE_DISPATCH (R432): of the peers with
a packet that can go, the one after the peer served last goes whole into the queue of its route, and is noted as served. REQUEST_TIMEOUT
(R436): an answer that has not come in 2^22 cycles is counted, and a request that is not sent twice fails as UNREACHABLE. -/
def Obligations.FabricCrossings : Prop :=
  (∀ (x : QuadNo) (j : Fin 4) (v : Fin 8) (o : ParityObs) (s : State) (p : Pkt) (r : List Pkt), ReadsClean x o p s →
    let q := 0x2028 + 16 * j.val + v.val
    let l := s.legIn x v p
    ((s.quad x).queue q).packets = p :: r → p.visible = true → ((s.quad x).queue q).wedged = false → s.mayLeg x l = true → s.legOpen l p = true →
    ∃ u, OnlyQuad x s u ∧ ((u.quad x).queue q).packets = r ∧ exec (.fabricPacketArrive x j v o) s = .next (
      if p.abandoned then u
      else match l with
        | .queue .. => if (pktHead p.words).dest = s.block then u.goOn x (s.taken v p) l else (u.goOn x (s.taken v p) l).bump (xqIsl x) xqRelayPkts
        | _ => u.goOn x (s.taken v p) l)) ∧
  (∀ (x : QuadNo) (v : Fin 8) (o : ParityObs) (s : State) (q q' : Nat) (y : QuadNo) (g : GroupNo) (alt : Bool) (p : Pkt) (r : List Pkt),
    ReadsClean x o p s → s.begins (xqIsl x) = true → ((s.quad x).peersAfter v).find? (fun q => (s.peerNext x q).isSome) = some q →
    s.peerNext x q = some (g, alt, .queue y q') → ((s.quad x).queue q).packets = p :: r → p.abandoned = false →
    ∃ t, exec (.peerQueueDispatch x v o) s = .next t ∧
      ((t.quad x).queue q).packets = r ∧ (t.quad x).lastPeer = (s.quad x).lastPeer.set v (q / 8) ∧
      (∃ e : Pkt, ((t.quad y).queue q').packets = ((s.quad y).queue q').packets ++ [e] ∧ e.words = p.carried ∧ e.cargo = .outbound g) ∧
      (∀ z, z ≠ x → z ≠ y → t.quad z = s.quad z)) ∧
  ∀ (unit : BitVec 6) (tid : BitVec 16) (s : State) (r : FabReq) (k : IslandNo), s.findReq unit tid = some r → unitIsl unit = some k →
    s.awake k = true → r.ptype ≠ ptMirror → 2 ^ 22 ≤ elapsed (s.unitNow unit) r.at_ → toManager r.ptype = false → reissues r.ptype = false →
    exec (.requestTimeout unit tid) s = .next (((s.dropReq r.unit r.tid).bump ephIsl ephTimeouts).reqFails r fsUnreachable)

/-- The home of a span does not serve a span it has not: RD_REQ, WR_REQ and RED_DATA are answered NOT_HOME with the home it knows; of a
halted domain, HALTED; and RED_DATA on an archive node, NOT_COMPUTE (R419, R420, R446, R468). A home serves (R206, R419, R420, R446):
RD_REQ begins the read of the plate for the requester; WR_REQ puts the plate it brings at the back of the home's writes; RED_DATA puts its
values at the back of the sums of a raw object. RD_RSP gives the plate that it brings to the stream that asked. -/
def Obligations.HomesServe : Prop :=
  (∀ (p : SliceNo) (src : Requester) (oid : BitVec 40) (plate : BitVec 24) (s : State), s.homeLive p = true → s.ephLive = true →
    let h (b : Bool) : BitVec 4 × HomeWord := if b then (fsHalted, noHome) else (fsNotHome, s.newHome oid (spanOf plate.toNat))
    s.isHalted (domainOf oid) = true ∨ s.eph.serves oid (spanOf plate.toNat) = .notHome →
    let a := h (s.isHalted (domainOf oid))
    exec (.rdReq p src oid plate) s = .next (s.post (unitPs p) ptRdRsp (fabWords ptRdRsp src.block s.block
      (transWord src.tid src.unit (unitPs p) a.1 0) [word2 oid plate, homeWord a.2])) ∧
    (∀ data, exec (.wrReq p src oid plate data) s = .next (s.ackTo src (unitPs p) a.1 oid plate a.2)) ∧
    ∀ rcc data poison, (∀ c, s.conf (psIsl p) = some c → c.archive = false) →
      exec (.redData p src oid plate rcc data poison) s = .next (s.ackTo src (unitPs p) a.1 oid plate a.2)) ∧
  (∀ (p : SliceNo) (src : Requester) (oid : BitVec 40) (plate : BitVec 24) (rcc : BitVec 2) (data : List Byte) (poison : Bool) (s : State) (c : Conf),
    s.homeLive p = true → s.ephLive = true → s.conf (psIsl p) = some c → c.archive = true →
    exec (.redData p src oid plate rcc data poison) s = .next (s.ackTo src (unitPs p) fsNotCompute oid plate)) ∧
  ((∀ (p q : SliceNo) (src : Requester) (oid : BitVec 40) (plate : BitVec 24) (s : State) (base : Nat) (e : DirEnt), s.homeLive p = true →
    s.ephLive = true → s.isHalted (domainOf oid) = false → s.eph.serves oid (spanOf plate.toNat) = .at q base e →
    (s.parkBlocks oid plate = false → exec (.rdReq p src oid plate) s = .next (s.readHome e.obj plate (.fabric src))) ∧
    (∀ data, s.keyLoaded q e.obj.key = true → ∃ t, exec (.wrReq p src oid plate data) s = .next t ∧ OnlySlice q s t ∧
      (t.slice q).home.inq = (s.slice q).home.inq ++ [{ travelled e.obj plate data with src := some src }]) ∧
    (∀ (rcc : BitVec 2) (data : List Byte) (poison : Bool), (∀ c, s.conf (psIsl p) = some c → c.archive = false) → e.obj.code = 0 → rcc ≠ 3 →
      s.keyLoaded q e.obj.key = true → ∃ t, exec (.redData p src oid plate rcc data poison) s = .next t ∧ OnlySlice q s t ∧
        (t.slice q).home.sums = (s.slice q).home.sums ++ [{
          obj := e.obj, plate := plate, src := src, vals := redValues rcc.toNat data, poison := poison }])) ∧
  ∀ (p q : SliceNo) (tid : BitVec 16) (h : HomeWord) (plate : PlateWords) (s : State) (r : FabReq) (id : Nat) (t : EStream) (w : Want),
    s.awake (psIsl p) = true → s.findReq (unitPs p) tid = some r → r.why = .read q id → (s.slice q).eye.wantOf id = some (t, w) →
    exec (.rdRsp p tid fsOk h plate) s = .next ((s.dropReq r.unit r.tid).onSlice q fun x =>
      { x with eye := { x.eye with arrived := x.eye.arrived ++ [arrivedFrom w plate] } }))

/-- When slot t of a span is VALID its home is the home held in that slot; otherwise its home is its default home, which is slice
ISLICE[(OID + s) mod ICOUNT] of the creating block (R416). -/
def Obligations.HomeOfASpan : Prop :=
  ∀ (m : PMap) (oid : BitVec 40) (span : Nat) (o : MapObj), m.obj oid = some o → 0 < o.icount → (ObjRec.ofWords o.obj).oid = oid →
    (∀ v, m.ovr oid span = some v → (v.slots[Fin.ofNat 8 span]).valid = true →
      m.home oid span = some { block := (v.slots[Fin.ofNat 8 span]).block, slice := Fin.ofNat 32 (v.slots[Fin.ofNat 8 span]).slice.toNat }) ∧
    ((∀ v, m.ovr oid span = some v → (v.slots[Fin.ofNat 8 span]).valid = false) →
      m.home oid span = some { block := o.cblock, slice := Fin.ofNat 32 (o.islice.getD ((oid.toNat + span) % o.icount) 0) })

/-- The manager's map (R201, R415, R420, R422, R436). LOOKUP and OBJ_REQ of an object it holds are answered OK with its entries, and of
another NO_OBJECT. REGISTER of a record it holds is acknowledged, of another record for that OBJECT_ID refused as MISMATCH, and of a new
one enters the map with its member's interleave. CMDX of an object whose domain it does not serve is answered with the refusal, of one it
does not know NO_OBJECT; and MOVE of one span queues one span move. -/
def Obligations.ManagersAnswer : Prop :=
  (∀ (src : Requester) (oid : BitVec 40) (span : BitVec 18) (s : State), s.ephLive = true → s.managerRefuses oid = none →
    (∀ o, s.eph.map.obj oid = some o →
      exec (.lookup src oid span) s = .next (s.mgrAnswer src ptLookupRsp fsOk oid span.toNat (o.words ++ (s.eph.map.ovrOrNull oid span.toNat).words)) ∧
      exec (.objReq src oid) s = .next (s.mgrAnswer src ptObjRsp fsOk oid 0 [o.obj.w0, o.obj.w1])) ∧
    (s.eph.map.obj oid = none →
      exec (.lookup src oid span) s = .next (s.mgrAnswer src ptLookupRsp fsNoObject oid span.toNat (List.replicate 16 0)) ∧
      exec (.objReq src oid) s = .next (s.mgrAnswer src ptObjRsp fsNoObject oid 0 [0, 0]))) ∧
  (∀ (src : Requester) (rec : RecWords) (s : State) (o : MapObj), s.ephLive = true → s.managerRefuses (ObjRec.ofWords rec).oid = none →
    s.ephConf.members.contains src.block = true → s.ephConf.members.contains (s.creatorOf src.block rec) = true →
    s.eph.map.obj (ObjRec.ofWords rec).oid = some o → exec (.register src rec) s =
      .next (s.ackTo src unitEph (if o.obj = rec then fsOk else fsMismatch) (ObjRec.ofWords rec).oid 0)) ∧
  (∀ (src : Requester) (rec : RecWords) (s : State), s.ephLive = true → s.managerRefuses (ObjRec.ofWords rec).oid = none →
    s.ephConf.members.contains src.block = true → s.ephConf.members.contains (s.creatorOf src.block rec) = true →
    s.eph.map.obj (ObjRec.ofWords rec).oid = none → s.eph.map.size < 65536 →
    let il := s.interleaveOf (s.creatorOf src.block rec)
    let e : MapObj := { obj := rec, cblock := s.creatorOf src.block rec, icount := il.1, islice := il.2 }
    exec (.register src rec) s = .next ((s.onEph fun h => { h with map := { h.map with objs := h.map.objs ++ [e] } }).mirrorOut [e.words] [] [src]
      (ObjRec.ofWords rec).oid 0)) ∧
  ∀ (src : Requester) (oid : BitVec 40) (op : BitVec 8) (ws : List W64) (s : State), s.ephLive = true → bits 40 (ws.getD 0 0) 24 = oid →
    (∀ st, s.managerRefuses oid = some st → exec (.cmdx src op ws) s = .next (s.ackTo src unitEph st oid 0 noHome 0 3)) ∧
    (s.managerRefuses oid = none → s.eph.map.obj oid = none → exec (.cmdx src op ws) s = .next (s.ackTo src unitEph fsNoObject oid 0 noHome 0 3)) ∧
    ∀ o, s.managerRefuses oid = none → s.eph.map.obj oid = some o → op = 6 → fld (ws.getD 1 0) 63 40 = 1 →
      ∃ m : SpanMove, s.residencyMove src s.nextId 6 oid (ws.getD 1 0) (fld (ws.getD 0 0) 17 0) = some m ∧ exec (.cmdx src op ws) s =
        .next (((({ s with nextId := s.nextId + 1 } : State)).queueMoves [m]).startJob {
          id := s.nextId, src := src, opcode := 6, oid := oid, left := 1 })

/-- Answers (R201, R345, R420, R428). LOOKUP_RSP fills the placement cache; OBJ_RSP brings the record that was asked for; CMDX_RESULT and
ACK end their request, and with status OK its work goes on as done; with another it fails. An answer that names no outstanding request is
late: it is discarded and counted. -/
def Obligations.AnswersAreTaken : Prop :=
  (∀ (tid : BitVec 16) (ob ov : List W64) (s : State) (r : FabReq) (a : HomeAt), s.ephLive = true → s.findReq unitEph tid = some r → r.why = .lookup →
    let u := (s.dropReq r.unit r.tid).onEph fun h => h.fillCache (mapObjOf ob) (mapOvrOf ov)
    u.eph.cache.home r.oid r.idx.toNat = some a →
    a.block ≠ s.block ∨ (s.eph.serves r.oid r.idx.toNat).slice?.isSome = true ∨ (s.eph.movedTo r.oid r.idx.toNat).isSome = true →
    exec (.lookupRsp tid fsOk ob ov) s = .next u) ∧
  (∀ (tid : BitVec 16) (w : RecWords) (s : State) (r : FabReq) (n : Nat), s.ephLive = true → s.findReq unitEph tid = some r → r.why = .object n →
    exec (.objRsp tid fsOk w) s = .next ((s.dropReq r.unit r.tid).onEph fun h => { h with
      queried := (h.queried.filter fun w => (ObjRec.ofWords w).oid != r.oid) ++ [w] })) ∧
  (∀ (tid : BitVec 16) (n : BitVec 24) (s : State) (r : FabReq) (run : Nat), s.awake cmdIsl = true → s.findReq unitCmd tid = some r →
    r.why = .cmdx run → exec (.cmdxResult tid fsOk n) s = .next ((s.dropReq r.unit r.tid).onRun run fun c =>
      { c with plates := c.plates + n.toNat, waiting := false })) ∧
  (∀ (unit : BitVec 6) (tid : BitVec 16) (st : BitVec 4) (h : HomeWord) (n : BitVec 24) (s : State) (r : FabReq) (k : IslandNo),
    unitIsl unit = some k → s.awake k = true → s.findReq unit tid = some r → st ≠ fsNotHome →
    exec (.fabricAck unit tid st h n) s = .next (if st = fsOk then (s.dropReq r.unit r.tid).reqDone r n.toNat else
      (s.dropReq r.unit r.tid).reqFails r st)) ∧
  ∀ (unit : BitVec 6) (tid : BitVec 16) (s : State) (k : IslandNo), unitIsl unit = some k → s.awake k = true → s.findReq unit tid = none →
    (∀ st h n, exec (.fabricAck unit tid st h n) s = .next (s.bump ephIsl ephLate)) ∧
    (unit = unitEph → s.ephLive = true → ∀ st a b w, exec (.lookupRsp tid st a b) s = .next (s.bump ephIsl ephLate) ∧
      exec (.objRsp tid st w) s = .next (s.bump ephIsl ephLate)) ∧
    (unit = unitCmd → ∀ st n, exec (.cmdxResult tid st n) s = .next (s.bump ephIsl ephLate)) ∧
    ∀ p : SliceNo, unit = unitPs p → k = psIsl p → ∀ st h d, exec (.rdRsp p tid st h d) s = .next (s.bump ephIsl ephLate)

/-! Residency and managers. -/

/-- A span move (R437, R438). SPAN_MOVE_START: the manager asks the home of a waiting move that may start to send the span. MV_START: a
home that has the span marks it in motion and acknowledges. MV_DATA: the part goes into the frame that stands for the span. COPY_DONE:
with status OK the home commits the move. COMMIT: the manager writes the new home into the map before it acknowledges. COMMIT_ACK: the old
home gives the span up. -/
def Obligations.SpansMove : Prop :=
  (∀ (n : Nat) (s : State) (m : SpanMove) (e : MapObj) (home toHome : HomeAt), s.ephLive = true → s.eph.movesWait[n]? = some m →
    s.actsFor (domainOf m.oid) = true → s.eph.mayMove n m = true → s.eph.map.obj m.oid = some e → s.eph.map.home m.oid m.span.toNat = some home →
    s.moveTarget m (ObjRec.ofWords e.obj) home.block = some toHome → toHome ≠ home → (s.eph.map.slot m.oid m.span.toNat).pinned = false →
    exec (.spanMoveStart n) s = .next ((s.onEph fun h => { h with
      movesWait := h.movesWait.eraseIdx n, moves := h.moves ++ [{ m with toHome := toHome, source := home, st := .asked }] }).request {
        unit := unitEph, tid := 0, ptype := ptMvStart, dest := home.block, dunit := unitEph, oid := m.oid
        idx := BitVec.ofNat 24 m.span.toNat, arg := m.no, rest := [homeWord toHome.word], why := .mvStart m.no })) ∧
  (∀ (src : Requester) (oid : BitVec 40) (span : BitVec 18) (nh : HomeWord) (no : BitVec 32) (s : State) (p : SliceNo) (base : Nat) (e : DirEnt),
    s.ephLive = true → s.isHalted (domainOf oid) = false → (∀ m ∈ s.eph.srcs, ¬ (m.oid = oid ∧ m.span = span)) →
    s.eph.serves oid span.toNat = .at p base e → e.lost = false → ∃ u : State, u = s.onEph (fun h => { h with
      srcs := h.srcs ++ [{ oid := oid, span := span, no := no, toHome := { block := nh.block, slice := Fin.ofNat 32 nh.slice.toNat } }]
      dir := markMotion h.dir oid span.toNat true }) ∧
      exec (.mvStart src oid span nh no) s = .next (u.mirDir.ackTo src unitEph fsOk oid (BitVec.ofNat 24 span.toNat))) ∧
  (∀ (p : SliceNo) (src : Requester) (oid : BitVec 40) (plate : BitVec 24) (seg : BitVec 4) (line : BitVec 16) (data : PlateWords) (s : State)
    (d : MvDst), s.homeLive p = true → s.ephLive = true →
    s.eph.dsts.find? (fun d => d.obj.oid == oid && d.span.toNat == spanOf plate.toNat) = some d →
    exec (.mvData p src oid plate seg line data) s = .next (s.takePart d src plate seg.toNat line.toNat data)) ∧
  (∀ (src : Requester) (oid : BitVec 40) (span : BitVec 18) (nh : HomeWord) (s : State) (m : MvSrc), s.ephLive = true →
    s.eph.srcs.find? (fun m => m.oid == oid && m.span == span && m.toHome.block == src.block && !m.committed) = some m → m.record = true →
    nh.valid = true → exec (.copyDone src oid span fsOk nh) s = .next ((s.dropMoveReqs oid span.toNat).sendCommit m nh none)) ∧
  (∀ (src : Requester) (oid : BitVec 40) (span : BitVec 18) (nh : HomeWord) (s : State) (m : SpanMove), s.ephLive = true →
    s.managerRefuses oid = none → s.eph.moves.find? (fun m => m.oid == oid && m.span == span) = some m → m.st ≠ .applied →
    let h : HomeAt := { block := nh.block, slice := Fin.ofNat 32 nh.slice.toNat }
    let u := s.onEph fun e => { e with
      moves := mapIf (fun k => k.no == m.no) (fun _ => { m with st := .applied, toHome := h, commitBy := some src }) e.moves }
    s.eph.map.slotFits oid span.toNat h = true →
    exec (.commit src oid span nh false 0) s = .next ((u.setMapHome oid span.toNat h).mirrorOut ((u.setMapHome oid span.toNat h).homeEntries oid
      span.toNat) [m.no] [] oid (BitVec.ofNat 24 span.toNat))) ∧
  ∀ (oid : BitVec 40) (span : BitVec 18) (nh : HomeWord) (s : State) (m : MvSrc), s.ephLive = true →
    (∀ r ∈ s.reqs, r.ptype ≠ ptCommit) → s.eph.srcs.find? (fun m => m.oid == oid && m.span == span) = some m →
    (∀ d ∈ s.eph.dsts, ¬ (d.obj.oid = oid ∧ d.span = span)) → s.ackFits oid span.toNat nh = true →
    exec (.commitAck oid span nh) s = .next (s.moveLeft m nh)

/-- MIRROR (R437, R461): MIR applies the entries it brings, notes the beat and acknowledges, and a mirror's start-up step 7 that waits for
it is over (R500). FREE (R440): a span that stands here leaves the directory, its frame goes to be freed and the index held of it is
dropped, and the free is acknowledged, once the directory has room for what the split leaves. PIN_SET (R440): the entry of the span takes
the mark. EVICT_REQ (R441): the manager queues a move of the span away from the block that asks. MIRROR_BEAT (R477): after 2^15 cycles
without mirror traffic the manager sends an empty MIRROR. -/
def Obligations.ManagersServe : Prop :=
  (∀ (src : Requester) (es : List (List W64)) (s : State), s.awake mirIsl = true →
    ∃ u, exec (.mirror src es) s = .next (u.ackTo src unitMir fsOk 0 0) ∧
    u = (s.onEph fun h => { h with
      mirMap := (es.filter fun ws => ws.any fun w => w != 0).foldl PMap.apply h.mirMap, beatSeen := true, beatAt := s.now mirIsl }).endStep7
      (s.eph.step7At.isSome && s.ephConf.role == 2)) ∧
  (∀ (src : Requester) (oid : BitVec 40) (span : BitVec 18) (s : State) (p : SliceNo) (base : Nat) (e : DirEnt), s.ephLive = true →
    s.isHalted (domainOf oid) = false → s.eph.objectEnt oid = none → s.eph.serves oid span.toNat = .at p base e → e.noFrame = false →
    s.eph.leaveFits oid span.toNat 0 = true →
      ∃ u : State, exec (.free src oid span) s = .next (u.mirDir.ackTo src unitEph fsOk oid (BitVec.ofNat 24 span.toNat)) ∧
      u.eph.dir = dirRemove s.eph.dir oid span.toNat ∧ u.eph.freeing = s.eph.freeing ++ [(p, base / 16, e.extents, oid, span.toNat)] ∧
      u.eph.map = s.eph.map ∧ u.islands = s.islands ∧ ∀ q, u.slice q = (s.slice q).dropIndex oid span.toNat) ∧
  (∀ (src : Requester) (oid : BitVec 40) (span : BitVec 18) (b : Bool) (s : State) (p : SliceNo) (base : Nat) (e : DirEnt), s.ephLive = true →
    s.isHalted (domainOf oid) = false → s.eph.serves oid span.toNat = .at p base e → ∃ u : State, u = s.onEph (fun h => { h with
      dir := mapIf (fun e => e.obj.oid == oid && (e.frameOf span.toNat).isSome) (fun e => { e with pinned := b }) h.dir }) ∧
      exec (.pinSet src oid span b) s = .next (u.mirDir.ackTo src unitEph fsOk oid (BitVec.ofNat 24 span.toNat))) ∧
  (∀ (src : Requester) (oid : BitVec 40) (span : BitVec 18) (tier : BitVec 2) (s : State) (h : HomeAt), s.ephLive = true →
    s.managerRefuses oid = none → s.eph.map.home oid span.toNat = some h → h.block = src.block → ∃ t, exec (.evictReq src oid span tier) s = .next t ∧
      OnlyEph s t ∧ t.eph.moveNo = s.eph.moveNo + 1 ∧ ∃ m : SpanMove, t.eph.movesWait = s.eph.movesWait ++ [m] ∧ m.oid = oid ∧ m.span = span ∧
        m.why = .capacity src ∧ m.toHome = h ∧ m.no = BitVec.ofNat 32 s.eph.moveNo) ∧
  ∀ s : State, s.ephLive = true → s.hasMirror = true → 2 ^ 15 ≤ elapsed (s.now ephIsl) s.eph.mirrorAt → s.mirrorsOut.filter (·.again) = [] →
    exec .mirrorBeat s = .next ((s.onEph fun h => { h with mirrorAt := s.now ephIsl }).request {
      unit := unitEph, tid := 0, ptype := ptMirror, dest := s.ephConf.mirrorBlock, dunit := unitMir, rest := List.replicate 16 0
      why := .mirror [] [] })

/-- JOIN (R423): a manager whose table of 256 members has the member, or room for it, notes the member's role, interleave and free
extents, and acknowledges; a block that is no manager refuses. OCC (R423): the manager notes the member's occupancy. OCC_SEND (R423):
every 2^20 cycles the member sends its own to the manager. SIG (R350): the counter is set or raised, and the sender gets its
acknowledgement. -/
def Obligations.MembersReport : Prop :=
  (∀ (src : Requester) (role : BitVec 4) (ic : BitVec 8) (il : List Byte) (fx : BitVec 64) (s : State), s.ephLive = true →
    (s.ephConf.role = 1 ∨ s.ephConf.role = 2 → s.eph.occ.length < 256 ∨ (∃ o ∈ s.eph.occ, o.block = src.block) →
      ∃ u, exec (.join src role ic il fx) s = .next (u.ackTo src unitEph fsOk 0 0) ∧ OnlyEph s u ∧
      u.eph.map = s.eph.map ∧ u.eph.dir = s.eph.dir ∧ ∃ o ∈ u.eph.occ, o.block = src.block ∧ o.role = role ∧ o.icount = min 32 ic.toNat ∧
        o.free = [fx]) ∧
    (s.ephConf.role ≠ 1 → s.ephConf.role ≠ 2 → exec (.join src role ic il fx) s = .next (s.ackTo src unitEph fsUnreachable 0 0))) ∧
  (∀ (src : Requester) (fx : List (BitVec 64)) (n : BitVec 64) (s : State), s.ephLive = true →
    s.eph.occ.length < 256 ∨ (∃ o ∈ s.eph.occ, o.block = src.block) → ∃ t, exec (.occ src fx n) s = .next t ∧ OnlyEph s t ∧
    t.eph.map = s.eph.map ∧ t.eph.dir = s.eph.dir ∧ ∃ o ∈ t.eph.occ, o.block = src.block ∧ o.free = fx.take 32 ∧ o.freeEntries = n) ∧
  (∀ (s : State) (m : BitVec 12), s.ephLive = true → s.eph.joinAck ≠ [] → 2 ^ 20 ≤ elapsed (s.now ephIsl) s.eph.occAt →
    s.managerOf s.ephConf.domain.toNat = some m → let u := s.onEph fun h => { h with occAt := s.now ephIsl }
    exec .occSend s = .next (u.post unitEph ptOcc (fabWords ptOcc m s.block (transWord 0 unitEph unitEph 0 0) (0 :: s.occWords)))) ∧
  ∀ (src : Requester) (b : Bool) (n : BitVec 8) (v : BitVec 32) (s : State), s.awake cmdIsl = true → ∃ u,
    exec (.sig src b n v) s = .next (u.ackTo src unitCmd fsOk 0 0) ∧ OnlyCmd s u ∧
    u.cmd.sig = s.cmd.sig.set (Fin.ofNat 256 n.toNat) (if b then v else s.cmd.sig[Fin.ofNat 256 n.toNat] + v)

/-! Detectors, the Survey and the Ephemeris. -/

/-- DETECTOR_EVENT (R448-R450): an event that waits at a live island's detector is counted, and a record is made, TRANSIENT where the
detector is or stays below its threshold or was already lasting. DETECTOR_WINDOW_START (R448): at a window's end the instance's count
starts again from zero. -/
def Obligations.DetectorsCount : Prop :=
  (∀ (k : IslandNo) (e : DetEvent) (s : State), (s.isl k).live = true → s.hasDet k e.code e.inst = true → (s.isl k).detQueue.contains e = true →
    let wt := detWT (s.conf k) e.code.toNat
    let old := ((s.isl k).det e.code e.inst).roll wt.1 (s.isl k).cycle
    let new := old.count1 wt.2
    ∃ u : State, u = ((s.onIsl k fun i => { i with detQueue := i.detQueue.erase e }).onIsl k fun i => i.putDet new).emit k {
        code := e.code, sev := if new.lasting && !old.lasting then sevLasting else sevTransient, injected := e.injected, inst := e.inst
        oid := e.oid, plate := e.plate, arg := detailOf e } ∧
      (new.lasting = old.lasting → (s.isl k).state ≠ .shut → exec (.detectorEvent k e) s = .next (u.eventAct k e true false)) ∧
      (new.lasting = true → old.lasting = false → (s.isl k).state ≠ .shut →
        exec (.detectorEvent k e) s = .next ((u.eventAct k e true true).lastingAct k e)) ∧
      (new.lasting = true → old.lasting = false → (s.isl k).state = .shut → exec (.detectorEvent k e) s = .next (u.lastingAct k e))) ∧
  ∀ (k : IslandNo) (code inst : BitVec 16) (s : State), (s.isl k).live = true → s.hasDet k code inst = true →
    2 ^ (detWT (s.conf k) code.toNat).1 ≤ elapsed (s.now k) ((s.isl k).det code inst).winStart →
    ∃ t d, exec (.detectorWindowStart k code inst) s = .next t ∧ t = s.onIsl k (fun i => i.putDet d) ∧ d.count = 0 ∧
      d.total = ((s.isl k).det code inst).total ∧ d.lasting = ((s.isl k).det code inst).lasting

/-- HEAL_START (R455-R457): the Survey advances the first heal that can go on, else begins the heal of the next dark plate, sixteen at most.
HEAL_END (R458): a healed plate leaves the dark table, and its heal ends.
PATROL_BURST (R460): a patrol that is due reads its lines in every slice. AUDIT_COMPARE (R461): the next directory entry is compared with
MIR's copy and counted, and a difference mends the copy. HALT_SET (R468): each domain of the mask is halted, in order, and a mask of none
changes nothing. FREE_RUN_OVERFLOW_MERGE (R421): the first run that overflowed joins its slice's free list. -/
def Obligations.SurveyRows : Prop :=
  ((∀ s t : State, s.running svyIsl = true → s.ephLive = true → s.svy.heals.findSome? s.healStep = some t → exec .healStart s = .next t) ∧
  (∀ (s : State) (d : Dark), s.begins svyIsl = true → s.ephLive = true → s.svy.heals = [] → s.nextDark = some d →
    exec .healStart s = .next (s.beginHeal d)) ∧
  (∀ (oid : BitVec 40) (plate : BitVec 24) (s : State) (h : Heal), (s.isl svyIsl).live = true → s.ephLive = true →
    s.svy.heals.find? (fun h => h.oid == oid && h.plate == plate && (h.st == .healed || h.st == .failed)) = some h → h.st = .healed →
      s.eph.park = [] →
    ∃ t, exec (.healEnd oid plate) s = .next t ∧ t.eph.dark = s.eph.dark.filter (fun d => !(d.oid == oid && d.plate == plate)) ∧
      t.svy.heals = s.svy.heals.filter (fun g => !(g.oid == oid && g.plate == plate)) ∧ t.eph.dir = s.eph.dir ∧ t.slices = s.slices ∧ t.cmd = s.cmd) ∧
  (∀ s : State, s.begins svyIsl = true → s.ephLive = true → s.svy.patrolEn = true →
    max 1 s.svy.patrolInterval.toNat ≤ elapsed (s.now svyIsl) s.svy.patrolAt →
    exec .patrolBurst s = .next ((List.finRange 32).foldl State.patrolSlice (s.scrubAll.onSvy fun v => { v with patrolAt := s.now svyIsl }))) ∧
  ∀ (b : Bool) (s : State) (e : DirEnt), s.begins svyIsl = true → s.ephLive = true → s.awake mirIsl = true → (s.isl svyIsl).armed = none →
    256 ≤ elapsed (s.now svyIsl) s.svy.auditAt → s.eph.dir[s.svy.auditPos % max 1 s.eph.dir.length]? = some e →
    let u := (s.bump svyIsl svyAudited).onSvy fun v => { v with auditPos := (v.auditPos + 1) % max 1 s.eph.dir.length, auditAt := s.now svyIsl }
    (b = false → s.eph.mirDir.contains e = true → exec (.auditCompare b) s = .next u) ∧
    (b = true ∨ s.eph.mirDir.contains e = false → exec (.auditCompare b) s = .next ((u.onEph fun h => { h with
      mirDir := (h.mirDir.filter fun d => !d.sameKey e) ++ [e] }).event svyIsl { code := 0x0403, inst := 0, oid := e.obj.oid }))) ∧
  ((∀ (m : BitVec 16) (s : State), (s.isl ephIsl).live = true → exec (.haltSet m) s =
    .next ((List.range 16).foldl (fun (s : State) d => if m.getLsbD d then s.haltDomain d true else s) s)) ∧
  (∀ s : State, (s.isl ephIsl).live = true → exec (.haltSet 0) s = .next s) ∧
  ∀ (s : State) (p : SliceNo) (r : FreeRun) (rest : List (SliceNo × FreeRun)), s.awake ephIsl = true → s.eph.overflow = (p, r) :: rest →
    s.eph.runCount < 131072 → exec .freeRunOverflowMerge s = .next { s with eph := { s.eph with
      overflow := rest, free := s.eph.free.set p (mergeRun s.eph.free[p] r) } })

/-! The Logbook, injection, snapshots. -/

/-- REPORT_SEND (R482, R486): the oldest report of a live island, once the one before has gone, becomes a packet on its way to LOG.
LOG_REPORT_TAKE (R487, R488): LOG notes the first report that has arrived and stages it, folds it into the staged record, or writes that
record first; a FATAL one is written at once. STAGED_APPEND (R488): a record staged for 256 LOG cycles is written. LOG_CODE_SEEN_CLEAR
(R490): the selected code's SEEN, first and last record clear. -/
def Obligations.LogbookRows : Prop :=
  (∀ (k : IslandNo) (poisoned : Bool) (s : State) (r : Report) (rest : List Report), (s.isl k).live = true →
    (∀ p ∈ (s.isl k).outbox, p.isReport = false) →
    (s.isl k).reports = r :: rest → exec (.reportSend k poisoned) s =
      .next (s.onIsl k fun i => { i with reports := rest, outbox := i.outbox ++ [reportPkt k poisoned r] })) ∧
  (∀ (s : State) (r : Report) (rest : List Report), s.awake logIsl = true → s.log.arriving = r :: rest →
    let w : State := { s with log := { s.log with arriving := rest } }
    let u := w.noteTaken r
    let v := w.flushStaged.noteTaken r
    (r.sev = sevFatal → exec .logReportTake s = .next (v.takeFatal r)) ∧
    (r.sev ≠ sevFatal → s.log.staged = none → exec .logReportTake s = .next { u with log := { u.log with staged := some (r, s.now logIsl) } }) ∧
    ∀ b t, r.sev ≠ sevFatal → s.log.staged = some (b, t) →
      (b.foldsWith r = true → exec .logReportTake s = .next (({ u with log := { u.log with staged := some (b.fold r, t) } } : State).bump logIsl logFolded)) ∧
      (b.foldsWith r = false → exec .logReportTake s = .next { v with log := { v.log with staged := some (r, s.now logIsl) } })) ∧
  (∀ (s : State) (r : Report) (t : Ctr), s.awake logIsl = true → s.log.staged = some (r, t) → 256 ≤ elapsed (s.now logIsl) t → ∃ u,
    exec .stagedAppend s = .next u ∧ u = { s.appendRecord r with log := { (s.appendRecord r).log with staged := none } }) ∧
  ∀ s : State, (s.isl logIsl).live = true → ∃ t, exec .logCodeSeenClear s = .next t ∧ OnlyLog s t ∧
    (t.log.code s.log.codeSel.toNat).seen = false ∧ (t.log.code s.log.codeSel.toNat).first = [] ∧ (t.log.code s.log.codeSel.toNat).last = [] ∧
    (t.log.code s.log.codeSel.toNat).reports = (s.log.code s.log.codeSel.toNat).reports ∧ t.log.cause = s.log.cause

/-- INJ_ARM (R494, R496): an arming that is allowed stands at the island it names, for COUNT operations, one at least; one that is refused
sets REFUSED_SEEN and a record, and arms nothing; a closed INJ shutter arms nothing either (the model's choice, log entry 119). INJ_CANCEL
(R496): the arming in force ends, and CANCEL_SEEN is set. ISLAND_SNAP and PRAUX_SNAP (R497, R498): the cycle count and every counter are
latched, in one island or in every island out of reset, or released. -/
def Obligations.InjectionAndSnapshots : Prop :=
  (∀ (tag : BitVec 4) (n : BitVec 16) (sp : BitVec 32) (s : State), s.chanUp = true → s.answers injIsl = true → s.armRefused s.inj.target = false →
    (s.isl injIsl).state ≠ .shut →
    let k : IslandNo := Fin.ofNat 60 (injIsland s.inj.target)
    exec (.injArm tag n sp .clean) s = .next ((({ s with inj := { s.inj with armedAt := some k } } : State).onIsl k fun i => { i with armed := some {
      code := BitVec.ofNat 16 (injCode s.inj.target), inst := BitVec.ofNat 16 (injInst s.inj.target)
      remaining := if n = 0 then 1 else n, spacing := sp } }).answer tag ansOk)) ∧
  (∀ (tag : BitVec 4) (n : BitVec 16) (sp : BitVec 32) (s : State), s.chanUp = true → s.answers injIsl = true → s.armRefused s.inj.target = false →
    (s.isl injIsl).state = .shut → exec (.injArm tag n sp .clean) s = .next (s.answer tag ansOk)) ∧
  (∀ (tag : BitVec 4) (n : BitVec 16) (sp : BitVec 32) (s : State), s.chanUp = true → s.answers injIsl = true → s.armRefused s.inj.target = true →
    exec (.injArm tag n sp .clean) s = .next ((({ s with inj := { s.inj with refusedSeen := true } } : State).emit injIsl {
      code := 0x000B, sev := sevInfo, arg := s.inj.target }).answer tag ansDenied)) ∧
  (∀ (s : State) (k : IslandNo), (s.isl injIsl).live = true → s.inj.armedAt = some k → exec .injCancel s =
    .next (({ s with inj := { s.inj with armedAt := none, cancelSeen := true } } : State).onIsl k fun i => { i with armed := none })) ∧
  (∀ (k : IslandNo) (s : State), (s.isl k).live = true →
    exec (.islandSnap k true) s = .next (s.onIsl k fun i => { i with frozen := KMap.put i.ctr 8 i.cycle, freeze := true }) ∧
    exec (.islandSnap k false) s = .next (s.onIsl k fun i => { i with freeze := false })) ∧
  ∀ (b : Bool) (s : State), s.chanUp = true → ∃ t, exec (.prauxSnap b) s = .next t ∧ t.cfg = s.cfg ∧ t.slices = s.slices ∧
    ∀ k, t.isl k = if (s.isl k).inReset then s.isl k else if b then { s.isl k with frozen := KMap.put (s.isl k).ctr 8 (s.isl k).cycle, freeze := true }
      else { s.isl k with freeze := false }
end

