-- ==== Sys2Proof/Laws/Kept.lean ====
section
/-! SUPPORT. The part of the state that few commands touch, and the base lemmas of the frame library: `kept` collects the resets and
clocks of the islands, the configuration and the keys that CFG holds, the entry store and the queue; a frame lemma of an operation says
that it leaves all of that as it was. -/

namespace Sys2Proof.Machine

/-- What most operations leave as it was. -/
structure Kept where
  por : Bool
  islands : Vector (Bool × Bool × BitVec 16 × Ctr × IslState × Option Conf) 60
  conf : Option Conf
  keys : Vector KeySlot 16
  entries : List Host.Cell
  pending : List Instr

/-- Of an island: whether it is in reset, whether its clock runs, RESETS, CYCLE, and, while it is in reset, STATE and the configuration. -/
def Island.kept (i : Island) : Bool × Bool × BitVec 16 × Ctr × IslState × Option Conf :=
  (i.inReset, i.clkRun, i.resets, i.cycle, if i.inReset then i.state else .run, if i.inReset then i.conf else none)

/-- Of the block. -/
def State.kept (s : State) : Kept where
  por := s.por
  islands := s.islands.map Island.kept
  conf := s.cfg.store
  keys := s.cfg.keys
  entries := s.cmd.store
  pending := s.pending

/-- A next state keeps it. -/
def Keeps (s : State) : Outcome → Prop
  | .next t => t.kept = s.kept
  | _ => True

/-- A state, where there is one, keeps it. -/
def KeepsO (s : State) : Option State → Prop
  | some t => t.kept = s.kept
  | none => True

theorem kept_mk (t : State) (isl qd sl gr) (c : CfgS) (cp) (m : CmdS) (eph spg svy log inj tst reqs fi ni tn)
    (h1 : isl.map Island.kept = t.islands.map Island.kept) (h2 : c.store = t.cfg.store) (h3 : c.keys = t.cfg.keys)
    (h4 : m.store = t.cmd.store) :
    (State.mk t.por isl qd sl gr c cp m eph spg svy log inj tst reqs fi ni tn t.pending).kept = t.kept := by
  simp only [State.kept, h1, h2, h3, h4]

theorem kept_isl {s t : State} (h : s.kept = t.kept) : s.islands.map Island.kept = t.islands.map Island.kept := congrArg Kept.islands h
theorem kept_conf {s t : State} (h : s.kept = t.kept) : s.cfg.store = t.cfg.store := congrArg Kept.conf h
theorem kept_keys {s t : State} (h : s.kept = t.kept) : s.cfg.keys = t.cfg.keys := congrArg Kept.keys h
theorem kept_entries {s t : State} (h : s.kept = t.kept) : s.cmd.store = t.cmd.store := congrArg Kept.entries h
theorem kept_pending {s t : State} (h : s.kept = t.kept) : s.pending = t.pending := congrArg Kept.pending h
theorem kept_por {s t : State} (h : s.kept = t.kept) : s.por = t.por := congrArg Kept.por h

theorem map_set_kept (v : Vector Island 60) (k : IslandNo) (i : Island) (h : i.kept = v[k].kept) :
    (v.set k.val i).map Island.kept = v.map Island.kept := by
  apply Vector.ext
  intro j hj
  simp only [Vector.getElem_map, Vector.getElem_set]
  split
  · rename_i e; subst e; exact h
  · rfl

theorem onIsl_kept (s : State) (k : IslandNo) (f : Island → Island) (h : ∀ i, (f i).kept = i.kept) : (s.onIsl k f).kept = s.kept := by
  simp only [State.kept, State.onIsl, map_set_kept s.islands k _ (h _)]

theorem map_kept (v : Vector Island 60) (f : Island → Island) (h : ∀ i, (f i).kept = i.kept) :
    (v.map f).map Island.kept = v.map Island.kept := by
  simp only [Vector.map_map]; congr 1; funext i; exact h i

theorem mapIdx_kept (v : Vector Island 60) (f : Nat → Island → Island) (h : ∀ k i, (f k i).kept = i.kept) :
    (v.mapIdx f).map Island.kept = v.map Island.kept := by
  apply Vector.ext; intro j hj; simp only [Vector.getElem_map, Vector.getElem_mapIdx, h]

theorem onIslands_kept (s : State) (f : Nat → Island → Island) (h : ∀ k i, (f k i).kept = i.kept) : (s.onIslands f).kept = s.kept := by
  simp only [State.kept, State.onIslands, mapIdx_kept s.islands f h]

theorem onSlice_kept (s : State) (k f) : (s.onSlice k f).kept = s.kept := rfl
theorem onQuad_kept (s : State) (k f) : (s.onQuad k f).kept = s.kept := rfl
theorem onGroup_kept (s : State) (k f) : (s.onGroup k f).kept = s.kept := rfl

theorem enter_kept (i : Island) (st : IslState) : (i.enter st).kept = i.kept := by
  unfold Island.enter; split <;> simp_all [Island.kept]
theorem Island.bump_kept (i : Island) (o n : Nat) : (i.bump o n).kept = i.kept := by unfold Island.bump; split <;> rfl
theorem Island.latch_kept (i : Island) : i.latch.kept = i.kept := rfl
theorem Island.emit_kept (i : Island) (k n) : (i.emit k n).kept = i.kept := by
  unfold Island.emit; dsimp only; (repeat' split) <;> rfl

theorem foldl_kept {β : Type} (g : State → β → State) (h : ∀ s b, (g s b).kept = s.kept) (l : List β) (s : State) :
    (l.foldl g s).kept = s.kept := by
  induction l generalizing s with
  | nil => rfl
  | cons a r ih => simp only [List.foldl_cons, ih, h]

theorem foldl_isl_kept {β : Type} (g : Island → β → Island) (h : ∀ s b, (g s b).kept = s.kept) (l : List β) (s : Island) :
    (l.foldl g s).kept = s.kept := by
  induction l generalizing s with
  | nil => rfl
  | cons a r ih => simp only [List.foldl_cons, ih, h]

theorem Island_kept_mk (t : Island) (cs wc co lr bi br bn em qa ds dt dq rp dr dc di fz fr ct ar ob ib sq st)
    (h : (if t.inReset then st else IslState.run) = if t.inReset then t.state else IslState.run)
    (g : (if t.inReset then co else none) = if t.inReset then t.conf else none) :
    (Island.mk t.inReset st t.resets cs t.clkRun t.cycle sq co lr bi wc br bn em qa ds dt dq rp dr dc di fz fr ct ar ob ib).kept = t.kept := by
  simp only [Island.kept, h, g]

theorem ite_kept {c : Prop} [Decidable c] (s t : State) : (if c then s else t).kept = if c then s.kept else t.kept := apply_ite ..

theorem ite_isl_kept {c : Prop} [Decidable c] (s t : Island) : (if c then s else t).kept = if c then s.kept else t.kept := apply_ite ..

theorem keepsO_some {s t : State} {o : Option State} (h : KeepsO s o) (e : o = some t) : t.kept = s.kept := by subst e; exact h

theorem keepsO_map {α : Type} {s : State} (o : Option α) (f : α → State) (h : ∀ a, (f a).kept = s.kept) : KeepsO s (o.map f) := by
  cases o with | none => trivial | some a => exact h a

theorem keepsO_bind {α : Type} {s : State} (o : Option α) (f : α → Option State) (h : ∀ a, KeepsO s (f a)) : KeepsO s (o.bind f) := by
  cases o with | none => trivial | some a => exact h a

theorem keepsO_findSome {α : Type} {s : State} (l : List α) (f : α → Option State) (h : ∀ a, KeepsO s (f a)) : KeepsO s (l.findSome? f) := by
  induction l with
  | nil => trivial
  | cons a r ih =>
    simp only [List.findSome?_cons]
    split
    · rename_i b e; exact keepsO_some (h a) e
    · exact ih

theorem foldl_snd_kept {α β : Type} (g : α × State → β → α × State) (h : ∀ a b, (g a b).2.kept = a.2.kept) (l : List β) (a : α × State) :
    (l.foldl g a).2.kept = a.2.kept := by
  induction l generalizing a with
  | nil => rfl
  | cons b r ih => simp only [List.foldl_cons, ih, h]

theorem foldl_fst_kept {α β : Type} (g : State × α → β → State × α) (h : ∀ a b, (g a b).1.kept = a.1.kept) (l : List β) (a : State × α) :
    (l.foldl g a).1.kept = a.1.kept := by
  induction l generalizing a with
  | nil => rfl
  | cons b r ih => simp only [List.foldl_cons, ih, h]

theorem keeps_next {s t : State} (h : t.kept = s.kept) : Keeps s (.next t) := h
theorem keeps_guarded {c : Bool} {s t : State} (h : t.kept = s.kept) : Keeps s (guarded c s t) := by
  unfold guarded Keeps; cases c <;> simp [h]

end Sys2Proof.Machine
end

