-- ==== Sys2Proof/Laws/State.lean ====
section
/-! SUPPORT. The updates of the state, field by field: what each named update leaves as it was, and what it replaces. -/

namespace Sys2Proof.Machine

@[simp] theorem State.onIsl_por (s : State) (k : IslandNo) (f : Island → Island) : (s.onIsl k f).por = s.por := rfl
@[simp] theorem State.onIsl_quads (s : State) (k : IslandNo) (f : Island → Island) : (s.onIsl k f).quads = s.quads := rfl
@[simp] theorem State.onIsl_slices (s : State) (k : IslandNo) (f : Island → Island) : (s.onIsl k f).slices = s.slices := rfl
@[simp] theorem State.onIsl_groups (s : State) (k : IslandNo) (f : Island → Island) : (s.onIsl k f).groups = s.groups := rfl
@[simp] theorem State.onIsl_cfg (s : State) (k : IslandNo) (f : Island → Island) : (s.onIsl k f).cfg = s.cfg := rfl
@[simp] theorem State.onIsl_cp (s : State) (k : IslandNo) (f : Island → Island) : (s.onIsl k f).cp = s.cp := rfl
@[simp] theorem State.onIsl_cmd (s : State) (k : IslandNo) (f : Island → Island) : (s.onIsl k f).cmd = s.cmd := rfl
@[simp] theorem State.onIsl_eph (s : State) (k : IslandNo) (f : Island → Island) : (s.onIsl k f).eph = s.eph := rfl
@[simp] theorem State.onIsl_spg (s : State) (k : IslandNo) (f : Island → Island) : (s.onIsl k f).spg = s.spg := rfl
@[simp] theorem State.onIsl_svy (s : State) (k : IslandNo) (f : Island → Island) : (s.onIsl k f).svy = s.svy := rfl
@[simp] theorem State.onIsl_log (s : State) (k : IslandNo) (f : Island → Island) : (s.onIsl k f).log = s.log := rfl
@[simp] theorem State.onIsl_inj (s : State) (k : IslandNo) (f : Island → Island) : (s.onIsl k f).inj = s.inj := rfl
@[simp] theorem State.onIsl_test (s : State) (k : IslandNo) (f : Island → Island) : (s.onIsl k f).test = s.test := rfl
@[simp] theorem State.onIsl_reqs (s : State) (k : IslandNo) (f : Island → Island) : (s.onIsl k f).reqs = s.reqs := rfl
@[simp] theorem State.onIsl_freeIdx (s : State) (k : IslandNo) (f : Island → Island) : (s.onIsl k f).freeIdx = s.freeIdx := rfl
@[simp] theorem State.onIsl_nextId (s : State) (k : IslandNo) (f : Island → Island) : (s.onIsl k f).nextId = s.nextId := rfl
@[simp] theorem State.onIsl_tickNo (s : State) (k : IslandNo) (f : Island → Island) : (s.onIsl k f).tickNo = s.tickNo := rfl
@[simp] theorem State.onIsl_pending (s : State) (k : IslandNo) (f : Island → Island) : (s.onIsl k f).pending = s.pending := rfl

@[simp] theorem State.onQuad_por (s : State) (x : QuadNo) (f : Quad → Quad) : (s.onQuad x f).por = s.por := rfl
@[simp] theorem State.onQuad_islands (s : State) (x : QuadNo) (f : Quad → Quad) : (s.onQuad x f).islands = s.islands := rfl
@[simp] theorem State.onQuad_slices (s : State) (x : QuadNo) (f : Quad → Quad) : (s.onQuad x f).slices = s.slices := rfl
@[simp] theorem State.onQuad_groups (s : State) (x : QuadNo) (f : Quad → Quad) : (s.onQuad x f).groups = s.groups := rfl
@[simp] theorem State.onQuad_cfg (s : State) (x : QuadNo) (f : Quad → Quad) : (s.onQuad x f).cfg = s.cfg := rfl
@[simp] theorem State.onQuad_cp (s : State) (x : QuadNo) (f : Quad → Quad) : (s.onQuad x f).cp = s.cp := rfl
@[simp] theorem State.onQuad_cmd (s : State) (x : QuadNo) (f : Quad → Quad) : (s.onQuad x f).cmd = s.cmd := rfl
@[simp] theorem State.onQuad_eph (s : State) (x : QuadNo) (f : Quad → Quad) : (s.onQuad x f).eph = s.eph := rfl
@[simp] theorem State.onQuad_spg (s : State) (x : QuadNo) (f : Quad → Quad) : (s.onQuad x f).spg = s.spg := rfl
@[simp] theorem State.onQuad_svy (s : State) (x : QuadNo) (f : Quad → Quad) : (s.onQuad x f).svy = s.svy := rfl
@[simp] theorem State.onQuad_log (s : State) (x : QuadNo) (f : Quad → Quad) : (s.onQuad x f).log = s.log := rfl
@[simp] theorem State.onQuad_inj (s : State) (x : QuadNo) (f : Quad → Quad) : (s.onQuad x f).inj = s.inj := rfl
@[simp] theorem State.onQuad_test (s : State) (x : QuadNo) (f : Quad → Quad) : (s.onQuad x f).test = s.test := rfl
@[simp] theorem State.onQuad_reqs (s : State) (x : QuadNo) (f : Quad → Quad) : (s.onQuad x f).reqs = s.reqs := rfl
@[simp] theorem State.onQuad_freeIdx (s : State) (x : QuadNo) (f : Quad → Quad) : (s.onQuad x f).freeIdx = s.freeIdx := rfl
@[simp] theorem State.onQuad_nextId (s : State) (x : QuadNo) (f : Quad → Quad) : (s.onQuad x f).nextId = s.nextId := rfl
@[simp] theorem State.onQuad_tickNo (s : State) (x : QuadNo) (f : Quad → Quad) : (s.onQuad x f).tickNo = s.tickNo := rfl
@[simp] theorem State.onQuad_pending (s : State) (x : QuadNo) (f : Quad → Quad) : (s.onQuad x f).pending = s.pending := rfl

@[simp] theorem State.onSlice_por (s : State) (p : SliceNo) (f : Slice → Slice) : (s.onSlice p f).por = s.por := rfl
@[simp] theorem State.onSlice_islands (s : State) (p : SliceNo) (f : Slice → Slice) : (s.onSlice p f).islands = s.islands := rfl
@[simp] theorem State.onSlice_quads (s : State) (p : SliceNo) (f : Slice → Slice) : (s.onSlice p f).quads = s.quads := rfl
@[simp] theorem State.onSlice_groups (s : State) (p : SliceNo) (f : Slice → Slice) : (s.onSlice p f).groups = s.groups := rfl
@[simp] theorem State.onSlice_cfg (s : State) (p : SliceNo) (f : Slice → Slice) : (s.onSlice p f).cfg = s.cfg := rfl
@[simp] theorem State.onSlice_cp (s : State) (p : SliceNo) (f : Slice → Slice) : (s.onSlice p f).cp = s.cp := rfl
@[simp] theorem State.onSlice_cmd (s : State) (p : SliceNo) (f : Slice → Slice) : (s.onSlice p f).cmd = s.cmd := rfl
@[simp] theorem State.onSlice_eph (s : State) (p : SliceNo) (f : Slice → Slice) : (s.onSlice p f).eph = s.eph := rfl
@[simp] theorem State.onSlice_spg (s : State) (p : SliceNo) (f : Slice → Slice) : (s.onSlice p f).spg = s.spg := rfl
@[simp] theorem State.onSlice_svy (s : State) (p : SliceNo) (f : Slice → Slice) : (s.onSlice p f).svy = s.svy := rfl
@[simp] theorem State.onSlice_log (s : State) (p : SliceNo) (f : Slice → Slice) : (s.onSlice p f).log = s.log := rfl
@[simp] theorem State.onSlice_inj (s : State) (p : SliceNo) (f : Slice → Slice) : (s.onSlice p f).inj = s.inj := rfl
@[simp] theorem State.onSlice_test (s : State) (p : SliceNo) (f : Slice → Slice) : (s.onSlice p f).test = s.test := rfl
@[simp] theorem State.onSlice_reqs (s : State) (p : SliceNo) (f : Slice → Slice) : (s.onSlice p f).reqs = s.reqs := rfl
@[simp] theorem State.onSlice_freeIdx (s : State) (p : SliceNo) (f : Slice → Slice) : (s.onSlice p f).freeIdx = s.freeIdx := rfl
@[simp] theorem State.onSlice_nextId (s : State) (p : SliceNo) (f : Slice → Slice) : (s.onSlice p f).nextId = s.nextId := rfl
@[simp] theorem State.onSlice_tickNo (s : State) (p : SliceNo) (f : Slice → Slice) : (s.onSlice p f).tickNo = s.tickNo := rfl
@[simp] theorem State.onSlice_pending (s : State) (p : SliceNo) (f : Slice → Slice) : (s.onSlice p f).pending = s.pending := rfl

@[simp] theorem State.onGroup_por (s : State) (g : GroupNo) (f : LinkGrp → LinkGrp) : (s.onGroup g f).por = s.por := rfl
@[simp] theorem State.onGroup_islands (s : State) (g : GroupNo) (f : LinkGrp → LinkGrp) : (s.onGroup g f).islands = s.islands := rfl
@[simp] theorem State.onGroup_quads (s : State) (g : GroupNo) (f : LinkGrp → LinkGrp) : (s.onGroup g f).quads = s.quads := rfl
@[simp] theorem State.onGroup_slices (s : State) (g : GroupNo) (f : LinkGrp → LinkGrp) : (s.onGroup g f).slices = s.slices := rfl
@[simp] theorem State.onGroup_cfg (s : State) (g : GroupNo) (f : LinkGrp → LinkGrp) : (s.onGroup g f).cfg = s.cfg := rfl
@[simp] theorem State.onGroup_cp (s : State) (g : GroupNo) (f : LinkGrp → LinkGrp) : (s.onGroup g f).cp = s.cp := rfl
@[simp] theorem State.onGroup_cmd (s : State) (g : GroupNo) (f : LinkGrp → LinkGrp) : (s.onGroup g f).cmd = s.cmd := rfl
@[simp] theorem State.onGroup_eph (s : State) (g : GroupNo) (f : LinkGrp → LinkGrp) : (s.onGroup g f).eph = s.eph := rfl
@[simp] theorem State.onGroup_spg (s : State) (g : GroupNo) (f : LinkGrp → LinkGrp) : (s.onGroup g f).spg = s.spg := rfl
@[simp] theorem State.onGroup_svy (s : State) (g : GroupNo) (f : LinkGrp → LinkGrp) : (s.onGroup g f).svy = s.svy := rfl
@[simp] theorem State.onGroup_log (s : State) (g : GroupNo) (f : LinkGrp → LinkGrp) : (s.onGroup g f).log = s.log := rfl
@[simp] theorem State.onGroup_inj (s : State) (g : GroupNo) (f : LinkGrp → LinkGrp) : (s.onGroup g f).inj = s.inj := rfl
@[simp] theorem State.onGroup_test (s : State) (g : GroupNo) (f : LinkGrp → LinkGrp) : (s.onGroup g f).test = s.test := rfl
@[simp] theorem State.onGroup_reqs (s : State) (g : GroupNo) (f : LinkGrp → LinkGrp) : (s.onGroup g f).reqs = s.reqs := rfl
@[simp] theorem State.onGroup_freeIdx (s : State) (g : GroupNo) (f : LinkGrp → LinkGrp) : (s.onGroup g f).freeIdx = s.freeIdx := rfl
@[simp] theorem State.onGroup_nextId (s : State) (g : GroupNo) (f : LinkGrp → LinkGrp) : (s.onGroup g f).nextId = s.nextId := rfl
@[simp] theorem State.onGroup_tickNo (s : State) (g : GroupNo) (f : LinkGrp → LinkGrp) : (s.onGroup g f).tickNo = s.tickNo := rfl
@[simp] theorem State.onGroup_pending (s : State) (g : GroupNo) (f : LinkGrp → LinkGrp) : (s.onGroup g f).pending = s.pending := rfl

@[simp] theorem State.onIslands_por (s : State) (f : Nat → Island → Island) : (s.onIslands f).por = s.por := rfl
@[simp] theorem State.onIslands_quads (s : State) (f : Nat → Island → Island) : (s.onIslands f).quads = s.quads := rfl
@[simp] theorem State.onIslands_slices (s : State) (f : Nat → Island → Island) : (s.onIslands f).slices = s.slices := rfl
@[simp] theorem State.onIslands_groups (s : State) (f : Nat → Island → Island) : (s.onIslands f).groups = s.groups := rfl
@[simp] theorem State.onIslands_cfg (s : State) (f : Nat → Island → Island) : (s.onIslands f).cfg = s.cfg := rfl
@[simp] theorem State.onIslands_cp (s : State) (f : Nat → Island → Island) : (s.onIslands f).cp = s.cp := rfl
@[simp] theorem State.onIslands_cmd (s : State) (f : Nat → Island → Island) : (s.onIslands f).cmd = s.cmd := rfl
@[simp] theorem State.onIslands_eph (s : State) (f : Nat → Island → Island) : (s.onIslands f).eph = s.eph := rfl
@[simp] theorem State.onIslands_spg (s : State) (f : Nat → Island → Island) : (s.onIslands f).spg = s.spg := rfl
@[simp] theorem State.onIslands_svy (s : State) (f : Nat → Island → Island) : (s.onIslands f).svy = s.svy := rfl
@[simp] theorem State.onIslands_log (s : State) (f : Nat → Island → Island) : (s.onIslands f).log = s.log := rfl
@[simp] theorem State.onIslands_inj (s : State) (f : Nat → Island → Island) : (s.onIslands f).inj = s.inj := rfl
@[simp] theorem State.onIslands_test (s : State) (f : Nat → Island → Island) : (s.onIslands f).test = s.test := rfl
@[simp] theorem State.onIslands_reqs (s : State) (f : Nat → Island → Island) : (s.onIslands f).reqs = s.reqs := rfl
@[simp] theorem State.onIslands_freeIdx (s : State) (f : Nat → Island → Island) : (s.onIslands f).freeIdx = s.freeIdx := rfl
@[simp] theorem State.onIslands_nextId (s : State) (f : Nat → Island → Island) : (s.onIslands f).nextId = s.nextId := rfl
@[simp] theorem State.onIslands_tickNo (s : State) (f : Nat → Island → Island) : (s.onIslands f).tickNo = s.tickNo := rfl
@[simp] theorem State.onIslands_pending (s : State) (f : Nat → Island → Island) : (s.onIslands f).pending = s.pending := rfl

@[simp] theorem State.onEph_por (s : State) (f : EphS → EphS) : (s.onEph f).por = s.por := rfl
@[simp] theorem State.onEph_islands (s : State) (f : EphS → EphS) : (s.onEph f).islands = s.islands := rfl
@[simp] theorem State.onEph_quads (s : State) (f : EphS → EphS) : (s.onEph f).quads = s.quads := rfl
@[simp] theorem State.onEph_slices (s : State) (f : EphS → EphS) : (s.onEph f).slices = s.slices := rfl
@[simp] theorem State.onEph_groups (s : State) (f : EphS → EphS) : (s.onEph f).groups = s.groups := rfl
@[simp] theorem State.onEph_cfg (s : State) (f : EphS → EphS) : (s.onEph f).cfg = s.cfg := rfl
@[simp] theorem State.onEph_cp (s : State) (f : EphS → EphS) : (s.onEph f).cp = s.cp := rfl
@[simp] theorem State.onEph_cmd (s : State) (f : EphS → EphS) : (s.onEph f).cmd = s.cmd := rfl
@[simp] theorem State.onEph_spg (s : State) (f : EphS → EphS) : (s.onEph f).spg = s.spg := rfl
@[simp] theorem State.onEph_svy (s : State) (f : EphS → EphS) : (s.onEph f).svy = s.svy := rfl
@[simp] theorem State.onEph_log (s : State) (f : EphS → EphS) : (s.onEph f).log = s.log := rfl
@[simp] theorem State.onEph_inj (s : State) (f : EphS → EphS) : (s.onEph f).inj = s.inj := rfl
@[simp] theorem State.onEph_test (s : State) (f : EphS → EphS) : (s.onEph f).test = s.test := rfl
@[simp] theorem State.onEph_reqs (s : State) (f : EphS → EphS) : (s.onEph f).reqs = s.reqs := rfl
@[simp] theorem State.onEph_freeIdx (s : State) (f : EphS → EphS) : (s.onEph f).freeIdx = s.freeIdx := rfl
@[simp] theorem State.onEph_nextId (s : State) (f : EphS → EphS) : (s.onEph f).nextId = s.nextId := rfl
@[simp] theorem State.onEph_tickNo (s : State) (f : EphS → EphS) : (s.onEph f).tickNo = s.tickNo := rfl
@[simp] theorem State.onEph_pending (s : State) (f : EphS → EphS) : (s.onEph f).pending = s.pending := rfl

@[simp] theorem State.onSvy_por (s : State) (f : SvyS → SvyS) : (s.onSvy f).por = s.por := rfl
@[simp] theorem State.onSvy_islands (s : State) (f : SvyS → SvyS) : (s.onSvy f).islands = s.islands := rfl
@[simp] theorem State.onSvy_quads (s : State) (f : SvyS → SvyS) : (s.onSvy f).quads = s.quads := rfl
@[simp] theorem State.onSvy_slices (s : State) (f : SvyS → SvyS) : (s.onSvy f).slices = s.slices := rfl
@[simp] theorem State.onSvy_groups (s : State) (f : SvyS → SvyS) : (s.onSvy f).groups = s.groups := rfl
@[simp] theorem State.onSvy_cfg (s : State) (f : SvyS → SvyS) : (s.onSvy f).cfg = s.cfg := rfl
@[simp] theorem State.onSvy_cp (s : State) (f : SvyS → SvyS) : (s.onSvy f).cp = s.cp := rfl
@[simp] theorem State.onSvy_cmd (s : State) (f : SvyS → SvyS) : (s.onSvy f).cmd = s.cmd := rfl
@[simp] theorem State.onSvy_eph (s : State) (f : SvyS → SvyS) : (s.onSvy f).eph = s.eph := rfl
@[simp] theorem State.onSvy_spg (s : State) (f : SvyS → SvyS) : (s.onSvy f).spg = s.spg := rfl
@[simp] theorem State.onSvy_log (s : State) (f : SvyS → SvyS) : (s.onSvy f).log = s.log := rfl
@[simp] theorem State.onSvy_inj (s : State) (f : SvyS → SvyS) : (s.onSvy f).inj = s.inj := rfl
@[simp] theorem State.onSvy_test (s : State) (f : SvyS → SvyS) : (s.onSvy f).test = s.test := rfl
@[simp] theorem State.onSvy_reqs (s : State) (f : SvyS → SvyS) : (s.onSvy f).reqs = s.reqs := rfl
@[simp] theorem State.onSvy_freeIdx (s : State) (f : SvyS → SvyS) : (s.onSvy f).freeIdx = s.freeIdx := rfl
@[simp] theorem State.onSvy_nextId (s : State) (f : SvyS → SvyS) : (s.onSvy f).nextId = s.nextId := rfl
@[simp] theorem State.onSvy_tickNo (s : State) (f : SvyS → SvyS) : (s.onSvy f).tickNo = s.tickNo := rfl
@[simp] theorem State.onSvy_pending (s : State) (f : SvyS → SvyS) : (s.onSvy f).pending = s.pending := rfl

@[simp] theorem State.onCmd_por (s : State) (f : CmdS → CmdS) : (s.onCmd f).por = s.por := rfl
@[simp] theorem State.onCmd_islands (s : State) (f : CmdS → CmdS) : (s.onCmd f).islands = s.islands := rfl
@[simp] theorem State.onCmd_quads (s : State) (f : CmdS → CmdS) : (s.onCmd f).quads = s.quads := rfl
@[simp] theorem State.onCmd_slices (s : State) (f : CmdS → CmdS) : (s.onCmd f).slices = s.slices := rfl
@[simp] theorem State.onCmd_groups (s : State) (f : CmdS → CmdS) : (s.onCmd f).groups = s.groups := rfl
@[simp] theorem State.onCmd_cfg (s : State) (f : CmdS → CmdS) : (s.onCmd f).cfg = s.cfg := rfl
@[simp] theorem State.onCmd_cp (s : State) (f : CmdS → CmdS) : (s.onCmd f).cp = s.cp := rfl
@[simp] theorem State.onCmd_eph (s : State) (f : CmdS → CmdS) : (s.onCmd f).eph = s.eph := rfl
@[simp] theorem State.onCmd_spg (s : State) (f : CmdS → CmdS) : (s.onCmd f).spg = s.spg := rfl
@[simp] theorem State.onCmd_svy (s : State) (f : CmdS → CmdS) : (s.onCmd f).svy = s.svy := rfl
@[simp] theorem State.onCmd_log (s : State) (f : CmdS → CmdS) : (s.onCmd f).log = s.log := rfl
@[simp] theorem State.onCmd_inj (s : State) (f : CmdS → CmdS) : (s.onCmd f).inj = s.inj := rfl
@[simp] theorem State.onCmd_test (s : State) (f : CmdS → CmdS) : (s.onCmd f).test = s.test := rfl
@[simp] theorem State.onCmd_reqs (s : State) (f : CmdS → CmdS) : (s.onCmd f).reqs = s.reqs := rfl
@[simp] theorem State.onCmd_freeIdx (s : State) (f : CmdS → CmdS) : (s.onCmd f).freeIdx = s.freeIdx := rfl
@[simp] theorem State.onCmd_nextId (s : State) (f : CmdS → CmdS) : (s.onCmd f).nextId = s.nextId := rfl
@[simp] theorem State.onCmd_tickNo (s : State) (f : CmdS → CmdS) : (s.onCmd f).tickNo = s.tickNo := rfl
@[simp] theorem State.onCmd_pending (s : State) (f : CmdS → CmdS) : (s.onCmd f).pending = s.pending := rfl

@[simp] theorem State.onQuad_isl (s : State) (x : QuadNo) (f : Quad → Quad) (j : IslandNo) : (s.onQuad x f).isl j = s.isl j := rfl
@[simp] theorem State.onSlice_isl (s : State) (p : SliceNo) (f : Slice → Slice) (j : IslandNo) : (s.onSlice p f).isl j = s.isl j := rfl
@[simp] theorem State.onGroup_isl (s : State) (g : GroupNo) (f : LinkGrp → LinkGrp) (j : IslandNo) : (s.onGroup g f).isl j = s.isl j := rfl
@[simp] theorem State.onEph_isl (s : State) (f : EphS → EphS) (j : IslandNo) : (s.onEph f).isl j = s.isl j := rfl
@[simp] theorem State.onSvy_isl (s : State) (f : SvyS → SvyS) (j : IslandNo) : (s.onSvy f).isl j = s.isl j := rfl
@[simp] theorem State.onCmd_isl (s : State) (f : CmdS → CmdS) (j : IslandNo) : (s.onCmd f).isl j = s.isl j := rfl
/-- One isl replaced: it is the new one, and every other is as before. -/
theorem State.onIsl_isl (s : State) (k j : IslandNo) (f : Island → Island) :
    (s.onIsl k f).isl j = if k = j then f (s.isl j) else s.isl j := by
  simp only [State.isl, State.onIsl]
  by_cases h : k = j
  · subst h
    rw [if_pos rfl]
    exact Vector.getElem_set_self ..
  · rw [if_neg h]
    exact Vector.getElem_set_ne _ _ (fun e => h (Fin.ext e))
@[simp] theorem State.onIsl_isl_self (s : State) (k : IslandNo) (f : Island → Island) : (s.onIsl k f).isl k = f (s.isl k) := by
  rw [State.onIsl_isl, if_pos rfl]

@[simp] theorem State.onIsl_quad (s : State) (k : IslandNo) (f : Island → Island) (j : QuadNo) : (s.onIsl k f).quad j = s.quad j := rfl
@[simp] theorem State.onSlice_quad (s : State) (p : SliceNo) (f : Slice → Slice) (j : QuadNo) : (s.onSlice p f).quad j = s.quad j := rfl
@[simp] theorem State.onGroup_quad (s : State) (g : GroupNo) (f : LinkGrp → LinkGrp) (j : QuadNo) : (s.onGroup g f).quad j = s.quad j := rfl
@[simp] theorem State.onIslands_quad (s : State) (f : Nat → Island → Island) (j : QuadNo) : (s.onIslands f).quad j = s.quad j := rfl
@[simp] theorem State.onEph_quad (s : State) (f : EphS → EphS) (j : QuadNo) : (s.onEph f).quad j = s.quad j := rfl
@[simp] theorem State.onSvy_quad (s : State) (f : SvyS → SvyS) (j : QuadNo) : (s.onSvy f).quad j = s.quad j := rfl
@[simp] theorem State.onCmd_quad (s : State) (f : CmdS → CmdS) (j : QuadNo) : (s.onCmd f).quad j = s.quad j := rfl
/-- One quad replaced: it is the new one, and every other is as before. -/
theorem State.onQuad_quad (s : State) (x j : QuadNo) (f : Quad → Quad) :
    (s.onQuad x f).quad j = if x = j then f (s.quad j) else s.quad j := by
  simp only [State.quad, State.onQuad]
  by_cases h : x = j
  · subst h
    rw [if_pos rfl]
    exact Vector.getElem_set_self ..
  · rw [if_neg h]
    exact Vector.getElem_set_ne _ _ (fun e => h (Fin.ext e))
@[simp] theorem State.onQuad_quad_self (s : State) (x : QuadNo) (f : Quad → Quad) : (s.onQuad x f).quad x = f (s.quad x) := by
  rw [State.onQuad_quad, if_pos rfl]

@[simp] theorem State.onIsl_slice (s : State) (k : IslandNo) (f : Island → Island) (j : SliceNo) : (s.onIsl k f).slice j = s.slice j := rfl
@[simp] theorem State.onQuad_slice (s : State) (x : QuadNo) (f : Quad → Quad) (j : SliceNo) : (s.onQuad x f).slice j = s.slice j := rfl
@[simp] theorem State.onGroup_slice (s : State) (g : GroupNo) (f : LinkGrp → LinkGrp) (j : SliceNo) : (s.onGroup g f).slice j = s.slice j := rfl
@[simp] theorem State.onIslands_slice (s : State) (f : Nat → Island → Island) (j : SliceNo) : (s.onIslands f).slice j = s.slice j := rfl
@[simp] theorem State.onEph_slice (s : State) (f : EphS → EphS) (j : SliceNo) : (s.onEph f).slice j = s.slice j := rfl
@[simp] theorem State.onSvy_slice (s : State) (f : SvyS → SvyS) (j : SliceNo) : (s.onSvy f).slice j = s.slice j := rfl
@[simp] theorem State.onCmd_slice (s : State) (f : CmdS → CmdS) (j : SliceNo) : (s.onCmd f).slice j = s.slice j := rfl
/-- One slice replaced: it is the new one, and every other is as before. -/
theorem State.onSlice_slice (s : State) (p j : SliceNo) (f : Slice → Slice) :
    (s.onSlice p f).slice j = if p = j then f (s.slice j) else s.slice j := by
  simp only [State.slice, State.onSlice]
  by_cases h : p = j
  · subst h
    rw [if_pos rfl]
    exact Vector.getElem_set_self ..
  · rw [if_neg h]
    exact Vector.getElem_set_ne _ _ (fun e => h (Fin.ext e))
@[simp] theorem State.onSlice_slice_self (s : State) (p : SliceNo) (f : Slice → Slice) : (s.onSlice p f).slice p = f (s.slice p) := by
  rw [State.onSlice_slice, if_pos rfl]

@[simp] theorem State.onIsl_group (s : State) (k : IslandNo) (f : Island → Island) (j : GroupNo) : (s.onIsl k f).group j = s.group j := rfl
@[simp] theorem State.onQuad_group (s : State) (x : QuadNo) (f : Quad → Quad) (j : GroupNo) : (s.onQuad x f).group j = s.group j := rfl
@[simp] theorem State.onSlice_group (s : State) (p : SliceNo) (f : Slice → Slice) (j : GroupNo) : (s.onSlice p f).group j = s.group j := rfl
@[simp] theorem State.onIslands_group (s : State) (f : Nat → Island → Island) (j : GroupNo) : (s.onIslands f).group j = s.group j := rfl
@[simp] theorem State.onEph_group (s : State) (f : EphS → EphS) (j : GroupNo) : (s.onEph f).group j = s.group j := rfl
@[simp] theorem State.onSvy_group (s : State) (f : SvyS → SvyS) (j : GroupNo) : (s.onSvy f).group j = s.group j := rfl
@[simp] theorem State.onCmd_group (s : State) (f : CmdS → CmdS) (j : GroupNo) : (s.onCmd f).group j = s.group j := rfl
/-- One group replaced: it is the new one, and every other is as before. -/
theorem State.onGroup_group (s : State) (g j : GroupNo) (f : LinkGrp → LinkGrp) :
    (s.onGroup g f).group j = if g = j then f (s.group j) else s.group j := by
  simp only [State.group, State.onGroup]
  by_cases h : g = j
  · subst h
    rw [if_pos rfl]
    exact Vector.getElem_set_self ..
  · rw [if_neg h]
    exact Vector.getElem_set_ne _ _ (fun e => h (Fin.ext e))
@[simp] theorem State.onGroup_group_self (s : State) (g : GroupNo) (f : LinkGrp → LinkGrp) : (s.onGroup g f).group g = f (s.group g) := by
  rw [State.onGroup_group, if_pos rfl]

end Sys2Proof.Machine
end

