-- ==== Sys2Proof/Laws/Basic.lean ====
section
/-! SUPPORT. Small laws of the plainest operations: a guarded effect, the canonical maps, one bit of a word, the queues of a pool, and the
frames of Safety. -/

namespace Sys2Proof.Machine

/-- A command whose start condition holds has its effect. -/
theorem guarded_pos {c : Bool} {s t : State} (h : c = true) : guarded c s t = .next t := by subst h; rfl

/-- A command whose start condition does not hold leaves the state as it was. -/
theorem guarded_neg {c : Bool} {s t : State} (h : c = false) : guarded c s t = .next s := by subst h; rfl

/-- A guarded effect always answers a next state. -/
theorem guarded_next (c : Bool) (s t : State) : ∃ u, guarded c s t = .next u := ⟨_, rfl⟩

/-- A canonical map reads back what was put. -/
@[simp] theorem kmap_get_put {β : Type} (m : List (Nat × β)) (k : Nat) (v : β) : KMap.get? (KMap.put m k v) k = some v := by
  unfold KMap.get?
  induction m with
  | nil => simp [KMap.put]
  | cons e r ih =>
    unfold KMap.put
    split
    · rename_i h
      rw [List.find?_cons_of_neg (by simp; omega), ih]
    · split <;> simp

/-- Putting at one key leaves every other. -/
theorem kmap_get_put_other {β : Type} (m : List (Nat × β)) {j k : Nat} (h : j ≠ k) (v : β) : KMap.get? (KMap.put m k v) j = KMap.get? m j := by
  unfold KMap.get?
  induction m with
  | nil => simp [KMap.put]; omega
  | cons e r ih =>
    unfold KMap.put
    split
    · by_cases hj : e.1 = j
      · simp [hj]
      · rw [List.find?_cons_of_neg (by simpa using hj), List.find?_cons_of_neg (by simpa using hj), ih]
    · split
      · rename_i _ e2
        rw [List.find?_cons_of_neg (by simp; omega), List.find?_cons_of_neg (by simp; omega)]
      · rw [List.find?_cons_of_neg (by simp; omega)]

@[simp] theorem kmap_getD_put {β : Type} (m : List (Nat × β)) (k : Nat) (v d : β) : KMap.getD (KMap.put m k v) k d = v := by
  simp [KMap.getD]

theorem kmap_getD_put_other {β : Type} (m : List (Nat × β)) {j k : Nat} (h : j ≠ k) (v d : β) :
    KMap.getD (KMap.put m k v) j d = KMap.getD m j d := by
  simp [KMap.getD, kmap_get_put_other m h]

/-- A queue of a pool reads back as it was set. -/
@[simp] theorem Quad.queue_setQueue (x : Quad) (q : Nat) (c : CQueue) : (x.setQueue q c).queue q = c := by simp [Quad.queue, Quad.setQueue]

/-- Setting a queue leaves every other. -/
theorem Quad.queue_setQueue_other (x : Quad) {j q : Nat} (h : j ≠ q) (c : CQueue) : (x.setQueue q c).queue j = x.queue j := by
  simp [Quad.queue, Quad.setQueue, kmap_getD_put_other _ h]

/-- Retiring cells leaves every queue. -/
@[simp] theorem Quad.queues_settle (x : Quad) : x.settle.queues = x.queues := by unfold Quad.settle; split <;> rfl

@[simp] theorem Quad.queue_settle (x : Quad) (q : Nat) : x.settle.queue q = x.queue q := by simp [Quad.queue]

/-- Bit j of a word whose bit i has been set to b. -/
theorem getLsbD_setBit {n : Nat} (v : BitVec n) (i : Nat) (b : Bool) (j : Nat) (hj : j < n) :
    (setBit v i b).getLsbD j = if j = i then b else v.getLsbD j := by
  unfold setBit
  have p : (BitVec.ofNat n (2 ^ i)).getLsbD j = decide (j = i) := by
    rw [BitVec.getLsbD_ofNat, Nat.testBit_two_pow]
    by_cases h : i = j
    · subst h; simp [hj]
    · simp [h, Ne.symm h]
  split
  · rw [BitVec.getLsbD_or, p]; by_cases h : j = i <;> simp [*]
  · rw [BitVec.getLsbD_and, BitVec.getLsbD_not, p]; by_cases h : j = i <;> simp [h, hj]; simp_all

/-- Two states that agree everywhere but in slice p. -/
theorem slices_set (s t : State) (p : SliceNo) (h : ∀ q, q ≠ p → t.slice q = s.slice q) : t.slices = s.slices.set p (t.slice p) := by
  apply Vector.ext
  intro i hi
  by_cases e : p.val = i
  · subst e; simp [State.slice]
  · rw [Vector.getElem_set_ne _ _ e]
    exact h ⟨i, hi⟩ (fun x => e (by rw [← x]))

/-- Two states that agree everywhere but in island k. -/
theorem islands_set (s t : State) (k : IslandNo) (h : ∀ q, q ≠ k → t.isl q = s.isl q) : t.islands = s.islands.set k (t.isl k) := by
  apply Vector.ext
  intro i hi
  by_cases e : k.val = i
  · subst e; simp [State.isl]
  · rw [Vector.getElem_set_ne _ _ e]
    exact h ⟨i, hi⟩ (fun x => e (by rw [← x]))

/-- Where a tag is free, a fresh one is drawn, and it is free. -/
theorem freshTag_some {s : State} {free : BitVec 8 → Bool} {t : BitVec 8} (h : free t = true) :
    ∃ u, free u = true ∧ s.freshTag free = (some u, { s with freeIdx := s.freeIdx + 1 }) := by
  have hm : t ∈ freeTags free :=
    List.mem_filter.2 ⟨List.mem_map.2 ⟨t.toNat, List.mem_range.2 t.isLt, BitVec.ofNat_toNat 8 t⟩, h⟩
  have hl : Config.freeNat s.freeIdx % (freeTags free).length < (freeTags free).length :=
    Nat.mod_lt _ (List.length_pos_of_mem hm)
  refine ⟨(freeTags free)[Config.freeNat s.freeIdx % (freeTags free).length], (List.mem_filter.1 (List.getElem_mem hl)).2, ?_⟩
  simp only [State.freshTag, State.freeNat, List.getElem?_eq_getElem hl]

end Sys2Proof.Machine
end

