-- ==== Sys2Proof/Laws/FrameCore.lean ====
section
/-! SUPPORT. Frame lemmas (the base operations, the home path, commits, the store, the managers, the Logbook, the command queues and the Eyepiece): each operation leaves what `kept` collects as it was. -/

namespace Sys2Proof.Machine

/-! Ops. -/

theorem bump_kept (s : State) (k : IslandNo) (off : Nat) (n : Nat) : (State.bump s k off n).kept = s.kept := by
  unfold State.bump
  try dsimp only
  (repeat' split) <;> first | simp only [Island.bump_kept, onIsl_kept, implies_true] | rfl

theorem Island_reportEmptied_kept (i : Island) (k : IslandNo) : (Island.reportEmptied i k).kept = i.kept := by
  unfold Island.reportEmptied
  try dsimp only
  (repeat' split) <;> first | (simp only [Island.emit_kept, kept_mk, onIsl_kept, onSlice_kept, onQuad_kept, onGroup_kept, onIslands_kept, foldl_kept, map_kept, mapIdx_kept, map_set_kept, Island_kept_mk, ite_kept, ite_isl_kept, ite_self, implies_true]; done) | ((try simp only [Island.emit_kept, kept_mk, onIsl_kept, onSlice_kept, onQuad_kept, onGroup_kept, onIslands_kept, foldl_kept, map_kept, mapIdx_kept, map_set_kept, Island_kept_mk, ite_kept, ite_isl_kept, ite_self, implies_true]) <;> refine (foldl_isl_kept _ (fun s b => ?_) _ _).trans ?_ <;> (try dsimp only) <;> (try (repeat' split)) <;> first | (simp only [Island.emit_kept, Island_kept_mk]; done) | rfl)

theorem emit_kept (s : State) (k : IslandNo) (n : Note) : (State.emit s k n).kept = s.kept := by
  unfold State.emit
  try dsimp only
  (repeat' split) <;> first | simp only [Island.emit_kept, onIsl_kept, implies_true] | rfl

theorem event_kept (s : State) (k : IslandNo) (e : DetEvent) : (State.event s k e).kept = s.kept := by
  unfold State.event
  try dsimp only
  (repeat' split) <;> first | simp only [onIsl_kept, Island_kept_mk, implies_true] | rfl

theorem send_kept (s : State) (k : IslandNo) (p : OutPkt) : (State.send s k p).kept = s.kept := by
  unfold State.send
  try dsimp only
  (repeat' split) <;> first | simp only [onIsl_kept, Island_kept_mk, implies_true] | rfl

theorem freeBit_kept (s : State) : (State.freeBit s).2.kept = s.kept := by
  unfold State.freeBit
  try dsimp only
  (repeat' split) <;> first | simp only [kept_mk] | rfl

theorem freeNat_kept (s : State) : (State.freeNat s).2.kept = s.kept := by
  unfold State.freeNat
  try dsimp only
  (repeat' split) <;> first | simp only [kept_mk] | rfl

theorem shutIsland_kept (s : State) (k : IslandNo) : (State.shutIsland s k).kept = s.kept := by
  unfold State.shutIsland
  try dsimp only
  (repeat' split) <;> first | simp only [Island.emit_kept, enter_kept, kept_mk, onIsl_kept, ite_isl_kept, ite_self, implies_true] | rfl

theorem answer_kept (s : State) (tag : BitVec 4) (code : BitVec 2) (rdata : W64) : (State.answer s tag code rdata).kept = s.kept := by
  unfold State.answer
  try dsimp only
  (repeat' split) <;> first | simp only [kept_mk] | rfl

theorem useInjection_kept (s : State) (k : IslandNo) : (State.useInjection s k).kept = s.kept := by
  unfold State.useInjection
  try dsimp only
  (repeat' split) <;> first | simp only [bump_kept, kept_mk, onIsl_kept, Island_kept_mk, implies_true] | rfl

theorem inject_kept (s : State) (k : IslandNo) (code inst : Nat) : (State.inject s k code inst).2.kept = s.kept := by
  unfold State.inject
  try dsimp only
  (repeat' split) <;> first | simp only [useInjection_kept] | rfl

/-! Queues. -/

theorem execPacketClose_kept (x : QuadNo) (q : BitVec 16) (more : List PWord) (tag : BitVec 24) (poisonIn : Bool) (s : State) : Keeps s (execPacketClose x q more tag poisonIn s) := by
  unfold execPacketClose
  try dsimp only
  (repeat' split) <;> (try refine keeps_guarded ?_) <;> (try dsimp only) <;> (try (repeat' split)) <;> first | simp only [keeps_next, onIsl_kept, onQuad_kept, Island_kept_mk, implies_true] | rfl

theorem execPacketVisible_kept (x : QuadNo) (q : BitVec 16) (s : State) : Keeps s (execPacketVisible x q s) := by
  unfold execPacketVisible
  try dsimp only
  (repeat' split) <;> (try refine keeps_guarded ?_) <;> (try dsimp only) <;> (try (repeat' split)) <;> first | simp only [onQuad_kept] | rfl

theorem poolCheck_kept (s : State) (x : QuadNo) (o : ParityObs) (pos : Nat) (p : Pkt) : (State.poolCheck s x o pos p).2.kept = s.kept := by
  unfold State.poolCheck
  try dsimp only
  (repeat' split) <;> first | simp only [inject_kept, onIsl_kept, Island_kept_mk, implies_true] | rfl

theorem wedge_kept (s : State) (x : QuadNo) (q : Nat) : (State.wedge s x q).kept = s.kept := by
  unfold State.wedge
  try dsimp only
  (repeat' split) <;> first | simp only [emit_kept, onQuad_kept] | rfl

theorem readPacket_kept (s : State) (x : QuadNo) (q : Nat) (o : ParityObs) : (State.readPacket s x q o).2.kept = s.kept := by
  unfold State.readPacket
  try dsimp only
  (repeat' split) <;> first | simp only [poolCheck_kept, wedge_kept, onQuad_kept] | rfl

theorem execQueueWriteFull_kept (x : QuadNo) (q : BitVec 16) (_w : W64) (s : State) : Keeps s (execQueueWriteFull x q _w s) := by
  unfold execQueueWriteFull
  try dsimp only
  (repeat' split) <;> (try refine keeps_guarded ?_) <;> (try dsimp only) <;> (try (repeat' split)) <;> first | simp only [onQuad_kept] | rfl

/-! Fab. -/

theorem sendFabric_kept (s : State) (k : IslandNo) (c : Nat) (words : List W64) (poison : Bool) : (State.sendFabric s k c words poison).kept = s.kept := by
  unfold State.sendFabric
  try dsimp only
  (repeat' split) <;> first | simp only [send_kept] | rfl

theorem post_kept (s : State) (sunit : BitVec 6) (pt : Nat) (words : List W64) (poison : Bool) : (State.post s sunit pt words poison).kept = s.kept := by
  unfold State.post
  try dsimp only
  (repeat' split) <;> first | simp only [sendFabric_kept] | rfl

theorem bounce_kept (s : State) (x : QuadNo) (c : Nat) (ws : List PWord) : (State.bounce s x c ws).kept = s.kept := by
  unfold State.bounce
  try dsimp only
  (repeat' split) <;> first | simp only [sendFabric_kept] | rfl

theorem goOn_kept (s : State) (x : QuadNo) (p : Pkt) (l : Leg) : (State.goOn s x p l).kept = s.kept := by
  unfold State.goOn
  try dsimp only
  (repeat' split) <;> first | simp only [bounce_kept, bump_kept, onQuad_kept] | rfl

theorem execQuadrantForward_kept (x : QuadNo) (q : BitVec 16) (dest : IslandNo) (parity : ParityObs) (s : State) : Keeps s (execQuadrantForward x q dest parity s) := by
  unfold execQuadrantForward
  try dsimp only
  (repeat' split) <;> (try refine keeps_guarded ?_) <;> (try dsimp only) <;> (try (repeat' split)) <;> first | simp only [keeps_next, goOn_kept, readPacket_kept] | rfl

theorem postData_kept (s : State) (dest : BitVec 12) (sunit : BitVec 6) (pt : Nat) (trans : W64) (rest : List W64) (data : PlateWords) : (State.postData s dest sunit pt trans rest data).kept = s.kept := by
  unfold State.postData
  try dsimp only
  (repeat' split) <;> first | simp only [post_kept] | rfl

theorem request_kept (s : State) (r : FabReq) : (State.request s r).kept = s.kept := by
  unfold State.request
  try dsimp only
  (repeat' split) <;> first | simp only [freeNat_kept, postData_kept, kept_mk] | rfl

theorem freshTag_kept (s : State) (f : BitVec 8 → Bool) : (s.freshTag f).2.kept = s.kept := freeNat_kept s

theorem dropReq_kept (s : State) (unit : BitVec 6) (tid : BitVec 16) : (State.dropReq s unit tid).kept = s.kept := by
  unfold State.dropReq
  try dsimp only
  (repeat' split) <;> first | simp only [kept_mk] | rfl

theorem lateAnswer_kept (s : State) : (State.lateAnswer s).kept = s.kept := by
  unfold State.lateAnswer
  try dsimp only
  (repeat' split) <;> first | simp only [bump_kept] | rfl

theorem ackTo_kept (s : State) (r : Requester) (sunit : BitVec 6) (status : BitVec 4) (oid : BitVec 40) (idx : BitVec 24) (home : HomeWord) (plates : Nat) (arg : BitVec 32) : (State.ackTo s r sunit status oid idx home plates arg).kept = s.kept := by
  unfold State.ackTo
  try dsimp only
  (repeat' split) <;> first | simp only [post_kept] | rfl

/-! Eph. -/

theorem lookup_kept (s : State) (oid : BitVec 40) (span : Nat) : (State.lookup s oid span).2.kept = s.kept := by
  unfold State.lookup
  try dsimp only
  (repeat' split) <;> first | simp only [bump_kept, request_kept, kept_mk] | rfl

theorem foundHome_kept (s0 : State) (oid : BitVec 40) (span : Nat) : (State.foundHome s0 oid span).kept = s0.kept := by
  unfold State.foundHome
  try dsimp only
  (repeat' split) <;> first | simp only [bump_kept, kept_mk] | rfl

theorem forgetHome_kept (s : State) (oid : BitVec 40) (span : Nat) (b : BitVec 12) : (State.forgetHome s oid span b).kept = s.kept := by
  unfold State.forgetHome
  try dsimp only
  (repeat' split) <;> first | simp only [kept_mk] | rfl

theorem claim_kept (s : State) (p : SliceNo) (n : Nat) (at_ : Option Nat) : (State.claim s p n at_).2.kept = s.kept := by
  unfold State.claim
  try dsimp only
  (repeat' split) <;> first | simp only [freeNat_kept, kept_mk] | rfl

theorem release_kept (s : State) (p : SliceNo) (base n : Nat) : (State.release s p base n).kept = s.kept := by
  unfold State.release
  try dsimp only
  (repeat' split) <;> first | simp only [kept_mk, onSlice_kept] | rfl

theorem mirDir_kept (s : State) : (State.mirDir s).kept = s.kept := by
  unfold State.mirDir
  try dsimp only
  (repeat' split) <;> first | simp only [kept_mk] | rfl

theorem touchSpan_kept (s : State) (oid : BitVec 40) (span : Nat) : (State.touchSpan s oid span).kept = s.kept := by
  unfold State.touchSpan
  try dsimp only
  (repeat' split) <;> first | simp only [kept_mk] | rfl

theorem haltDomain_kept (s : State) (d : Nat) (byHand : Bool) : (State.haltDomain s d byHand).kept = s.kept := by
  unfold State.haltDomain
  try dsimp only
  (repeat' split) <;> first | simp only [emit_kept, kept_mk] | rfl

theorem darken_kept (s : State) (oid : BitVec 40) (k : BitVec 24) (p : SliceNo) (index : Bool) : (State.darken s oid k p index).kept = s.kept := by
  unfold State.darken
  try dsimp only
  (repeat' split) <;> first | simp only [emit_kept, haltDomain_kept, kept_mk] | rfl

theorem endStep7_kept (s : State) (b : Bool) : (State.endStep7 s b).kept = s.kept := by
  unfold State.endStep7
  try dsimp only
  (repeat' split) <;> first | simp only [kept_mk] | rfl

theorem parkReq_kept (s : State) (oid : BitVec 40) (k : BitVec 24) (who : Parked) : (State.parkReq s oid k who).kept = s.kept := by
  unfold State.parkReq
  try dsimp only
  (repeat' split) <;> first | simp only [kept_mk] | rfl

/-! Home. -/

theorem onRun_kept (s : State) (id : Nat) (f : CmdRun → CmdRun) : (State.onRun s id f).kept = s.kept := by
  unfold State.onRun
  try dsimp only
  (repeat' split) <;> first | simp only [kept_mk] | rfl

theorem failRun_kept (s : State) (run : Option Nat) (st : BitVec 8) : (State.failRun s run st).kept = s.kept := by
  unfold State.failRun
  try dsimp only
  (repeat' split) <;> first | simp only [onRun_kept] | rfl

theorem newId_kept (s : State) : (State.newId s).2.kept = s.kept := by
  unfold State.newId
  try dsimp only
  (repeat' split) <;> first | simp only [kept_mk] | rfl

theorem portReq_kept (s : State) (p : SliceNo) (r : MemReq) : (State.portReq s p r).kept = s.kept := by
  unfold State.portReq
  try dsimp only
  (repeat' split) <;> first | simp only [onSlice_kept] | rfl

theorem memReq_kept (s : State) (p : SliceNo) (r : MemReq) : (State.memReq s p r).kept = s.kept := by
  unfold State.memReq
  try dsimp only
  (repeat' split) <;> first | simp only [newId_kept, portReq_kept, send_kept] | rfl

theorem onHeal_kept (s : State) (oid : BitVec 40) (k : BitVec 24) (f : Heal → Heal) : (State.onHeal s oid k f).kept = s.kept := by
  unfold State.onHeal
  try dsimp only
  (repeat' split) <;> first | simp only [kept_mk] | rfl

theorem healStored_kept (s : State) (oid : BitVec 40) (k : BitVec 24) (ok : Bool) : (State.healStored s oid k ok).kept = s.kept := by
  unfold State.healStored
  try dsimp only
  (repeat' split) <;> first | simp only [onHeal_kept] | rfl

theorem healHeader_kept (s : State) (oid : BitVec 40) (k : BitVec 24) (q : Nat) (hdr : Option (List Byte)) : (State.healHeader s oid k q hdr).kept = s.kept := by
  unfold State.healHeader
  try dsimp only
  (repeat' split) <;> first | simp only [onHeal_kept] | rfl

theorem healLine_kept (s : State) (oid : BitVec 40) (k : BitVec 24) (ix : Nat) (cipher : Option (List Byte)) : (State.healLine s oid k ix cipher).kept = s.kept := by
  unfold State.healLine
  try dsimp only
  (repeat' split) <;> first | simp only [onHeal_kept] | rfl

theorem queryRecord_kept (s : State) (oid : BitVec 40) : (State.queryRecord s oid).kept = s.kept := by
  unfold State.queryRecord
  try dsimp only
  (repeat' split) <;> first | simp only [request_kept] | rfl

theorem parkFor_kept (s : State) (oid : BitVec 40) (k : BitVec 24) (dest : RDest) : (State.parkFor s oid k dest).kept = s.kept := by
  unfold State.parkFor
  try dsimp only
  (repeat' split) <;> first | simp only [parkReq_kept] | rfl

theorem moveData_kept (s : State) (p : SliceNo) (no : Nat) (o : ObjRec) (k : BitVec 24) (seg line : Nat) (d : PlateWords) : (State.moveData s p no o k seg line d).kept = s.kept := by
  unfold State.moveData
  try dsimp only
  (repeat' split) <;> first | simp only [postData_kept, kept_mk] | rfl

theorem moveFails_kept (s : State) (no : Nat) : (State.moveFails s no).kept = s.kept := by
  unfold State.moveFails
  try dsimp only
  (repeat' split) <;> first | simp only [kept_mk] | rfl

theorem sendPlate_kept (s : State) (p q : SliceNo) (d : PlateWords) (id : Nat) (c : Cargo) : (State.sendPlate s p q d id c).kept = s.kept := by
  unfold State.sendPlate
  try dsimp only
  (repeat' split) <;> first | simp only [send_kept] | rfl

theorem arrive_kept (s : State) (q : SliceNo) (a : Arrived) : (State.arrive s q a).kept = s.kept := by
  unfold State.arrive
  try dsimp only
  (repeat' split) <;> first | simp only [onSlice_kept] | rfl

theorem giveEye_kept (s : State) (p q : SliceNo) (o : ObjRec) (k : BitVec 24) (id : Nat) (c : Content) : (State.giveEye s p q o k id c).kept = s.kept := by
  unfold State.giveEye
  try dsimp only
  (repeat' split) <;> first | simp only [arrive_kept, sendPlate_kept] | rfl

theorem takeAlmanac_kept (s : State) (p : SliceNo) (isA : Bool) (k : BitVec 24) (bad : Bool) (line : List Byte) : (State.takeAlmanac s p isA k bad line).kept = s.kept := by
  unfold State.takeAlmanac
  try dsimp only
  (repeat' split) <;> first | simp only [onSlice_kept] | rfl

theorem deliver_kept (s : State) (p : SliceNo) (o : ObjRec) (k : BitVec 24) (dest : RDest) (c : Content) : (State.deliver s p o k dest c).kept = s.kept := by
  unfold State.deliver
  try dsimp only
  (repeat' split) <;> first | simp only [failRun_kept, giveEye_kept, healStored_kept, moveData_kept, moveFails_kept, parkReq_kept, post_kept, postData_kept, sendPlate_kept, takeAlmanac_kept, onSlice_kept] | rfl

theorem askLines_kept (s : State) (p : SliceNo) (j : RJob) : (State.askLines s p j).kept = s.kept := by
  unfold State.askLines
  try dsimp only
  (repeat' split) <;> first | simp only [memReq_kept, foldl_kept, implies_true] | rfl

theorem putJob_kept (s : State) (p : SliceNo) (j : RJob) : (State.putJob s p j).kept = s.kept := by
  unfold State.putJob
  try dsimp only
  (repeat' split) <;> first | simp only [onSlice_kept] | rfl

theorem dropJob_kept (s : State) (p : SliceNo) (id : Nat) : (State.dropJob s p id).kept = s.kept := by
  unfold State.dropJob
  try dsimp only
  (repeat' split) <;> first | simp only [onSlice_kept] | rfl

theorem readPacked_kept (s : State) (p : SliceNo) (j : RJob) (es : List IdxEntry) : (State.readPacked s p j es).kept = s.kept := by
  unfold State.readPacked
  try dsimp only
  (repeat' split) <;> first | simp only [askLines_kept, deliver_kept, dropJob_kept, putJob_kept] | rfl

theorem beginJob_kept (s : State) (p : SliceNo) (j : RJob) : (State.beginJob s p j).kept = s.kept := by
  unfold State.beginJob
  try dsimp only
  (repeat' split) <;> first | simp only [askLines_kept, deliver_kept, dropJob_kept, putJob_kept, readPacked_kept, onSlice_kept] | rfl

theorem readPlate_kept (s : State) (p : SliceNo) (base : Nat) (o : ObjRec) (k : BitVec 24) (dest : RDest) : (State.readPlate s p base o k dest).kept = s.kept := by
  unfold State.readPlate
  try dsimp only
  (repeat' split) <;> first | simp only [beginJob_kept, darken_kept, deliver_kept, newId_kept, parkFor_kept] | rfl

theorem readHome_kept (s : State) (o : ObjRec) (k : BitVec 24) (dest : RDest) : (State.readHome s o k dest).kept = s.kept := by
  unfold State.readHome
  try dsimp only
  (repeat' split) <;> first | simp only [newId_kept, putJob_kept, readPlate_kept, touchSpan_kept] | rfl

theorem readAway_kept (s : State) (p : SliceNo) (o : ObjRec) (k : BitVec 24) (dest : RDest) : (State.readAway s p o k dest).kept = s.kept := by
  unfold State.readAway
  try dsimp only
  (repeat' split) <;> first | simp only [post_kept, onSlice_kept] | rfl

theorem indexFail_kept (s : State) (p : SliceNo) (j : RJob) : (State.indexFail s p j).kept = s.kept := by
  unfold State.indexFail
  try dsimp only
  (repeat' split) <;> first | simp only [bump_kept, darken_kept, dropJob_kept, emit_kept, parkFor_kept] | rfl

theorem jobDone_kept (s : State) (p : SliceNo) (j : RJob) : (State.jobDone s p j).kept = s.kept := by
  unfold State.jobDone
  try dsimp only
  (repeat' split) <;> first | simp only [bump_kept, deliver_kept, dropJob_kept, healHeader_kept, indexFail_kept, readPacked_kept, onSlice_kept] | rfl

theorem wakeReads_kept (s : State) (p : SliceNo) (oid : BitVec 40) (k : BitVec 24) : (State.wakeReads s p oid k).kept = s.kept := by
  unfold State.wakeReads
  try dsimp only
  (repeat' split) <;> first | (simp only []; done) | ((try simp only [dropJob_kept, readAway_kept, readHome_kept, kept_mk, onIsl_kept, onSlice_kept, onQuad_kept, onGroup_kept, onIslands_kept, foldl_kept, map_kept, mapIdx_kept, map_set_kept, Island_kept_mk, ite_kept, ite_isl_kept, ite_self, implies_true]) <;> refine (foldl_kept _ (fun s b => ?_) _ _).trans ?_ <;> (try dsimp only) <;> (try (repeat' split)) <;> first | (simp only [dropJob_kept, readAway_kept, readHome_kept]; done) | rfl)

theorem askWrite_kept (s : State) (p : SliceNo) (job : Nat) (l : WLine) (data : List Byte) : (State.askWrite s p job l data).kept = s.kept := by
  unfold State.askWrite
  try dsimp only
  (repeat' split) <;> first | simp only [memReq_kept] | rfl

theorem startWrite_kept (s : State) (p : SliceNo) (j : WJob) (lines : List WLine) : (State.startWrite s p j lines).kept = s.kept := by
  unfold State.startWrite
  try dsimp only
  (repeat' split) <;> first | simp only [askWrite_kept, memReq_kept, onSlice_kept, foldl_kept, implies_true] | rfl

theorem mergeOne_kept (s : State) (p : SliceNo) (job addr : Nat) (g : GotLine) : (State.mergeOne s p job addr g).kept = s.kept := by
  unfold State.mergeOne
  try dsimp only
  (repeat' split) <;> first | simp only [askWrite_kept, darken_kept, onSlice_kept, foldl_kept, ite_kept, ite_self, implies_true] | rfl

theorem mergeDone_kept (s : State) (p : SliceNo) (addr : Nat) (g : GotLine) : (State.mergeDone s p addr g).kept = s.kept := by
  unfold State.mergeDone
  try dsimp only
  (repeat' split) <;> first | simp only [mergeOne_kept, foldl_kept, implies_true] | rfl

theorem leaveSlot_kept (s : State) (p : SliceNo) (n : Nat) : (State.leaveSlot s p n).kept = s.kept := by
  unfold State.leaveSlot
  try dsimp only
  (repeat' split) <;> first | simp only [onSlice_kept] | rfl

theorem releaseSlot_kept (s : State) (sl : Option (SliceNo × Fin 64)) : (State.releaseSlot s sl).kept = s.kept := by
  unfold State.releaseSlot
  try dsimp only
  (repeat' split) <;> first | simp only [leaveSlot_kept, onSlice_kept] | rfl

theorem leavePlates_kept (s : State) (m : Commit) : (State.leavePlates s m).kept = s.kept := by
  unfold State.leavePlates
  try dsimp only
  (repeat' split) <;> first | (simp only [leaveSlot_kept, kept_mk, onIsl_kept, onSlice_kept, onQuad_kept, onGroup_kept, onIslands_kept, foldl_kept, map_kept, mapIdx_kept, map_set_kept, Island_kept_mk, ite_kept, ite_isl_kept, ite_self, implies_true]; done) | ((try simp only [leaveSlot_kept, kept_mk, onIsl_kept, onSlice_kept, onQuad_kept, onGroup_kept, onIslands_kept, foldl_kept, map_kept, mapIdx_kept, map_set_kept, Island_kept_mk, ite_kept, ite_isl_kept, ite_self, implies_true]) <;> refine (foldl_kept _ (fun s b => ?_) _ _).trans ?_ <;> (try dsimp only) <;> (try (repeat' split)) <;> first | (simp only [leaveSlot_kept]; done) | rfl)

theorem abandonCommit_kept (s : State) (p : SliceNo) (m : Commit) : (State.abandonCommit s p m).kept = s.kept := by
  unfold State.abandonCommit
  try dsimp only
  (repeat' split) <;> first | simp only [ackTo_kept, bump_kept, failRun_kept, healStored_kept, leavePlates_kept, release_kept, onSlice_kept, foldl_kept, implies_true] | rfl

theorem abandonIfLost_kept (s : State) (c : Nat) : (State.abandonIfLost s c).kept = s.kept := by
  unfold State.abandonIfLost
  try dsimp only
  (repeat' split) <;> first | simp only [abandonCommit_kept] | rfl

theorem copyDoneIfAll_kept (s : State) (oid : BitVec 40) (span : Nat) : (State.copyDoneIfAll s oid span).kept = s.kept := by
  unfold State.copyDoneIfAll
  try dsimp only
  (repeat' split) <;> first | simp only [ackTo_kept, release_kept, kept_mk] | rfl

theorem writeDone_kept (s : State) (p : SliceNo) (j : WJob) : (State.writeDone s p j).kept = s.kept := by
  unfold State.writeDone
  extract_lets s1 s2 u s3 s4 s5 v d e s6 s7
  have h1 : s1.kept = s.kept := rfl
  have h2 : s2.kept = s.kept := by
    dsimp only [s2]
    split <;> first | exact (leaveSlot_kept ..).trans h1 | exact (releaseSlot_kept ..).trans h1
  have h3 : s3.kept = s.kept := by
    dsimp only [s3]
    (repeat' split) <;> first | simp only [kept_mk, abandonIfLost_kept, h2] | exact h2
  have h4 : s4.kept = s.kept := by
    dsimp only [s4]
    (repeat' split) <;> first | simp only [onRun_kept, h3] | exact h3
  have h5 : s5.kept = s.kept := by
    dsimp only [s5]
    (repeat' split) <;> first | simp only [ackTo_kept, h4] | exact h4
  have h6 : s6.kept = s.kept := by
    dsimp only [s6]
    split <;> first | simp only [copyDoneIfAll_kept, kept_mk, h5] | exact h5
  have h7 : s7.kept = s.kept := by
    dsimp only [s7]
    split <;> first | simp only [healStored_kept, h6] | exact h6
  exact (wakeReads_kept ..).trans h7

theorem darkenSpan_kept (s : State) (p : SliceNo) (oid : BitVec 40) (span : Nat) : (State.darkenSpan s p oid span).kept = s.kept := by
  unfold State.darkenSpan
  try dsimp only
  (repeat' split) <;> first | simp only [darken_kept, foldl_kept, implies_true] | rfl

theorem darkenLine_kept (s : State) (p : SliceNo) (id : LineId) (wr : Bool) : (State.darkenLine s p id wr).kept = s.kept := by
  unfold State.darkenLine
  try dsimp only
  (repeat' split) <;> first | simp only [darken_kept, darkenSpan_kept, foldl_kept, ite_kept, ite_self, implies_true] | rfl

theorem lineWritten_kept (s : State) (p : SliceNo) (job : Nat) (id : LineId) (failed : Bool) : (State.lineWritten s p job id failed).kept = s.kept := by
  unfold State.lineWritten
  try dsimp only
  (repeat' split) <;> first | simp only [darkenLine_kept, writeDone_kept, onSlice_kept] | rfl

/-! Commit. -/

theorem registerObject_kept (s : State) (run : Option Nat) : (State.registerObject s run).kept = s.kept := by
  unfold State.registerObject
  try dsimp only
  (repeat' split) <;> first | simp only [failRun_kept, request_kept] | rfl

theorem receiveWrite_kept (s : State) (p : SliceNo) (w : PWrite) : (State.receiveWrite s p w).kept = s.kept := by
  unfold State.receiveWrite
  try dsimp only
  (repeat' split) <;> first | simp only [onSlice_kept] | rfl

theorem passWrite_kept (s : State) (p q : SliceNo) (w : PWrite) : (State.passWrite s p q w).kept = s.kept := by
  unfold State.passWrite
  try dsimp only
  (repeat' split) <;> first | simp only [newId_kept, receiveWrite_kept, sendPlate_kept] | rfl

theorem sendWrite_kept (s : State) (p : SliceNo) (h : HomeAt) (w : PWrite) : (State.sendWrite s p h w).kept = s.kept := by
  unfold State.sendWrite
  try dsimp only
  (repeat' split) <;> first | simp only [request_kept] | rfl

theorem homeWrite_kept (s : State) (p : SliceNo) (w : PWrite) : (State.homeWrite s p w).2.kept = s.kept := by
  unfold State.homeWrite
  try dsimp only
  (repeat' split) <;> first | simp only [failRun_kept, foundHome_kept, lookup_kept, passWrite_kept, releaseSlot_kept, sendWrite_kept] | rfl

theorem putCommit_kept (s : State) (p : SliceNo) (m : Commit) : (State.putCommit s p m).kept = s.kept := by
  unfold State.putCommit
  try dsimp only
  (repeat' split) <;> first | simp only [onSlice_kept] | rfl

theorem writePacked_kept (s : State) (m : Commit) (ps : List Packed) : (State.writePacked s m ps).kept = s.kept := by
  unfold State.writePacked
  try dsimp only
  (repeat' split) <;> first | simp only [newId_kept, startWrite_kept, foldl_kept, ite_kept, ite_self, implies_true] | rfl

theorem flushPlates_kept (s : State) (p : SliceNo) (m : Commit) : (State.flushPlates s p m).kept = s.kept := by
  unfold State.flushPlates
  try dsimp only
  (repeat' split) <;> first | simp only [putCommit_kept, writePacked_kept] | rfl

theorem newCommit_kept (s : State) (p : SliceNo) (w : PWrite) (span : Nat) : (State.newCommit s p w span).2.2.kept = s.kept := by
  unfold State.newCommit
  try dsimp only
  (repeat' split) <;> first | simp only [newId_kept] | rfl

theorem commitAdd_kept (s : State) (p : SliceNo) (m : Commit) (w : PWrite) : (State.commitAdd s p m w).kept = s.kept := by
  unfold State.commitAdd
  try dsimp only
  (repeat' split) <;> first | simp only [flushPlates_kept, newId_kept, onRun_kept, putCommit_kept, startWrite_kept, onSlice_kept] | rfl

theorem storeNothing_kept (s : State) (p : SliceNo) (w : PWrite) : (State.storeNothing s p w).kept = s.kept := by
  unfold State.storeNothing
  try dsimp only
  (repeat' split) <;> first | simp only [ackTo_kept, onRun_kept, wakeReads_kept, kept_mk] | rfl

theorem goWrite_kept (s : State) (p : SliceNo) (i : Nat) (w : PWrite) : (State.goWrite s p i w).kept = s.kept := by
  unfold State.goWrite
  try dsimp only
  (repeat' split) <;> first | simp only [commitAdd_kept, newCommit_kept, newId_kept, onRun_kept, startWrite_kept, storeNothing_kept, onSlice_kept] | rfl

theorem copyReads_kept (s : State) (m : Commit) (ks : List Nat) : (State.copyReads s m ks).kept = s.kept := by
  unfold State.copyReads
  try dsimp only
  (repeat' split) <;> first | simp only [askLines_kept, newId_kept, putJob_kept, foldl_kept, implies_true] | rfl

theorem commitLines_kept (s : State) (p : SliceNo) (m : Commit) (lines : List WLine) : (State.commitLines s p m lines).kept = s.kept := by
  unfold State.commitLines
  try dsimp only
  (repeat' split) <;> first | simp only [newId_kept, putCommit_kept, startWrite_kept] | rfl

theorem poisonRest_kept (s : State) (p : SliceNo) (m : Commit) : (State.poisonRest s p m).kept = s.kept := by
  unfold State.poisonRest
  try dsimp only
  (repeat' split) <;> first | simp only [commitLines_kept, flushPlates_kept] | rfl

theorem advanceCommit_kept (s : State) (p : SliceNo) (m : Commit) : KeepsO s (State.advanceCommit s p m) := by
  unfold State.advanceCommit
  try dsimp only
  (repeat' split) <;> first | trivial | (simp only [KeepsO, bump_kept, commitLines_kept, copyReads_kept, flushPlates_kept, poisonRest_kept, putCommit_kept, onSlice_kept])

theorem advanceAny_kept (s : State) (p : SliceNo) : KeepsO s (State.advanceAny s p) := by
  exact keepsO_findSome _ _ fun m => advanceCommit_kept s p m

theorem swing_kept (s : State) (p : SliceNo) (m : Commit) : (State.swing s p m).kept = s.kept := by
  unfold State.swing
  try dsimp only
  (repeat' split) <;> first | simp only [ackTo_kept, bump_kept, healStored_kept, mirDir_kept, onRun_kept, release_kept, kept_mk, onSlice_kept, foldl_kept, implies_true] | rfl

/-! SpgOps. -/

theorem openStream_kept (s : State) (p : SliceNo) (run : Nat) (o : ObjRec) (items : List (Nat × Use)) (fmt : Option Fmt) (xpose : Bool) : (State.openStream s p run o items fmt xpose).kept = s.kept := by
  unfold State.openStream
  try dsimp only
  (repeat' split) <;> first | simp only [kept_mk, onSlice_kept] | rfl

theorem openPerSlice_kept (s : State) (run : Nat) (src dst : ObjRec) (ps : List PairIdx) (use : PairIdx → Use) (fmt : Option Fmt) : (State.openPerSlice s run src dst ps use fmt).kept = s.kept := by
  unfold State.openPerSlice
  try dsimp only
  (repeat' split) <;> first | simp only [openStream_kept, foldl_kept, implies_true] | rfl

theorem onSlot_kept (s : State) (n : Fin 64) (f : SpgSlot → SpgSlot) : (State.onSlot s n f).kept = s.kept := by
  unfold State.onSlot
  try dsimp only
  (repeat' split) <;> first | simp only [kept_mk] | rfl

theorem onCopies_kept (s : State) (n : Fin 64) (f : SlotCopy → SlotCopy) : (State.onCopies s n f).kept = s.kept := by
  unfold State.onCopies
  try dsimp only
  (repeat' split) <;> first | simp only [kept_mk] | rfl

theorem slotCmdEnd_kept (s : State) (run : Nat) (st : BitVec 8) : (State.slotCmdEnd s run st).kept = s.kept := by
  unfold State.slotCmdEnd
  try dsimp only
  (repeat' split) <;> first | simp only [onRun_kept] | rfl

theorem slotLoading_kept (s : State) (n : Fin 64) (gen : BitVec 8) : (State.slotLoading s n gen).kept = s.kept := by
  unfold State.slotLoading
  try dsimp only
  (repeat' split) <;> first | simp only [onCopies_kept, onSlot_kept, kept_mk] | rfl

theorem sendImage_kept (s : State) (n : Fin 64) (p : SliceNo) : (State.sendImage s n p).kept = s.kept := by
  unfold State.sendImage
  try dsimp only
  (repeat' split) <;> first | simp only [send_kept] | rfl

theorem installImage_kept (s : State) (n : Fin 64) (img : List Byte) : (State.installImage s n img).kept = s.kept := by
  unfold State.installImage
  try dsimp only
  (repeat' split) <;> first | simp only [onSlot_kept, sendImage_kept, foldl_kept, implies_true] | rfl

theorem takeImage_kept (s : State) (p : SliceNo) (n : Fin 64) (gen : BitVec 8) (img : List Byte) (poison : Bool) : (State.takeImage s p n gen img poison).kept = s.kept := by
  unfold State.takeImage
  try dsimp only
  (repeat' split) <;> first | simp only [send_kept, onSlice_kept] | rfl

theorem imageAgain_kept (s : State) (p : SliceNo) (n : Fin 64) (gen : BitVec 8) : (State.imageAgain s p n gen).kept = s.kept := by
  unfold State.imageAgain
  try dsimp only
  (repeat' split) <;> first | simp only [sendImage_kept] | rfl

theorem slotFree_kept (s : State) (n : Fin 64) : (State.slotFree s n).kept = s.kept := by
  unfold State.slotFree
  try dsimp only
  (repeat' split) <;> first | simp only [onCopies_kept, onSlot_kept, kept_mk] | rfl

theorem slotRetiring_kept (s : State) (n : Fin 64) : (State.slotRetiring s n).kept = s.kept := by
  unfold State.slotRetiring
  try dsimp only
  (repeat' split) <;> first | simp only [onCopies_kept, onSlot_kept] | rfl

theorem onBuild_kept (s : State) (run : Nat) (f : Build → Build) : (State.onBuild s run f).kept = s.kept := by
  unfold State.onBuild
  try dsimp only
  (repeat' split) <;> first | simp only [kept_mk] | rfl

theorem dropBuild_kept (s : State) (run : Nat) : (State.dropBuild s run).kept = s.kept := by
  unfold State.dropBuild
  try dsimp only
  (repeat' split) <;> first | simp only [kept_mk] | rfl

theorem histSlot_kept (s : State) (b : Build) : KeepsO s (State.histSlot s b) := by
  unfold State.histSlot
  try dsimp only
  (repeat' split) <;> first | trivial | (simp only [KeepsO, dropBuild_kept, onBuild_kept, onRun_kept, onSlot_kept, slotCmdEnd_kept, slotLoading_kept, kept_mk, onIsl_kept, onSlice_kept, onQuad_kept, onGroup_kept, onIslands_kept, foldl_kept, map_kept, mapIdx_kept, map_set_kept, Island_kept_mk, ite_kept, ite_isl_kept, ite_self, implies_true])

theorem histBegin_kept (s : State) (p : SliceNo) (run : Nat) (ks : List Nat) : (State.histBegin s p run ks).kept = s.kept := by
  unfold State.histBegin
  try dsimp only
  (repeat' split) <;> first | simp only [openStream_kept, onSlice_kept] | rfl

theorem histGo_kept (p : SliceNo) (l : List (Nat × List Nat)) (s : State) : (State.histGo p l s).kept = s.kept := by
  induction l generalizing s with
  | nil => rfl
  | cons e r ih =>
    unfold State.histGo
    dsimp only
    (repeat' split) <;> first | simp only [ih, onSlice_kept, histBegin_kept] | rfl
    all_goals have h := keepsO_some (histSlot_kept ..) ‹_›
    · simp only [h]
    · simp only [h]

theorem histNext_kept (s : State) (p : SliceNo) : (State.histNext s p).kept = s.kept := by
  unfold State.histNext
  try dsimp only
  (repeat' split) <;> first | simp only [histGo_kept, histGo_kept] | rfl

theorem histAll_kept (s : State) : (State.histAll s).kept = s.kept := by
  unfold State.histAll
  try dsimp only
  (repeat' split) <;> first | simp only [histNext_kept, foldl_kept, implies_true] | rfl

theorem takeSlot_kept (s : State) (n : Fin 64) (gen : BitVec 8) (img : Option (List Byte)) : (State.takeSlot s n gen img).kept = s.kept := by
  unfold State.takeSlot
  try dsimp only
  (repeat' split) <;> first | simp only [installImage_kept, onCopies_kept, onSlot_kept, slotLoading_kept] | rfl

theorem spgGo_kept (n : Fin 64) (k : Nat) (s : State) : (State.spgGo n k s).kept = s.kept := by
  induction k generalizing s with
  | zero => rfl
  | succ k ih =>
    unfold State.spgGo
    extract_lets x
    split
    · rfl
    · split
      · rfl
      · extract_lets s1 hold
        have h1 : s1.kept = s.kept := onSlot_kept ..
        have h2 : hold.kept = s.kept := (onSlot_kept ..).trans h1
        (repeat' split) <;> simp only [ih, bump_kept, slotCmdEnd_kept, slotRetiring_kept, takeSlot_kept, dropBuild_kept, histAll_kept, h1, h2]

theorem slotGo_kept (s : State) (n : Fin 64) : (State.slotGo s n).kept = s.kept := by
  unfold State.slotGo
  try dsimp only
  (repeat' split) <;> first | simp only [spgGo_kept] | rfl

theorem slotCommand_kept (s : State) (n : Fin 64) (c : SlotCmd) : (State.slotCommand s n c).kept = s.kept := by
  unfold State.slotCommand
  try dsimp only
  (repeat' split) <;> first | simp only [onSlot_kept, slotCmdEnd_kept, slotGo_kept] | rfl

theorem slotFails_kept (s : State) (n : Fin 64) (st : BitVec 8) : (State.slotFails s n st).kept = s.kept := by
  unfold State.slotFails
  try dsimp only
  (repeat' split) <;> first | simp only [onSlot_kept, slotCmdEnd_kept, slotFree_kept, slotGo_kept] | rfl

theorem tableImage_kept (s : State) (run : Nat) (img : List Byte) (poisoned : Bool) : (State.tableImage s run img poisoned).kept = s.kept := by
  unfold State.tableImage
  try dsimp only
  (repeat' split) <;> first | simp only [onRun_kept, onSlot_kept, slotGo_kept] | rfl

/-! Store. -/

theorem importDrain_kept (s : State) (p : SliceNo) : (State.importDrain s p).kept = s.kept := by
  unfold State.importDrain
  try dsimp only
  (repeat' split) <;> first | simp only [onSlice_kept] | rfl

theorem hostReadStore_kept (s : State) (run : Nat) : (State.hostReadStore s run).kept = s.kept := by
  unfold State.hostReadStore
  try dsimp only
  (repeat' split) <;> first | (simp only []; done) | ((try simp only [onRun_kept, kept_mk, onIsl_kept, onSlice_kept, onQuad_kept, onGroup_kept, onIslands_kept, foldl_kept, map_kept, mapIdx_kept, map_set_kept, Island_kept_mk, ite_kept, ite_isl_kept, ite_self, implies_true]) <;> refine (foldl_kept _ (fun s b => ?_) _ _).trans ?_ <;> (try dsimp only) <;> (try (repeat' split)) <;> first | (simp only [onRun_kept, onSlice_kept]; done) | rfl)

theorem hostReadsGo_kept (s : State) : (State.hostReadsGo s).kept = s.kept := by
  unfold State.hostReadsGo
  try dsimp only
  (repeat' split) <;> first | simp only [hostReadStore_kept, foldl_kept, implies_true] | rfl

theorem execStorePlate_kept (p : SliceNo) (s : State) : Keeps s (execStorePlate p s) := by
  unfold execStorePlate
  try dsimp only
  (repeat' split) <;> (try refine keeps_guarded ?_) <;> (try dsimp only) <;> (try (repeat' split)) <;> first | simp only [keeps_next, bump_kept, homeWrite_kept, hostReadsGo_kept, importDrain_kept, onRun_kept, registerObject_kept, kept_mk, onSlice_kept, foldl_kept, implies_true] | rfl

theorem execFrcEncode_kept (p : SliceNo) (s : State) : Keeps s (execFrcEncode p s) := by
  unfold execFrcEncode
  try dsimp only
  (repeat' split) <;> (try refine keeps_guarded ?_) <;> (try dsimp only) <;> (try (repeat' split)) <;> first | simp only [keeps_next, bump_kept, failRun_kept, healStored_kept, homeWrite_kept, hostReadsGo_kept, importDrain_kept, onRun_kept, queryRecord_kept, registerObject_kept, kept_mk, onSlice_kept] | rfl

theorem frameGranted_kept (s : State) (p : SliceNo) (m : Commit) (t : SliceNo) (base ext : Nat) : (State.frameGranted s p m t base ext).kept = s.kept := by
  unfold State.frameGranted
  try dsimp only
  (repeat' split) <;> first | simp only [flushPlates_kept] | rfl

theorem askEvict_kept (s : State) (oid : BitVec 40) (span : Nat) (tier : Nat) (why : ReqWhy) : KeepsO s (State.askEvict s oid span tier why) := by
  exact keepsO_map _ _ fun m => request_kept s _

theorem askPlace_kept (s : State) (oid : BitVec 40) (span : Nat) (t : SliceNo) : (State.askPlace s oid span t).kept = s.kept := by
  unfold State.askPlace
  try dsimp only
  (repeat' split) <;> first | simp only [request_kept] | rfl

theorem onPlace_kept (s : State) (oid : BitVec 40) (span : Nat) (f : Place → Place) : (State.onPlace s oid span f).kept = s.kept := by
  unfold State.onPlace
  try dsimp only
  (repeat' split) <;> first | simp only [kept_mk] | rfl

theorem dropPlace_kept (s : State) (oid : BitVec 40) (span : Nat) : (State.dropPlace s oid span).kept = s.kept := by
  unfold State.dropPlace
  try dsimp only
  (repeat' split) <;> first | simp only [kept_mk] | rfl

theorem placeFailed_kept (s : State) (p : SliceNo) (oid : BitVec 40) (span : Nat) : (State.placeFailed s p oid span).kept = s.kept := by
  unfold State.placeFailed
  try dsimp only
  (repeat' split) <;> first | (simp only [ackTo_kept, dropPlace_kept, failRun_kept, leavePlates_kept, onSlice_kept, foldl_kept, implies_true]; done) | ((try simp only [ackTo_kept, dropPlace_kept, failRun_kept, leavePlates_kept, onSlice_kept, foldl_kept, implies_true]) <;> refine (foldl_kept _ (fun s b => ?_) _ _).trans ?_ <;> (try dsimp only) <;> (try (repeat' split)) <;> first | (simp only [ackTo_kept, failRun_kept, releaseSlot_kept, wakeReads_kept, onSlice_kept]; done) | rfl)

theorem placeOn_kept (s : State) (p : SliceNo) (q : Place) (t : SliceNo) (base : Nat) : (State.placeOn s p q t base).kept = s.kept := by
  unfold State.placeOn
  try dsimp only
  (repeat' split) <;> first | simp only [askPlace_kept, bump_kept, dropPlace_kept, frameGranted_kept, onPlace_kept] | rfl

theorem newFrameAt_kept (s : State) (o : ObjRec) (p : SliceNo) (span base need : Nat) (asRun : Bool) : (State.newFrameAt s o p span base need asRun).kept = s.kept := by
  unfold State.newFrameAt
  try dsimp only
  (repeat' split) <;> first | simp only [kept_mk] | rfl

theorem frameHere_kept (s : State) (p : SliceNo) (o : ObjRec) (span base need : Nat) : (State.frameHere s p o span base need).kept = s.kept := by
  unfold State.frameHere
  try dsimp only
  (repeat' split) <;> first | simp only [frameGranted_kept, mirDir_kept, newFrameAt_kept] | rfl

theorem startIncoming_kept (s : State) (o : ObjRec) (span : Nat) (p : SliceNo) (base ext : Nat) (src : Requester) : (State.startIncoming s o span p base ext src).kept = s.kept := by
  unfold State.startIncoming
  try dsimp only
  (repeat' split) <;> first | simp only [mirDir_kept, kept_mk] | rfl

theorem refuseMove_kept (s : State) (p : SliceNo) (src : Requester) (oid : BitVec 40) (span : Nat) (st : BitVec 4) : (State.refuseMove s p src oid span st).kept = s.kept := by
  unfold State.refuseMove
  try dsimp only
  (repeat' split) <;> first | simp only [ackTo_kept] | rfl

theorem placeTry_kept (s : State) (p : SliceNo) (q : Place) : (State.placeTry s p q).kept = s.kept := by
  have hs (r : SliceNo × Nat × State) (e : ((if s.eph.dirFree = 0 then none else (s.slicesAfter p).findSome? fun t =>
      ((s.claim t q.need none).1.map fun b => (t, b, (s.claim t q.need none).2))) : Option (SliceNo × Nat × State)) = some r) :
      r.2.2.kept = s.kept := by
    split at e
    · cases e
    · obtain ⟨t, -, h⟩ := List.exists_of_findSome?_eq_some e
      cases hc : (s.claim t q.need none).1 <;> simp only [hc, Option.map_none, Option.map_some, reduceCtorEq, Option.some.injEq] at h
      subst h
      exact claim_kept ..
  have hb (t : State) (e : ((s.victim p).bind fun v => s.askEvict v.1 v.2 2 (.evictReq p v.1 v.2)) = some t) : t.kept = s.kept :=
    keepsO_some (keepsO_bind _ _ fun v => askEvict_kept ..) e
  unfold State.placeTry
  dsimp only
  split
  · split
    · rename_i r e
      split <;> simp only [startIncoming_kept, bump_kept, dropPlace_kept, placeOn_kept, hs r e]
    · simp only [onPlace_kept]
  · have hh : (if (decide (s.eph.dirFree = 0) || s.eph.gone.getLsbD p.val) = true then ((none : Option Nat), s) else s.claim p q.need none).2.kept = s.kept := by
      split
      · rfl
      · exact claim_kept ..
    split
    · split <;> simp only [startIncoming_kept, frameHere_kept, dropPlace_kept, hh]
    · split
      · simp only [onPlace_kept]
      · split
        · rename_i t e
          simp only [bump_kept, onPlace_kept, hb t e]
        · simp only [onPlace_kept]
  · split
    · simp only [refuseMove_kept, dropPlace_kept]
    · split
      · simp only [placeFailed_kept]
      · split
        · rename_i t e
          simp only [onPlace_kept, keepsO_some (askEvict_kept ..) e]
        · simp only [placeFailed_kept]
  · simp only [placeFailed_kept]

theorem startPlace_kept (s : State) (q : Place) : (State.startPlace s q).kept = s.kept := by
  unfold State.startPlace
  try dsimp only
  (repeat' split) <;> first | simp only [kept_mk] | rfl

theorem execFrameClaim_kept (p : SliceNo) (oid : BitVec 40) (span : BitVec 18) (s : State) : Keeps s (execFrameClaim p oid span s) := by
  unfold execFrameClaim
  try dsimp only
  (repeat' split) <;> (try refine keeps_guarded ?_) <;> (try dsimp only) <;> (try (repeat' split)) <;> first | simp only [bump_kept, claim_kept, frameGranted_kept, frameHere_kept, placeTry_kept, putCommit_kept, startPlace_kept] | rfl

theorem placeAnswered_kept (s : State) (p : SliceNo) (oid : BitVec 40) (span : Nat) (ok : Bool) : (State.placeAnswered s p oid span ok).kept = s.kept := by
  unfold State.placeAnswered
  try dsimp only
  (repeat' split) <;> first | simp only [abandonCommit_kept, dropPlace_kept, frameGranted_kept, mirDir_kept, newFrameAt_kept, onPlace_kept, placeFailed_kept, putCommit_kept, release_kept] | rfl

theorem victimAnswered_kept (s : State) (p : SliceNo) (ok : Bool) : (State.victimAnswered s p ok).kept = s.kept := by
  unfold State.victimAnswered
  try dsimp only
  (repeat' split) <;> first | simp only [kept_mk] | rfl

theorem execIndexWrite_kept (p : SliceNo) (oid : BitVec 40) (span : BitVec 18) (s : State) : Keeps s (execIndexWrite p oid span s) := by
  unfold execIndexWrite
  try dsimp only
  (repeat' split) <;> (try refine keeps_guarded ?_) <;> (try dsimp only) <;> (try (repeat' split)) <;> first | simp only [keeps_next, commitLines_kept] | rfl

theorem execSpanSwing_kept (p : SliceNo) (oid : BitVec 40) (span : BitVec 18) (s : State) : Keeps s (execSpanSwing p oid span s) := by
  unfold execSpanSwing
  try dsimp only
  (repeat' split) <;> (try refine keeps_guarded ?_) <;> (try dsimp only) <;> (try (repeat' split)) <;> first | simp only [keeps_next, askPlace_kept, putCommit_kept, swing_kept] | rfl

theorem execFrameFree_kept (p : SliceNo) (oid : BitVec 40) (span : BitVec 18) (s : State) : Keeps s (execFrameFree p oid span s) := by
  unfold execFrameFree
  try dsimp only
  (repeat' split) <;> (try refine keeps_guarded ?_) <;> (try dsimp only) <;> (try (repeat' split)) <;> first | simp only [keeps_next, release_kept, kept_mk] | rfl

theorem execFreeRunOverflowMerge_kept (s : State) : Keeps s (execFreeRunOverflowMerge s) := by
  unfold execFreeRunOverflowMerge
  try dsimp only
  (repeat' split) <;> (try refine keeps_guarded ?_) <;> (try dsimp only) <;> (try (repeat' split)) <;> first | simp only [keeps_next, kept_mk] | rfl

theorem execDeferredSwings_kept (run : Nat) (s : State) : Keeps s (execDeferredSwings run s) := by
  unfold execDeferredSwings
  try dsimp only
  (repeat' split) <;> (try refine keeps_guarded ?_) <;> (try dsimp only) <;> (try (repeat' split)) <;> first | simp only [keeps_next, swing_kept, foldl_kept, implies_true] | rfl

/-! MgrOps. -/

theorem onEph_kept (s : State) (f : EphS → EphS) : (State.onEph s f).kept = s.kept := by
  unfold State.onEph
  try dsimp only
  (repeat' split) <;> first | simp only [kept_mk] | rfl

theorem jobEnd_kept (s : State) (j : CmdxJob) : (State.jobEnd s j).kept = s.kept := by
  unfold State.jobEnd
  try dsimp only
  (repeat' split) <;> first | simp only [ackTo_kept, onEph_kept] | rfl

theorem moveEnds_kept (s : State) (m : SpanMove) (st : BitVec 4) (plates : Nat) : (State.moveEnds s m st plates).kept = s.kept := by
  unfold State.moveEnds
  try dsimp only
  (repeat' split) <;> first | simp only [ackTo_kept, jobEnd_kept, onEph_kept] | rfl

theorem commitAcks_kept (s : State) (oid : BitVec 40) (span : BitVec 18) (src : Option Requester) (toHome : HomeAt) (abort : Bool) : (State.commitAcks s oid span src toHome abort).kept = s.kept := by
  unfold State.commitAcks
  try dsimp only
  (repeat' split) <;> first | simp only [ackTo_kept] | rfl

theorem mirrored_kept (s : State) (moves : List (BitVec 32)) (answers : List Requester) (oid : BitVec 40) (idx : BitVec 24) : (State.mirrored s moves answers oid idx).kept = s.kept := by
  unfold State.mirrored
  try dsimp only
  (repeat' split) <;> first | (simp only [ackTo_kept, foldl_kept, implies_true]; done) | ((try simp only [ackTo_kept, foldl_kept, implies_true]) <;> refine (foldl_kept _ (fun s b => ?_) _ _).trans ?_ <;> (try dsimp only) <;> (try (repeat' split)) <;> first | (simp only [bump_kept, commitAcks_kept, freeNat_kept, moveEnds_kept]; done) | rfl)

theorem mirrorOut_kept (s : State) (entries : List (List W64)) (moves : List (BitVec 32)) (answers : List Requester) (oid : BitVec 40) (idx : BitVec 24) : (State.mirrorOut s entries moves answers oid idx).kept = s.kept := by
  unfold State.mirrorOut
  try dsimp only
  (repeat' split) <;> first | simp only [mirrored_kept, onEph_kept, request_kept] | rfl

theorem setMapHome_kept (s : State) (oid : BitVec 40) (span : Nat) (h : HomeAt) : (State.setMapHome s oid span h).kept = s.kept := by
  unfold State.setMapHome
  try dsimp only
  (repeat' split) <;> first | simp only [onEph_kept] | rfl

/-! HomeSteps. -/

theorem wantIndex_kept (s : State) (p : SliceNo) : KeepsO s (State.wantIndex s p) := by
  refine keepsO_bind _ _ fun w => ?_
  dsimp only
  split
  · simp only [KeepsO, beginJob_kept, newId_kept]
  · trivial

theorem refuseKeyless_kept (s : State) (p : SliceNo) : KeepsO s (State.refuseKeyless s p) := by
  refine keepsO_map _ _ fun e => ?_
  dsimp only
  (repeat' split) <;> simp only [ackTo_kept, failRun_kept, healStored_kept, releaseSlot_kept, wakeReads_kept, onSlice_kept]

theorem passOn_kept (s : State) (p : SliceNo) : KeepsO s (State.passOn s p) := by
  refine keepsO_bind _ _ fun w => ?_
  dsimp only
  (repeat' split) <;> first | trivial | simp only [KeepsO, ackTo_kept, failRun_kept, foundHome_kept, lookup_kept, releaseSlot_kept, sendWrite_kept, wakeReads_kept, onSlice_kept]

theorem sumNext_kept (s : State) (p : SliceNo) : KeepsO s (State.sumNext s p) := by
  unfold State.sumNext
  dsimp only
  split
  · refine keepsO_map _ _ fun _ => ?_
    simp only [bump_kept, receiveWrite_kept, onSlice_kept]
  · refine keepsO_map _ _ fun _ => ?_
    split <;> simp only [ackTo_kept, readHome_kept, onSlice_kept]

theorem onSrc_kept (s : State) (no : BitVec 32) (f : MvSrc → MvSrc) : (State.onSrc s no f).kept = s.kept := by
  unfold State.onSrc
  try dsimp only
  (repeat' split) <;> first | simp only [kept_mk] | rfl

theorem sendCommit_kept (s : State) (m : MvSrc) (toHome : HomeWord) (abort : Option (BitVec 4)) : (State.sendCommit s m toHome abort).kept = s.kept := by
  unfold State.sendCommit
  try dsimp only
  (repeat' split) <;> first | simp only [onSrc_kept, request_kept] | rfl

theorem movePart_kept (s : State) (p : SliceNo) (base : Nat) (o : ObjRec) (m : MvSrc) (part : Segment × Nat) : (State.movePart s p base o m part).kept = s.kept := by
  unfold State.movePart
  try dsimp only
  (repeat' split) <;> first | simp only [askLines_kept, beginJob_kept, moveFails_kept, newId_kept, onSrc_kept, putJob_kept] | rfl

theorem moveNext_kept (s : State) (p : SliceNo) : KeepsO s (State.moveNext s p) := by
  refine keepsO_findSome _ _ fun m => ?_
  dsimp only
  (repeat' split) <;> first | trivial | simp only [KeepsO, beginJob_kept, movePart_kept, newId_kept, onSrc_kept, request_kept, sendCommit_kept]

theorem execPlateWrite_kept (p : SliceNo) (s : State) : Keeps s (execPlateWrite p s) := by
  unfold execPlateWrite
  dsimp only
  refine keeps_guarded ?_
  (repeat' split) <;> first | exact keepsO_some (advanceAny_kept ..) ‹_› | exact keepsO_some (wantIndex_kept ..) ‹_› | exact keepsO_some (refuseKeyless_kept ..) ‹_› |
    exact keepsO_some (passOn_kept ..) ‹_› | exact keepsO_some (sumNext_kept ..) ‹_› | simp only [goWrite_kept] | skip
  have h := moveNext_kept s p
  cases e : s.moveNext p with
  | none => rfl
  | some t => exact keepsO_some h e

/-! Mv. -/

theorem execMvStart_kept (src : Requester) (oid : BitVec 40) (span : BitVec 18) (newHome : HomeWord) (moveNo : BitVec 32) (s : State) : Keeps s (execMvStart src oid span newHome moveNo s) := by
  unfold execMvStart
  try dsimp only
  (repeat' split) <;> (try refine keeps_guarded ?_) <;> (try dsimp only) <;> (try (repeat' split)) <;> first | simp only [ackTo_kept, mirDir_kept, onEph_kept] | rfl

theorem onDst_kept (s : State) (oid : BitVec 40) (span : Nat) (f : MvDst → MvDst) : (State.onDst s oid span f).kept = s.kept := by
  unfold State.onDst
  try dsimp only
  (repeat' split) <;> first | simp only [onEph_kept] | rfl

theorem takePart_kept (s : State) (d : MvDst) (src : Requester) (plate : BitVec 24) (segment line : Nat) (data : PlateWords) : (State.takePart s d src plate segment line data).kept = s.kept := by
  unfold State.takePart
  try dsimp only
  (repeat' split) <;> first | simp only [copyDoneIfAll_kept, newId_kept, onDst_kept, startWrite_kept] | rfl

theorem execMvData_kept (p : SliceNo) (src : Requester) (oid : BitVec 40) (plate : BitVec 24) (segment : BitVec 4) (line : BitVec 16) (data : PlateWords) (s : State) : Keeps s (execMvData p src oid plate segment line data s) := by
  unfold execMvData
  try dsimp only
  (repeat' split) <;> (try refine keeps_guarded ?_) <;> (try dsimp only) <;> (try (repeat' split)) <;> first | simp only [claim_kept, lookup_kept, onEph_kept, refuseMove_kept, startIncoming_kept, startPlace_kept, takePart_kept] | rfl

theorem dropMoveReqs_kept (s : State) (oid : BitVec 40) (span : Nat) : (State.dropMoveReqs s oid span).kept = s.kept := by
  unfold State.dropMoveReqs
  try dsimp only
  (repeat' split) <;> first | simp only [kept_mk] | rfl

theorem execCopyDone_kept (src : Requester) (oid : BitVec 40) (span : BitVec 18) (status : BitVec 4) (newHome : HomeWord) (s : State) : Keeps s (execCopyDone src oid span status newHome s) := by
  unfold execCopyDone
  try dsimp only
  (repeat' split) <;> (try refine keeps_guarded ?_) <;> (try dsimp only) <;> (try (repeat' split)) <;> first | simp only [dropMoveReqs_kept, lateAnswer_kept, sendCommit_kept] | rfl

theorem reencode_kept (s : State) (oid : BitVec 40) (span : Nat) : (State.reencode s oid span).kept = s.kept := by
  refine foldl_kept _ (fun s q => ?_) _ _
  split <;> rfl

theorem moveLeft_kept (s : State) (m : MvSrc) (toHome : HomeWord) : (State.moveLeft s m toHome).kept = s.kept := by
  unfold State.moveLeft
  try dsimp only
  (repeat' split) <;> first | simp only [dropMoveReqs_kept, mirDir_kept, onEph_kept, reencode_kept, kept_mk] | rfl

theorem moveCame_kept (s : State) (d : MvDst) (toHome : HomeWord) : (State.moveCame s d toHome).kept = s.kept := by
  unfold State.moveCame
  try dsimp only
  (repeat' split) <;> first | simp only [mirDir_kept, onEph_kept, release_kept, onSlice_kept] | rfl

theorem execCommitAck_kept (oid : BitVec 40) (span : BitVec 18) (newHome : HomeWord) (s : State) : Keeps s (execCommitAck oid span newHome s) := by
  unfold execCommitAck
  try dsimp only
  (repeat' split) <;> (try refine keeps_guarded ?_) <;> (try dsimp only) <;> (try (repeat' split)) <;> first | simp only [dropReq_kept, lateAnswer_kept, moveCame_kept, moveLeft_kept, onEph_kept, placeAnswered_kept] | rfl

/-! Mgr. -/

theorem mgrAnswer_kept (s : State) (r : Requester) (pt : Nat) (st : BitVec 4) (oid : BitVec 40) (idx : Nat) (words : List W64) : (State.mgrAnswer s r pt st oid idx words).kept = s.kept := by
  unfold State.mgrAnswer
  try dsimp only
  (repeat' split) <;> first | simp only [post_kept] | rfl

theorem execLookup_kept (src : Requester) (oid : BitVec 40) (span : BitVec 18) (s : State) : Keeps s (execLookup src oid span s) := by
  unfold execLookup
  try dsimp only
  (repeat' split) <;> (try refine keeps_guarded ?_) <;> (try dsimp only) <;> (try (repeat' split)) <;> first | simp only [mgrAnswer_kept] | rfl

theorem execObjReq_kept (src : Requester) (oid : BitVec 40) (s : State) : Keeps s (execObjReq src oid s) := by
  unfold execObjReq
  try dsimp only
  (repeat' split) <;> (try refine keeps_guarded ?_) <;> (try dsimp only) <;> (try (repeat' split)) <;> first | simp only [mgrAnswer_kept] | rfl

theorem execRegister_kept (src : Requester) (record : RecWords) (s : State) : Keeps s (execRegister src record s) := by
  unfold execRegister
  try dsimp only
  (repeat' split) <;> (try refine keeps_guarded ?_) <;> (try dsimp only) <;> (try (repeat' split)) <;> first | simp only [ackTo_kept, mirrorOut_kept, onEph_kept] | rfl

theorem jobRequest_kept (s : State) (pt : Nat) (oid : BitVec 40) (span : Nat) (h : BitVec 12) (arg : BitVec 32) (why : ReqWhy) : (State.jobRequest s pt oid span h arg why).kept = s.kept := by
  unfold State.jobRequest
  try dsimp only
  (repeat' split) <;> first | simp only [request_kept] | rfl

theorem queueMoves_kept (s : State) (l : List SpanMove) : (State.queueMoves s l).kept = s.kept := by
  unfold State.queueMoves
  try dsimp only
  (repeat' split) <;> first | simp only [onEph_kept] | rfl

theorem startJob_kept (s : State) (j : CmdxJob) : (State.startJob s j).kept = s.kept := by
  unfold State.startJob
  try dsimp only
  (repeat' split) <;> first | simp only [jobEnd_kept, onEph_kept] | rfl

theorem pinSpans_kept (s : State) (src : Requester) (j : CmdxJob) (spans : List Nat) (pin : Bool) : (State.pinSpans s src j spans pin).kept = s.kept := by
  unfold State.pinSpans
  dsimp only
  simp only [startJob_kept]
  refine (foldl_kept _ (fun s b => mirrorOut_kept ..) _ _).trans ((foldl_fst_kept _ (fun a b => ?_) _ _).trans rfl)
  split
  · rfl
  · split <;> simp only [jobRequest_kept, onEph_kept]

theorem discardSpans_kept (s : State) (j : CmdxJob) (spans : List Nat) (all : Bool) : (State.discardSpans s j spans all).kept = s.kept := by
  unfold State.discardSpans
  try dsimp only
  (repeat' split) <;> first | simp only [jobRequest_kept, startJob_kept, foldl_kept, implies_true] | rfl

theorem execCmdx_kept (src : Requester) (opcode : BitVec 8) (words : List W64) (s : State) : Keeps s (execCmdx src opcode words s) := by
  unfold execCmdx
  try dsimp only
  (repeat' split) <;> (try refine keeps_guarded ?_) <;> (try dsimp only) <;> (try (repeat' split)) <;> first | simp only [ackTo_kept, discardSpans_kept, newId_kept, pinSpans_kept, queueMoves_kept, startJob_kept] | rfl

theorem execSpanMoveStart_kept (index : Nat) (s : State) : Keeps s (execSpanMoveStart index s) := by
  unfold execSpanMoveStart
  try dsimp only
  (repeat' split) <;> (try refine keeps_guarded ?_) <;> (try dsimp only) <;> (try (repeat' split)) <;> first | simp only [keeps_next, moveEnds_kept, onEph_kept, request_kept] | rfl

theorem abortMove_kept (s : State) (m : SpanMove) (src : Option Requester) (st : BitVec 4) : (State.abortMove s m src st).kept = s.kept := by
  unfold State.abortMove
  try dsimp only
  (repeat' split) <;> first | simp only [bump_kept, commitAcks_kept, moveEnds_kept] | rfl

theorem execCommit_kept (src : Requester) (oid : BitVec 40) (span : BitVec 18) (newHome : HomeWord) (abort : Bool) (why : BitVec 4) (s : State) : Keeps s (execCommit src oid span newHome abort why s) := by
  unfold execCommit
  try dsimp only
  (repeat' split) <;> (try refine keeps_guarded ?_) <;> (try dsimp only) <;> (try (repeat' split)) <;> first | simp only [abortMove_kept, ackTo_kept, commitAcks_kept, mirrorOut_kept, onEph_kept, setMapHome_kept] | rfl

theorem execMirror_kept (src : Requester) (entries : List (List W64)) (s : State) : Keeps s (execMirror src entries s) := by
  unfold execMirror
  try dsimp only
  (repeat' split) <;> (try refine keeps_guarded ?_) <;> (try dsimp only) <;> (try (repeat' split)) <;> first | simp only [ackTo_kept, endStep7_kept, onEph_kept] | rfl

theorem execFree_kept (src : Requester) (oid : BitVec 40) (span : BitVec 18) (s : State) : Keeps s (execFree src oid span s) := by
  unfold execFree
  try dsimp only
  (repeat' split) <;> (try refine keeps_guarded ?_) <;> (try dsimp only) <;> (try (repeat' split)) <;> first | simp only [ackTo_kept, mirDir_kept, onEph_kept, kept_mk] | rfl

theorem execPinSet_kept (src : Requester) (oid : BitVec 40) (span : BitVec 18) (pinned : Bool) (s : State) : Keeps s (execPinSet src oid span pinned s) := by
  unfold execPinSet
  try dsimp only
  (repeat' split) <;> (try refine keeps_guarded ?_) <;> (try dsimp only) <;> (try (repeat' split)) <;> first | simp only [ackTo_kept, mirDir_kept, onEph_kept] | rfl

theorem execEvictReq_kept (src : Requester) (oid : BitVec 40) (span : BitVec 18) (tier : BitVec 2) (s : State) : Keeps s (execEvictReq src oid span tier s) := by
  unfold execEvictReq
  try dsimp only
  (repeat' split) <;> (try refine keeps_guarded ?_) <;> (try dsimp only) <;> (try (repeat' split)) <;> first | simp only [ackTo_kept, queueMoves_kept] | rfl

theorem execJoin_kept (src : Requester) (role : BitVec 4) (icount : BitVec 8) (islice : List Byte) (freeExtents : BitVec 64) (s : State) : Keeps s (execJoin src role icount islice freeExtents s) := by
  unfold execJoin
  try dsimp only
  (repeat' split) <;> (try refine keeps_guarded ?_) <;> (try dsimp only) <;> (try (repeat' split)) <;> first | simp only [ackTo_kept, onEph_kept] | rfl

theorem execOcc_kept (src : Requester) (freeExtents : List (BitVec 64)) (freeEntries : BitVec 64) (s : State) : Keeps s (execOcc src freeExtents freeEntries s) := by
  unfold execOcc
  try dsimp only
  (repeat' split) <;> (try refine keeps_guarded ?_) <;> (try dsimp only) <;> (try (repeat' split)) <;> first | simp only [onEph_kept] | rfl

theorem execOccSend_kept (s : State) : Keeps s (execOccSend s) := by
  unfold execOccSend
  try dsimp only
  (repeat' split) <;> (try refine keeps_guarded ?_) <;> (try dsimp only) <;> (try (repeat' split)) <;> first | simp only [onEph_kept, post_kept] | rfl

/-! LogInj. -/

theorem execReportSend_kept (k : IslandNo) (poisoned : Bool) (s : State) : Keeps s (execReportSend k poisoned s) := by
  unfold execReportSend
  try dsimp only
  (repeat' split) <;> (try refine keeps_guarded ?_) <;> (try dsimp only) <;> (try (repeat' split)) <;> first | simp only [keeps_next, onIsl_kept, Island_kept_mk, implies_true] | rfl

theorem appendRecord_kept (s : State) (r : Report) : (State.appendRecord s r).kept = s.kept := by
  unfold State.appendRecord
  try dsimp only
  (repeat' split) <;> first | simp only [bump_kept, kept_mk, onQuad_kept] | rfl

theorem flushStaged_kept (s : State) : (State.flushStaged s).kept = s.kept := by
  unfold State.flushStaged
  try dsimp only
  (repeat' split) <;> first | simp only [appendRecord_kept, kept_mk] | rfl

theorem takeFatal_kept (s : State) (r : Report) : (State.takeFatal s r).kept = s.kept := by
  unfold State.takeFatal
  try dsimp only
  (repeat' split) <;> first | simp only [appendRecord_kept, kept_mk] | rfl

theorem noteTaken_kept (s : State) (r : Report) : (State.noteTaken s r).kept = s.kept := by
  unfold State.noteTaken
  try dsimp only
  (repeat' split) <;> first | simp only [bump_kept, kept_mk] | rfl

theorem execLogReportTake_kept (s : State) : Keeps s (execLogReportTake s) := by
  unfold execLogReportTake
  try dsimp only
  (repeat' split) <;> (try refine keeps_guarded ?_) <;> (try dsimp only) <;> (try (repeat' split)) <;> first | simp only [keeps_next, bump_kept, flushStaged_kept, noteTaken_kept, takeFatal_kept, kept_mk] | rfl

theorem execStagedAppend_kept (s : State) : Keeps s (execStagedAppend s) := by
  unfold execStagedAppend
  try dsimp only
  (repeat' split) <;> (try refine keeps_guarded ?_) <;> (try dsimp only) <;> (try (repeat' split)) <;> first | simp only [keeps_next, flushStaged_kept] | rfl

theorem crossed_kept {s : State} (via : Crossing) {r : BitVec 2 × State} (h : r.2.kept = s.kept) : (s.crossed via r).2.kept = s.kept := by
  cases via
  · exact h
  · rfl
  · exact h

theorem wordCheck_kept (s : State) (q : Nat) (o : ParityObs) : (State.wordCheck s q o).2.kept = s.kept := by
  unfold State.wordCheck
  try dsimp only
  (repeat' split) <;> first | simp only [poolCheck_kept, wedge_kept] | rfl

theorem readQueueWord_kept (s : State) (tag : BitVec 4) (k : IslandNo) (q : Nat) (o : ParityObs) : (State.readQueueWord s tag k q o).kept = s.kept := by
  unfold State.readQueueWord
  try dsimp only
  (repeat' split) <;> first | simp only [answer_kept, wordCheck_kept, onQuad_kept] | rfl

theorem execLogRead_kept (tag : BitVec 4) (parity : ParityObs) (s : State) : Keeps s (execLogRead tag parity s) := by
  unfold execLogRead
  try dsimp only
  (repeat' split) <;> (try refine keeps_guarded ?_) <;> (try dsimp only) <;> (try (repeat' split)) <;> first | simp only [readQueueWord_kept] | rfl

theorem execLogCodeSeenClear_kept (s : State) : Keeps s (execLogCodeSeenClear s) := by
  unfold execLogCodeSeenClear
  try dsimp only
  (repeat' split) <;> (try refine keeps_guarded ?_) <;> (try dsimp only) <;> (try (repeat' split)) <;> first | simp only [kept_mk] | rfl

theorem execAttnCauseClear_kept (mask : BitVec 16) (s : State) : Keeps s (execAttnCauseClear mask s) := by
  unfold execAttnCauseClear
  try dsimp only
  (repeat' split) <;> (try refine keeps_guarded ?_) <;> (try dsimp only) <;> (try (repeat' split)) <;> first | simp only [kept_mk] | rfl

theorem arm_kept (s : State) (count : BitVec 16) (spacing : BitVec 32) : (State.arm s count spacing).2.kept = s.kept := by
  unfold State.arm
  try dsimp only
  (repeat' split) <;> first | simp only [emit_kept, kept_mk, onIsl_kept, Island_kept_mk, implies_true] | rfl

theorem execInjArm_kept (tag : BitVec 4) (count : BitVec 16) (spacing : BitVec 32) (via : Crossing) (s : State) : Keeps s (execInjArm tag count spacing via s) := by
  unfold execInjArm
  refine keeps_guarded ?_
  split
  · simp only [answer_kept]
  · simp only [answer_kept]
    exact crossed_kept _ (arm_kept ..)

theorem cancelArm_kept (s : State) : (State.cancelArm s).kept = s.kept := by
  unfold State.cancelArm
  try dsimp only
  (repeat' split) <;> first | simp only [kept_mk, onIsl_kept, Island_kept_mk, implies_true] | rfl

theorem execInjCancel_kept (s : State) : Keeps s (execInjCancel s) := by
  unfold execInjCancel
  try dsimp only
  (repeat' split) <;> (try refine keeps_guarded ?_) <;> (try dsimp only) <;> (try (repeat' split)) <;> first | simp only [cancelArm_kept] | rfl

theorem Island_snap_kept (i : Island) (freeze : Bool) : (Island.snap i freeze).kept = i.kept := by
  unfold Island.snap
  try dsimp only
  (repeat' split) <;> first | simp only [Island.latch_kept, Island_kept_mk] | rfl

theorem execIslandSnap_kept (k : IslandNo) (freeze : Bool) (s : State) : Keeps s (execIslandSnap k freeze s) := by
  unfold execIslandSnap
  try dsimp only
  (repeat' split) <;> (try refine keeps_guarded ?_) <;> (try dsimp only) <;> (try (repeat' split)) <;> first | simp only [Island_snap_kept, onIsl_kept, implies_true] | rfl

theorem snapAll_kept (s : State) (freeze : Bool) : (State.snapAll s freeze).kept = s.kept := by
  unfold State.snapAll
  try dsimp only
  (repeat' split) <;> first | simp only [Island_snap_kept, onIslands_kept, ite_isl_kept, ite_self, implies_true] | rfl

theorem execPrauxSnap_kept (freeze : Bool) (s : State) : Keeps s (execPrauxSnap freeze s) := by
  unfold execPrauxSnap
  try dsimp only
  (repeat' split) <;> (try refine keeps_guarded ?_) <;> (try dsimp only) <;> (try (repeat' split)) <;> first | simp only [snapAll_kept] | rfl

/-! CmdQ. -/

theorem onCq_kept (s : State) (q : Fin 64) (f : CmdQ → CmdQ) : (State.onCq s q f).kept = s.kept := by
  unfold State.onCq
  try dsimp only
  (repeat' split) <;> first | simp only [kept_mk] | rfl

theorem postRecord_kept (s : State) (q : Fin 64) (ws : List W64) : (State.postRecord s q ws).kept = s.kept := by
  unfold State.postRecord
  try dsimp only
  (repeat' split) <;> first | simp only [kept_mk, onQuad_kept] | rfl

theorem bareRecord_kept (s : State) (q : Fin 64) (seq : BitVec 16) (phase : Bool) (epoch : BitVec 8) (opcode : Nat) (st : BitVec 8) (hcqLost : Bool) : (State.bareRecord s q seq phase epoch opcode st hcqLost).kept = s.kept := by
  unfold State.bareRecord
  try dsimp only
  (repeat' split) <;> first | simp only [bump_kept, postRecord_kept] | rfl

theorem abortAccepted_kept (s : State) (q : Fin 64) : (State.abortAccepted s q).kept = s.kept := by
  unfold State.abortAccepted
  try dsimp only
  (repeat' split) <;> first | simp only [bareRecord_kept, bump_kept, onCq_kept, foldl_kept, implies_true] | rfl

theorem hostAccess_kept (s : State) (a : NwAcc) : (State.hostAccess s a).kept = s.kept := by
  unfold State.hostAccess
  try dsimp only
  (repeat' split) <;> first | simp only [kept_mk] | rfl

theorem ringOne_kept (s : State) (data : W64) : (State.ringOne s data).kept = s.kept := by
  unfold State.ringOne
  try dsimp only
  (repeat' split) <;> first | simp only [bump_kept, onCq_kept, foldl_kept, implies_true] | rfl

theorem ringAll_kept (s : State) : (State.ringAll s).kept = s.kept := by
  unfold State.ringAll
  try dsimp only
  (repeat' split) <;> first | simp only [ringOne_kept, kept_mk, foldl_kept, implies_true] | rfl

theorem execDoorbell_kept (bell : Bell) (s : State) : Keeps s (execDoorbell bell s) := by
  unfold execDoorbell
  try dsimp only
  (repeat' split) <;> (try refine keeps_guarded ?_) <;> (try dsimp only) <;> (try (repeat' split)) <;> first | simp only [bump_kept, ringAll_kept, kept_mk] | rfl

theorem staleHalt_kept (s : State) (q : Fin 64) : (State.staleHalt s q).kept = s.kept := by
  unfold State.staleHalt
  try dsimp only
  (repeat' split) <;> first | simp only [bareRecord_kept, bump_kept, hostAccess_kept, onCq_kept] | rfl

theorem takeEntry_kept (s : State) (q : Fin 64) (ws : List W64) : (State.takeEntry s q ws).kept = s.kept := by
  unfold State.takeEntry
  try dsimp only
  (repeat' split) <;> first | simp only [bump_kept, onCq_kept, staleHalt_kept] | rfl

theorem takeEntries_kept (q : Fin 64) (l : List (List W64)) (s : State) : (State.takeEntries s q l).kept = s.kept := by
  induction l generalizing s with
  | nil => rfl
  | cons e r ih =>
    unfold State.takeEntries
    dsimp only
    split <;> simp only [ih, takeEntry_kept]

theorem fetchHost_kept (s : State) (q : Fin 64) (n : Nat) (again : Bool) : (State.fetchHost s q n again).kept = s.kept := by
  unfold State.fetchHost
  try dsimp only
  (repeat' split) <;> first | simp only [hostAccess_kept, onCq_kept, kept_mk] | rfl

theorem execEntryFetch_kept (q : Fin 64) (s : State) : Keeps s (execEntryFetch q s) := by
  unfold execEntryFetch
  try dsimp only
  (repeat' split) <;> (try refine keeps_guarded ?_) <;> (try dsimp only) <;> (try (repeat' split)) <;> first | simp only [fetchHost_kept, takeEntry_kept] | rfl

theorem execStaleRefetch_kept (q : Fin 64) (s : State) : Keeps s (execStaleRefetch q s) := by
  unfold execStaleRefetch
  try dsimp only
  (repeat' split) <;> (try refine keeps_guarded ?_) <;> (try dsimp only) <;> (try (repeat' split)) <;> first | simp only [keeps_next, bump_kept, fetchHost_kept, onCq_kept, takeEntry_kept] | rfl

theorem writeQueueCfg_kept (s : State) (q : Fin 64) (w : W64) : KeepsO s (State.writeQueueCfg s q w) := by
  unfold State.writeQueueCfg
  try dsimp only
  (repeat' split) <;> first | trivial | (simp only [KeepsO, abortAccepted_kept, onCq_kept])

theorem writeQueueReg_kept (s : State) (q : Fin 64) (r : Nat) (w : W64) : KeepsO s (State.writeQueueReg s q r w) := by
  unfold State.writeQueueReg
  dsimp only
  (repeat' split) <;> first | exact writeQueueCfg_kept s q w | trivial | (simp only [KeepsO, onCq_kept, writeQueueCfg_kept, kept_mk, onIsl_kept, onSlice_kept, onQuad_kept, onGroup_kept, onIslands_kept, foldl_kept, map_kept, mapIdx_kept, map_set_kept, Island_kept_mk, ite_kept, ite_isl_kept, ite_self, implies_true])

theorem execQueueConfigWrite_kept (tag : BitVec 4) (addr : BitVec 21) (data : W64) (via : Crossing) (s : State) : Keeps s (execQueueConfigWrite tag addr data via s) := by
  unfold execQueueConfigWrite
  split
  · rfl
  · refine keeps_guarded ?_
    split
    · simp only [answer_kept]
    · refine (answer_kept ..).trans (crossed_kept _ ?_)
      split
      · exact keepsO_some (writeQueueReg_kept ..) ‹_›
      · rfl

theorem queueReset_kept (s : State) (q : Fin 64) (newHead : BitVec 17) (halt resume : Bool) : (State.queueReset s q newHead halt resume).kept = s.kept := by
  unfold State.queueReset
  try dsimp only
  (repeat' split) <;> first | simp only [abortAccepted_kept, onCq_kept] | rfl

theorem execQueueReset_kept (q : Fin 64) (newHead : BitVec 17) (halt resume : Bool) (s : State) : Keeps s (execQueueReset q newHead halt resume s) := by
  unfold execQueueReset
  try dsimp only
  (repeat' split) <;> (try refine keeps_guarded ?_) <;> (try dsimp only) <;> (try (repeat' split)) <;> first | simp only [queueReset_kept] | rfl

theorem execQueueHalt_kept (q : Fin 64) (resume : Bool) (s : State) : Keeps s (execQueueHalt q resume s) := by
  unfold execQueueHalt
  try dsimp only
  (repeat' split) <;> (try refine keeps_guarded ?_) <;> (try dsimp only) <;> (try (repeat' split)) <;> first | simp only [onCq_kept] | rfl

theorem execQueueResume_kept (q : Fin 64) (s : State) : Keeps s (execQueueResume q s) := by
  unfold execQueueResume
  try dsimp only
  (repeat' split) <;> (try refine keeps_guarded ?_) <;> (try dsimp only) <;> (try (repeat' split)) <;> first | simp only [onCq_kept] | rfl

theorem execCqRead_kept (tag : BitVec 4) (cq : Fin 16) (parity : ParityObs) (s : State) : Keeps s (execCqRead tag cq parity s) := by
  unfold execCqRead
  try dsimp only
  (repeat' split) <;> (try refine keeps_guarded ?_) <;> (try dsimp only) <;> (try (repeat' split)) <;> first | simp only [readQueueWord_kept] | rfl

theorem execCqRecordHeldWrite_kept (cq : Fin 16) (s : State) : Keeps s (execCqRecordHeldWrite cq s) := by
  unfold execCqRecordHeldWrite
  try dsimp only
  (repeat' split) <;> (try refine keeps_guarded ?_) <;> (try dsimp only) <;> (try (repeat' split)) <;> first | simp only [keeps_next, kept_mk, onQuad_kept] | rfl

theorem execWaitRelease_kept (q : Fin 64) (s : State) : Keeps s (execWaitRelease q s) := by
  unfold execWaitRelease
  try dsimp only
  (repeat' split) <;> (try refine keeps_guarded ?_) <;> (try dsimp only) <;> (try (repeat' split)) <;> first | simp only [keeps_next, onCq_kept, onRun_kept] | rfl

/-! EyeOps. -/

theorem askPlate_kept (s : State) (p : SliceNo) (w : Want) : (State.askPlate s p w).2.kept = s.kept := by
  unfold State.askPlate
  try dsimp only
  (repeat' split) <;> first | simp only [failRun_kept, foundHome_kept, healStored_kept, lookup_kept, readHome_kept, request_kept] | rfl

theorem streamAsk_kept (p : SliceNo) (id k : Nat) (s : State) : (State.streamAsk p id k s).kept = s.kept := by
  induction k generalizing s with
  | zero => rfl
  | succ k ih =>
    unfold State.streamAsk
    dsimp only
    (repeat' split) <;> first | simp only [ih, askPlate_kept, onSlice_kept, kept_mk] | rfl

theorem eyeAsk_kept (s : State) (p : SliceNo) : (State.eyeAsk s p).kept = s.kept := by
  unfold State.eyeAsk
  try dsimp only
  (repeat' split) <;> first | simp only [streamAsk_kept, streamAsk_kept, foldl_kept, implies_true] | rfl

theorem storeItem_kept (s : State) (p : SliceNo) (e : StoreIn) : (State.storeItem s p e).kept = s.kept := by
  unfold State.storeItem
  try dsimp only
  (repeat' split) <;> first | simp only [onSlice_kept] | rfl

theorem hostWriteBytes_kept (s : State) (r : CmdRun) (win : BitVec 4) (addr : Nat) (b : List Byte) : (State.hostWriteBytes s r win addr b).kept = s.kept := by
  unfold State.hostWriteBytes
  refine (foldl_snd_kept _ (fun a b => ?_) _ _).trans ?_ <;> (try dsimp only) <;> (try (repeat' split)) <;> first | (simp only [hostAccess_kept]; done) | rfl

theorem reducePlate_kept (s : State) (p : SliceNo) (r : CmdRun) (j : Nat) (src : Delivered) (resid : Option Delivered) : (State.reducePlate s p r j src resid).kept = s.kept := by
  unfold State.reducePlate
  try dsimp only
  (repeat' split) <;> first | simp only [bump_kept, failRun_kept, foundHome_kept, onRun_kept, request_kept, storeItem_kept] | rfl

theorem reduceGive_kept (s : State) (p : SliceNo) (r : CmdRun) (d : Delivered) : (State.reduceGive s p r d).kept = s.kept := by
  unfold State.reduceGive
  try dsimp only
  (repeat' split) <;> first | simp only [reducePlate_kept, onSlice_kept] | rfl

theorem showTx_kept (s : State) (p : SliceNo) : (State.showTx s p).kept = s.kept := by
  unfold State.showTx
  try dsimp only
  (repeat' split) <;> first | simp only [onSlice_kept] | rfl

theorem txPush_kept (s : State) (p : SliceNo) (t : TxPlate) : (State.txPush s p t).kept = s.kept := by
  unfold State.txPush
  try dsimp only
  (repeat' split) <;> first | simp only [onSlice_kept] | rfl

theorem eyeGive_kept (s : State) (p : SliceNo) (run : Nat) (w : Want) (pl : Plate) (master : BitVec 40) (empty : Bool) (excess : Nat) (buf : Nat) : (State.eyeGive s p run w pl master empty excess buf).kept = s.kept := by
  unfold State.eyeGive
  try dsimp only
  (repeat' split) <;> first | simp only [healStored_kept, hostWriteBytes_kept, onRun_kept, reduceGive_kept, storeItem_kept, tableImage_kept, txPush_kept, onSlice_kept] | rfl

theorem eyeDeliver_kept (s : State) (p : SliceNo) (run : Nat) (w : Want) (pl : Plate) (master : BitVec 40) (empty : Bool) (excess : Nat) (buf : Nat) : (State.eyeDeliver s p run w pl master empty excess buf).kept = s.kept := by
  unfold State.eyeDeliver
  try dsimp only
  (repeat' split) <;> first | simp only [bump_kept, eyeAsk_kept, eyeGive_kept, onSlice_kept] | rfl

theorem eyeRefuse_kept (s : State) (p : SliceNo) (run : Nat) (w : Want) (ctr arg : Nat) (pl : Plate) (master : BitVec 40) (buf : Nat) : (State.eyeRefuse s p run w ctr arg pl master buf).kept = s.kept := by
  unfold State.eyeRefuse
  try dsimp only
  (repeat' split) <;> first | simp only [bump_kept, darken_kept, emit_kept, eyeDeliver_kept, parkReq_kept] | rfl

theorem eyeAdmit_kept (s : State) (p : SliceNo) (f : InFlight) : (State.eyeAdmit s p f).kept = s.kept := by
  unfold State.eyeAdmit
  try dsimp only
  (repeat' split) <;> first | simp only [bump_kept, onSlice_kept] | rfl

theorem dropFlight_kept (s : State) (p : SliceNo) (id : Nat) : (State.dropFlight s p id).kept = s.kept := by
  unfold State.dropFlight
  try dsimp only
  (repeat' split) <;> first | simp only [onSlice_kept] | rfl

theorem unpark_kept (s : State) (p : SliceNo) (n : Fin 64) : (State.unpark s p n).kept = s.kept := by
  unfold State.unpark
  try dsimp only
  (repeat' split) <;> first | (simp only [dropFlight_kept, eyeAdmit_kept, eyeDeliver_kept, eyeRefuse_kept, kept_mk, onIsl_kept, onSlice_kept, onQuad_kept, onGroup_kept, onIslands_kept, foldl_kept, map_kept, mapIdx_kept, map_set_kept, Island_kept_mk, ite_kept, ite_isl_kept, ite_self, implies_true]; done) | ((try simp only [dropFlight_kept, eyeAdmit_kept, eyeDeliver_kept, eyeRefuse_kept, kept_mk, onIsl_kept, onSlice_kept, onQuad_kept, onGroup_kept, onIslands_kept, foldl_kept, map_kept, mapIdx_kept, map_set_kept, Island_kept_mk, ite_kept, ite_isl_kept, ite_self, implies_true]) <;> refine (foldl_kept _ (fun s b => ?_) _ _).trans ?_ <;> (try dsimp only) <;> (try (repeat' split)) <;> first | (simp only [dropFlight_kept, eyeAdmit_kept, eyeDeliver_kept, eyeRefuse_kept, onSlice_kept]; done) | rfl)

theorem unparkAll_kept (s : State) (n : Fin 64) : (State.unparkAll s n).kept = s.kept := by
  unfold State.unparkAll
  try dsimp only
  (repeat' split) <;> first | simp only [unpark_kept, foldl_kept, implies_true] | rfl

theorem slotUnhold_kept (s : State) (n : Fin 64) (c : SlotCmd) (st : BitVec 8) : (State.slotUnhold s n c st).kept = s.kept := by
  unfold State.slotUnhold
  dsimp only
  simp only [dropBuild_kept, onCopies_kept, onSlot_kept, slotCmdEnd_kept, slotGo_kept, unparkAll_kept]

theorem slotQuit_kept (s : State) (n : Fin 64) (id : Nat) (st : BitVec 8) : (State.slotQuit s n id st).kept = s.kept := by
  unfold State.slotQuit
  try dsimp only
  (repeat' split) <;> first | simp only [onSlot_kept, slotCmdEnd_kept, slotFails_kept, slotGo_kept, slotUnhold_kept] | rfl

end Sys2Proof.Machine
end

