-- ==== Sys2Proof/Laws/FramePorts.lean ====
section
/-! SUPPORT. Frame lemmas (the host window, the ports, the slots, the opcodes, requests of the fabric and the engines): each operation leaves what `kept` collects as it was. -/

namespace Sys2Proof.Machine

/-! NetWin. -/

theorem onCmd_kept (s : State) (f : CmdS → CmdS) (h : (f s.cmd).store = s.cmd.store) : (s.onCmd f).kept = s.kept := by
  simp only [State.kept, State.onCmd, h]

theorem hostRec_kept (s : State) (run : Nat) (st : HostRec) : (State.hostRec s run st).kept = s.kept := by
  unfold State.hostRec
  try dsimp only
  (repeat' split) <;> first | simp only [onRun_kept] | rfl

theorem staleLocal_kept (s : State) (q : Fin 64) (lost : Bool) : (State.staleLocal s q lost).kept = s.kept := by
  unfold State.staleLocal
  try dsimp only
  (repeat' split) <;> first | simp only [bareRecord_kept] | rfl

theorem accFailed_kept (s : State) (a : NwAcc) (st : BitVec 8) : (State.accFailed s a st).kept = s.kept := by
  unfold State.accFailed
  try dsimp only
  (repeat' split) <;> first | simp only [hostRec_kept, onCmd_kept, onCq_kept, onRun_kept, staleLocal_kept] | rfl

theorem accDone_kept (s : State) (a : NwAcc) (data : List Byte) : (State.accDone s a data).kept = s.kept := by
  unfold State.accDone
  try dsimp only
  (repeat' split) <;> first | simp only [bump_kept, hostReadStore_kept, onCmd_kept, onCq_kept, onRun_kept, staleLocal_kept, tableImage_kept, takeEntries_kept] | rfl

theorem execNwPathUpRise_kept (s : State) : Keeps s (execNwPathUpRise s) := by
  unfold execNwPathUpRise
  try dsimp only
  (repeat' split) <;> (try refine keeps_guarded ?_) <;> (try dsimp only) <;> (try (repeat' split)) <;> first | simp only [onCmd_kept] | rfl

theorem execNwPathUpStable_kept (s : State) : Keeps s (execNwPathUpStable s) := by
  unfold execNwPathUpStable
  try dsimp only
  (repeat' split) <;> (try refine keeps_guarded ?_) <;> (try dsimp only) <;> (try (repeat' split)) <;> first | simp only [onCmd_kept] | rfl

theorem execNwPathDown_kept (s : State) : Keeps s (execNwPathDown s) := by
  unfold execNwPathDown
  try dsimp only
  (repeat' split) <;> (try refine keeps_guarded ?_) <;> (try dsimp only) <;> (try (repeat' split)) <;> first | simp only [abortAccepted_kept, accFailed_kept, onCmd_kept, onCq_kept, foldl_kept, ite_kept, ite_self, implies_true] | rfl

theorem execNwRequestIssue_kept (tag : BitVec 8) (s : State) : Keeps s (execNwRequestIssue tag s) := by
  unfold execNwRequestIssue
  try dsimp only
  (repeat' split) <;> (try refine keeps_guarded ?_) <;> (try dsimp only) <;> (try (repeat' split)) <;> first | simp only [keeps_next, accFailed_kept, onCmd_kept] | rfl

theorem execNwWriteDataBeat_kept (s : State) : Keeps s (execNwWriteDataBeat s) := by
  unfold execNwWriteDataBeat
  dsimp only
  split
  · exact keeps_guarded (onCmd_kept _ _ (by unfold CmdS.sendBeat; (repeat' split) <;> rfl))
  · exact keeps_guarded ((onCmd_kept _ _ (by unfold CmdS.sendBeat; (repeat' split) <;> rfl)).trans (freshTag_kept ..))
  · rfl

theorem nwLate_kept (s : State) : (State.nwLate s).kept = s.kept := by
  unfold State.nwLate
  try dsimp only
  (repeat' split) <;> first | simp only [onCmd_kept] | rfl

theorem freeTag_kept (s : State) (tag : BitVec 8) : (State.freeTag s tag).kept = s.kept := by
  unfold State.freeTag
  try dsimp only
  (repeat' split) <;> first | simp only [onCmd_kept] | rfl

theorem nwEnd_kept (s : State) (a : NwAcc) (err : BitVec 2) (data : List Byte) : (State.nwEnd s a err data).kept = s.kept := by
  unfold State.nwEnd
  try dsimp only
  (repeat' split) <;> first | simp only [accDone_kept, accFailed_kept] | rfl

theorem execNwReadBeat_kept (tag : BitVec 8) (data : List Byte) (last : Bool) (err : BitVec 2) (s : State) : Keeps s (execNwReadBeat tag data last err s) := by
  unfold execNwReadBeat
  try dsimp only
  (repeat' split) <;> (try refine keeps_guarded ?_) <;> (try dsimp only) <;> (try (repeat' split)) <;> first | simp only [freeTag_kept, nwEnd_kept, nwLate_kept, onCmd_kept] | rfl

theorem execNwWriteAck_kept (tag : BitVec 8) (err : BitVec 2) (s : State) : Keeps s (execNwWriteAck tag err s) := by
  unfold execNwWriteAck
  try dsimp only
  (repeat' split) <;> (try refine keeps_guarded ?_) <;> (try dsimp only) <;> (try (repeat' split)) <;> first | simp only [freeTag_kept, nwEnd_kept, nwLate_kept] | rfl

theorem execNwTagTimeout_kept (tag : BitVec 8) (s : State) : Keeps s (execNwTagTimeout tag s) := by
  unfold execNwTagTimeout
  try dsimp only
  (repeat' split) <;> (try refine keeps_guarded ?_) <;> (try dsimp only) <;> (try (repeat' split)) <;> first | simp only [keeps_next, accFailed_kept, onCmd_kept] | rfl

theorem execHostCompletionWrite_kept (run : Nat) (s : State) : Keeps s (execHostCompletionWrite run s) := by
  unfold execHostCompletionWrite
  try dsimp only
  (repeat' split) <;> (try refine keeps_guarded ?_) <;> (try dsimp only) <;> (try (repeat' split)) <;> first | simp only [keeps_next, hostAccess_kept, hostRec_kept, foldl_kept, implies_true] | rfl

/-! MemPort. -/

theorem onMp_kept (s : State) (p : SliceNo) (f : Mp → Mp) : (State.onMp s p f).kept = s.kept := by
  unfold State.onMp
  try dsimp only
  (repeat' split) <;> first | simp only [onSlice_kept] | rfl

theorem guardWriteBack_kept (s : State) (p : SliceNo) (e : GuardEnt) : (State.guardWriteBack s p e).kept = s.kept := by
  unfold State.guardWriteBack
  try dsimp only
  (repeat' split) <;> first | simp only [onMp_kept, portReq_kept] | rfl

theorem execGuardLineFill_kept (p : SliceNo) (line : BitVec 32) (s : State) : Keeps s (execGuardLineFill p line s) := by
  unfold execGuardLineFill
  try dsimp only
  (repeat' split) <;> (try refine keeps_guarded ?_) <;> (try dsimp only) <;> (try (repeat' split)) <;> first | simp only [guardWriteBack_kept, onMp_kept, portReq_kept] | rfl

theorem execGuardWritebackTimer_kept (p : SliceNo) (line : BitVec 32) (s : State) : Keeps s (execGuardWritebackTimer p line s) := by
  unfold execGuardWritebackTimer
  try dsimp only
  (repeat' split) <;> (try refine keeps_guarded ?_) <;> (try dsimp only) <;> (try (repeat' split)) <;> first | simp only [keeps_next, guardWriteBack_kept] | rfl

theorem lineCame_kept (s : State) (r : MemReq) (data : List Byte) (failed : Bool) : (State.lineCame s r data failed).kept = s.kept := by
  unfold State.lineCame
  try dsimp only
  (repeat' split) <;> first | simp only [darkenLine_kept, healLine_kept, jobDone_kept, mergeDone_kept, putJob_kept, kept_mk] | rfl

theorem guardRead_kept (s : State) (p : SliceNo) (line : Nat) (data : List Byte) (failed : Bool) : (State.guardRead s p line data failed).kept = s.kept := by
  unfold State.guardRead
  try dsimp only
  (repeat' split) <;> first | simp only [event_kept, lineCame_kept, onMp_kept, foldl_kept, implies_true] | rfl

theorem lineBack_kept (s : State) (p : SliceNo) (r : MemReq) (data : List Byte) (failed : Bool) : (State.lineBack s p r data failed).kept = s.kept := by
  unfold State.lineBack
  try dsimp only
  (repeat' split) <;> first | simp only [lineCame_kept, newId_kept, onMp_kept, send_kept] | rfl

theorem takeBridgeReq_kept (s : State) (p : SliceNo) (id : Nat) (poison : Bool) : (State.takeBridgeReq s p id poison).kept = s.kept := by
  unfold State.takeBridgeReq
  try dsimp only
  (repeat' split) <;> first | simp only [darkenLine_kept, onMp_kept, foldl_kept, implies_true] | rfl

theorem takeBridgeLine_kept (s : State) (p : SliceNo) (id : Nat) (data : List Byte) (poison : Bool) : (State.takeBridgeLine s p id data poison).kept = s.kept := by
  unfold State.takeBridgeLine
  try dsimp only
  (repeat' split) <;> first | simp only [lineCame_kept, onMp_kept] | rfl

theorem bridgeCut_kept (s : State) (p : SliceNo) : (State.bridgeCut s p).kept = s.kept := by
  unfold State.bridgeCut
  try dsimp only
  (repeat' split) <;> first | simp only [lineCame_kept, onMp_kept, foldl_kept, implies_true] | rfl

theorem lineRead_kept (s : State) (p : SliceNo) (r : MemReq) (data : List Byte) (failed corr : Bool) (cipher : List Byte) : (State.lineRead s p r data failed corr cipher).kept = s.kept := by
  unfold State.lineRead
  try dsimp only
  (repeat' split) <;> first | simp only [guardRead_kept, lineBack_kept, lineCame_kept, portReq_kept] | rfl

theorem lineWrote_kept (s : State) (p : SliceNo) (r : MemReq) (failed : Bool) (prev : BitVec 32) : (State.lineWrote s p r failed prev).kept = s.kept := by
  unfold State.lineWrote
  try dsimp only
  (repeat' split) <;> first | simp only [bump_kept, darkenLine_kept, guardWriteBack_kept, lineWritten_kept, onMp_kept] | rfl

theorem answerDown_kept (s : State) (p : SliceNo) (r : MemReq) (code : BitVec 16) : (State.answerDown s p r code).kept = s.kept := by
  unfold State.answerDown
  try dsimp only
  (repeat' split) <;> first | simp only [bump_kept, event_kept, lineRead_kept, lineWrote_kept] | rfl

theorem execMpUpRise_kept (p : SliceNo) (s : State) : Keeps s (execMpUpRise p s) := by
  unfold execMpUpRise
  try dsimp only
  (repeat' split) <;> (try refine keeps_guarded ?_) <;> (try dsimp only) <;> (try (repeat' split)) <;> first | simp only [onMp_kept] | rfl

theorem backIn_kept (s : State) (p : SliceNo) : (State.backIn s p).kept = s.kept := by
  unfold State.backIn
  try dsimp only
  (repeat' split) <;> first | simp only [kept_mk] | rfl

theorem portEnds_kept (s : State) (p : SliceNo) (up : Bool) : (State.portEnds s p up).kept = s.kept := by
  unfold State.portEnds
  try dsimp only
  (repeat' split) <;> first | simp only [onMp_kept, kept_mk, onIsl_kept, onSlice_kept, onQuad_kept, onGroup_kept, onIslands_kept, foldl_kept, map_kept, mapIdx_kept, map_set_kept, Island_kept_mk, ite_kept, ite_isl_kept, ite_self, implies_true] | rfl

theorem execMpUpStable_kept (p : SliceNo) (s : State) : Keeps s (execMpUpStable p s) := by
  unfold execMpUpStable
  try dsimp only
  (repeat' split) <;> (try refine keeps_guarded ?_) <;> (try dsimp only) <;> (try (repeat' split)) <;> first | simp only [backIn_kept, onMp_kept, portEnds_kept] | rfl

theorem execMpUpFall_kept (p : SliceNo) (s : State) : Keeps s (execMpUpFall p s) := by
  unfold execMpUpFall
  try dsimp only
  (repeat' split) <;> (try refine keeps_guarded ?_) <;> (try dsimp only) <;> (try (repeat' split)) <;> first | simp only [onMp_kept] | rfl

theorem loseDevice_kept (s : State) (p : SliceNo) : (State.loseDevice s p).kept = s.kept := by
  unfold State.loseDevice
  try dsimp only
  (repeat' split) <;> first | simp only [haltDomain_kept, kept_mk, onSlice_kept, foldl_kept, implies_true] | rfl

theorem shutDevice_kept (s : State) (p : SliceNo) : (State.shutDevice s p).kept = s.kept := by
  unfold State.shutDevice
  try dsimp only
  (repeat' split) <;> first | simp only [loseDevice_kept, kept_mk, onSlice_kept] | rfl

theorem execMpNotReady_kept (p : SliceNo) (s : State) : Keeps s (execMpNotReady p s) := by
  unfold execMpNotReady
  try dsimp only
  (repeat' split) <;> (try refine keeps_guarded ?_) <;> (try dsimp only) <;> (try (repeat' split)) <;> first | simp only [onMp_kept, portEnds_kept, shutDevice_kept] | rfl

theorem answerAll_kept (s : State) (p : SliceNo) : (State.answerAll s p).kept = s.kept := by
  unfold State.answerAll
  try dsimp only
  (repeat' split) <;> first | simp only [answerDown_kept, onMp_kept, foldl_kept, implies_true] | rfl

theorem execMpDownForced_kept (p : SliceNo) (s : State) : Keeps s (execMpDownForced p s) := by
  unfold execMpDownForced
  try dsimp only
  (repeat' split) <;> (try refine keeps_guarded ?_) <;> (try dsimp only) <;> (try (repeat' split)) <;> first | simp only [answerAll_kept, onMp_kept] | rfl

theorem touch_kept (s : State) (p : SliceNo) (a : Nat) : (State.touch s p a).kept = s.kept := by
  unfold State.touch
  try dsimp only
  (repeat' split) <;> first | simp only [onSlice_kept] | rfl

theorem issue_kept (s : State) (p : SliceNo) (i : Nat) (tag : BitVec 8) : (State.issue s p i tag).kept = s.kept := by
  unfold State.issue
  try dsimp only
  (repeat' split) <;> first | simp only [inject_kept, onMp_kept, touch_kept] | rfl

theorem writeIssue_kept (s : State) (p : SliceNo) (t : BitVec 8) : (State.writeIssue s p t).kept = s.kept := by
  unfold State.writeIssue
  try dsimp only
  (repeat' split) <;> first | simp only [issue_kept, onMp_kept] | rfl

theorem execMpRequestIssue_kept (p : SliceNo) (rd wr : Option (BitVec 8)) (s : State) : Keeps s (execMpRequestIssue p rd wr s) := by
  unfold execMpRequestIssue
  try dsimp only
  (repeat' split) <;> (try refine keeps_guarded ?_) <;> (try dsimp only) <;> (try (repeat' split)) <;> first | simp only [keeps_next, answerDown_kept, issue_kept, onMp_kept, writeIssue_kept] | rfl

theorem execMpWriteDataBeat_kept (p : SliceNo) (s : State) : Keeps s (execMpWriteDataBeat p s) := by
  unfold execMpWriteDataBeat
  try dsimp only
  (repeat' split) <;> (try refine keeps_guarded ?_) <;> (try dsimp only) <;> (try (repeat' split)) <;> first | simp only [keeps_next, issue_kept, onMp_kept, freshTag_kept] | rfl

theorem mpUnexpected_kept (s : State) (p : SliceNo) (tag : BitVec 8) : (State.mpUnexpected s p tag).kept = s.kept := by
  unfold State.mpUnexpected
  try dsimp only
  (repeat' split) <;> first | simp only [emit_kept, onMp_kept] | rfl

theorem mpLate_kept (s : State) (p : SliceNo) (tag : BitVec 8) : (State.mpLate s p tag).kept = s.kept := by
  unfold State.mpLate
  try dsimp only
  (repeat' split) <;> first | simp only [bump_kept, onMp_kept] | rfl

theorem reissue_kept (s : State) (p : SliceNo) (t : TagUse) : (State.reissue s p t).kept = s.kept := by
  unfold State.reissue
  try dsimp only
  (repeat' split) <;> first | simp only [bump_kept, onMp_kept] | rfl

theorem injectRead_kept (s : State) (p : SliceNo) : (State.injectRead s p).2.kept = s.kept := by
  unfold State.injectRead
  try dsimp only
  (repeat' split) <;> first | simp only [useInjection_kept] | rfl

theorem bridgeLine_kept (s : State) (p : SliceNo) : (State.bridgeLine s p).kept = s.kept := by
  unfold State.bridgeLine
  try dsimp only
  (repeat' split) <;> first | simp only [bump_kept] | rfl

theorem readAnswered_kept (s : State) (p : SliceNo) (t : TagUse) (code : Nat) (injected : Bool) (data : List Byte) : (State.readAnswered s p t code injected data).kept = s.kept := by
  unfold State.readAnswered
  try dsimp only
  (repeat' split) <;> first | simp only [bridgeLine_kept, bump_kept, event_kept, lineRead_kept] | rfl

theorem execMpReadResponse_kept (p : SliceNo) (tag : BitVec 8) (data : List Byte) (poison : Bool) (err : BitVec 4) (s : State) : Keeps s (execMpReadResponse p tag data poison err s) := by
  unfold execMpReadResponse
  try dsimp only
  (repeat' split) <;> (try refine keeps_guarded ?_) <;> (try dsimp only) <;> (try (repeat' split)) <;> first | simp only [answerDown_kept, bump_kept, injectRead_kept, mpLate_kept, mpUnexpected_kept, onMp_kept, readAnswered_kept, reissue_kept] | rfl

theorem execMpWriteResponse_kept (p : SliceNo) (tag : BitVec 8) (err : BitVec 4) (s : State) : Keeps s (execMpWriteResponse p tag err s) := by
  unfold execMpWriteResponse
  try dsimp only
  (repeat' split) <;> (try refine keeps_guarded ?_) <;> (try dsimp only) <;> (try (repeat' split)) <;> first | simp only [bridgeLine_kept, bump_kept, event_kept, lineWrote_kept, mpLate_kept, mpUnexpected_kept, onMp_kept, reissue_kept] | rfl

theorem execMpTagTimeout_kept (p : SliceNo) (tag : BitVec 8) (s : State) : Keeps s (execMpTagTimeout p tag s) := by
  unfold execMpTagTimeout
  try dsimp only
  (repeat' split) <;> (try refine keeps_guarded ?_) <;> (try dsimp only) <;> (try (repeat' split)) <;> first | simp only [keeps_next, bump_kept, event_kept, lineRead_kept, lineWrote_kept, onMp_kept] | rfl

theorem execMpHeldRequestTimeout_kept (p : SliceNo) (index : Nat) (s : State) : Keeps s (execMpHeldRequestTimeout p index s) := by
  unfold execMpHeldRequestTimeout
  try dsimp only
  (repeat' split) <;> (try refine keeps_guarded ?_) <;> (try dsimp only) <;> (try (repeat' split)) <;> first | simp only [keeps_next, answerDown_kept, bump_kept, onMp_kept] | rfl

/-! Start. -/

theorem askRecords_kept (s : State) (q : Fin 64) (l masters : List (BitVec 40)) : (State.askRecords s q l masters).kept = s.kept := by
  unfold State.askRecords
  try dsimp only
  (repeat' split) <;> first | simp only [lookup_kept, queryRecord_kept, kept_mk, foldl_kept, ite_kept, ite_self, implies_true] | rfl

theorem startRun_kept (s : State) (q : Fin 64) (r : CmdRun) : (State.startRun s q r).kept = s.kept := by
  unfold State.startRun
  try dsimp only
  (repeat' split) <;> first | simp only [onCq_kept, kept_mk] | rfl

theorem startCmd_kept (s : State) (q : Fin 64) (op : Nat) (launch : CmdRun → State → State) (h : ∀ r s, (launch r s).kept = s.kept) :
    (s.startCmd q op launch).kept = s.kept := by
  unfold State.startCmd
  dsimp only
  (repeat' split) <;> simp only [h, startRun_kept, askRecords_kept]

/-! Slots. -/

theorem execHistogramSend_kept (p : SliceNo) (s : State) : Keeps s (execHistogramSend p s) := by
  unfold execHistogramSend
  try dsimp only
  (repeat' split) <;> (try refine keeps_guarded ?_) <;> (try dsimp only) <;> (try (repeat' split)) <;> first | simp only [keeps_next, bump_kept, histNext_kept, onBuild_kept, send_kept, onSlice_kept] | rfl

theorem takeHist_kept (s : State) (p : SliceNo) (run : Nat) (h : Hist) (poison : Bool) : (State.takeHist s p run h poison).kept = s.kept := by
  unfold State.takeHist
  try dsimp only
  (repeat' split) <;> first | simp only [emit_kept, onBuild_kept, kept_mk] | rfl

theorem histAborts_kept (s : State) (p : SliceNo) : (State.histAborts s p).kept = s.kept := by
  unfold State.histAborts
  try dsimp only
  (repeat' split) <;> first | (simp only [dropBuild_kept, slotCmdEnd_kept, slotQuit_kept, kept_mk, onIsl_kept, onSlice_kept, onQuad_kept, onGroup_kept, onIslands_kept, foldl_kept, map_kept, mapIdx_kept, map_set_kept, Island_kept_mk, ite_kept, ite_isl_kept, ite_self, implies_true]; done) | ((try simp only [dropBuild_kept, slotCmdEnd_kept, slotQuit_kept, kept_mk, onIsl_kept, onSlice_kept, onQuad_kept, onGroup_kept, onIslands_kept, foldl_kept, map_kept, mapIdx_kept, map_set_kept, Island_kept_mk, ite_kept, ite_isl_kept, ite_self, implies_true]) <;> refine (foldl_kept _ (fun s b => ?_) _ _).trans ?_ <;> (try dsimp only) <;> (try (repeat' split)) <;> first | (simp only [dropBuild_kept, slotCmdEnd_kept, slotQuit_kept]; done) | rfl)

theorem execTableBuild_kept (s : State) : Keeps s (execTableBuild s) := by
  unfold execTableBuild
  try dsimp only
  (repeat' split) <;> (try refine keeps_guarded ?_) <;> (try dsimp only) <;> (try (repeat' split)) <;> first | simp only [keeps_next, installImage_kept, onRun_kept, openStream_kept, kept_mk] | rfl

theorem secondPass_kept (s : State) (run : Nat) (n : Fin 64) : (State.secondPass s run n).kept = s.kept := by
  unfold State.secondPass
  try dsimp only
  (repeat' split) <;> first | simp only [onRun_kept, openPerSlice_kept] | rfl

theorem execSlotLive_kept (slot : Fin 64) (s : State) : Keeps s (execSlotLive slot s) := by
  unfold execSlotLive
  try dsimp only
  (repeat' split) <;> (try refine keeps_guarded ?_) <;> (try dsimp only) <;> (try (repeat' split)) <;> first | simp only [bump_kept, onCopies_kept, onSlot_kept, secondPass_kept, slotCmdEnd_kept, slotGo_kept, kept_mk] | rfl

theorem execSlotDrainedReport_kept (p : SliceNo) (slot : Fin 64) (s : State) : Keeps s (execSlotDrainedReport p slot s) := by
  unfold execSlotDrainedReport
  try dsimp only
  (repeat' split) <;> (try refine keeps_guarded ?_) <;> (try dsimp only) <;> (try (repeat' split)) <;> first | simp only [onSlice_kept] | rfl

theorem execSlotDrainComplete_kept (slot : Fin 64) (s : State) : Keeps s (execSlotDrainComplete slot s) := by
  unfold execSlotDrainComplete
  try dsimp only
  (repeat' split) <;> (try refine keeps_guarded ?_) <;> (try dsimp only) <;> (try (repeat' split)) <;> first | simp only [bump_kept, installImage_kept, onSlot_kept, slotCmdEnd_kept, slotFree_kept, slotGo_kept, slotLoading_kept, unparkAll_kept] | rfl

theorem execSlotHoldTimeout_kept (slot : Fin 64) (s : State) : Keeps s (execSlotHoldTimeout slot s) := by
  unfold execSlotHoldTimeout
  try dsimp only
  (repeat' split) <;> (try refine keeps_guarded ?_) <;> (try dsimp only) <;> (try (repeat' split)) <;> first | simp only [keeps_next, bump_kept, slotUnhold_kept] | rfl

/-! Opcodes. -/

theorem setDests_kept (s : State) (r : CmdRun) (o : ObjRec) (ks : List Nat) : (State.setDests s r o ks).kept = s.kept := by
  unfold State.setDests
  try dsimp only
  (repeat' split) <;> first | simp only [onRun_kept] | rfl

theorem onItsSlice_kept (s : State) (r : CmdRun) (f : SliceNo → State → State) (h : ∀ p s, (f p s).kept = s.kept) :
    (s.onItsSlice r f).kept = s.kept := by
  unfold State.onItsSlice
  split <;> simp only [h, onRun_kept, failRun_kept]

theorem waits_kept (s : State) (r : CmdRun) : (State.waits s r).kept = s.kept := by
  unfold State.waits
  try dsimp only
  (repeat' split) <;> first | simp only [onRun_kept] | rfl

theorem launchExport_kept (r : CmdRun) (s : State) : (launchExport r s).kept = s.kept := by
  unfold launchExport
  try dsimp only
  (repeat' split) <;> first | simp only [onItsSlice_kept, openStream_kept, implies_true] | rfl

theorem launchImport_kept (r : CmdRun) (s : State) : (launchImport r s).kept = s.kept := by
  unfold launchImport
  try dsimp only
  (repeat' split) <;> first | simp only [onItsSlice_kept, setDests_kept, onSlice_kept, implies_true] | rfl

theorem launchCompress_kept (r : CmdRun) (s : State) : (launchCompress r s).kept = s.kept := by
  unfold launchCompress
  extract_lets e
  split
  · rename_i ps named o1 o2 v d e1 e2
    extract_lets sl s1 g s2 s3
    have h1 : s1.kept = s.kept := (onRun_kept ..).trans (setDests_kept ..)
    have h3 : s3.kept = s.kept := (foldl_kept _ (fun s b => onSlice_kept ..) _ _).trans h1
    clear_value s3 s2 g s1 sl named
    split
    · exact failRun_kept ..
    · split
      · exact failRun_kept ..
      · split
        · exact (slotCommand_kept ..).trans h3
        · exact (histAll_kept ..).trans h3
  · rfl

theorem launchRecode_kept (r : CmdRun) (s : State) : (launchRecode r s).kept = s.kept := by
  unfold launchRecode
  try dsimp only
  (repeat' split) <;> first | simp only [failRun_kept, openPerSlice_kept, setDests_kept] | rfl

theorem launchCopy_kept (r : CmdRun) (s : State) : (launchCopy r s).kept = s.kept := by
  unfold launchCopy
  try dsimp only
  (repeat' split) <;> first | simp only [failRun_kept, launchRecode_kept, openPerSlice_kept, setDests_kept] | rfl

theorem launchResidency_kept (r : CmdRun) (s : State) : (launchResidency r s).kept = s.kept := by
  unfold launchResidency
  try dsimp only
  (repeat' split) <;> first | simp only [failRun_kept, request_kept, waits_kept] | rfl

theorem launchReduce_kept (r : CmdRun) (s : State) : (launchReduce r s).kept = s.kept := by
  unfold launchReduce
  dsimp only
  split
  · refine onItsSlice_kept _ _ _ fun p t => ?_
    split <;> simp only [onRun_kept, openStream_kept]
  · rfl

theorem launchHostRead_kept (r : CmdRun) (s : State) : (launchHostRead r s).kept = s.kept := by
  unfold launchHostRead
  try dsimp only
  (repeat' split) <;> first | simp only [failRun_kept, hostAccess_kept, onRun_kept, setDests_kept, foldl_kept, implies_true] | rfl

theorem launchHostWrite_kept (r : CmdRun) (s : State) : (launchHostWrite r s).kept = s.kept := by
  unfold launchHostWrite
  try dsimp only
  (repeat' split) <;> first | simp only [failRun_kept, onItsSlice_kept, onRun_kept, openStream_kept, implies_true] | rfl

theorem signal_store (c : CmdS) (set : Bool) (n : BitVec 8) (v : BitVec 32) : (c.signal set n v).store = c.store := rfl

theorem launchSignal_kept (r : CmdRun) (s : State) : (launchSignal r s).kept = s.kept := by
  unfold launchSignal
  try dsimp only
  (repeat' split) <;> first | simp only [bump_kept, failRun_kept, request_kept, waits_kept] | rfl

theorem launchWait_kept (r : CmdRun) (s : State) : (launchWait r s).kept = s.kept := by
  unfold launchWait
  try dsimp only
  (repeat' split) <;> first | simp only [onCq_kept, waits_kept] | rfl

theorem launchTableLoad_kept (r : CmdRun) (s : State) : (launchTableLoad r s).kept = s.kept := by
  unfold launchTableLoad
  try dsimp only
  (repeat' split) <;> first | simp only [failRun_kept, hostAccess_kept, openStream_kept, slotCommand_kept, waits_kept, foldl_kept, implies_true] | rfl

theorem launchTableRetire_kept (r : CmdRun) (s : State) : (launchTableRetire r s).kept = s.kept := by
  unfold launchTableRetire
  try dsimp only
  (repeat' split) <;> first | simp only [failRun_kept, slotCommand_kept, waits_kept] | rfl

theorem launchScrub_kept (r : CmdRun) (s : State) : (launchScrub r s).kept = s.kept := by
  unfold launchScrub
  try dsimp only
  (repeat' split) <;> first | simp only [failRun_kept, kept_mk] | rfl

theorem matDests_kept (s : State) (r : CmdRun) (last : Entry) : (State.matDests s r last).kept = s.kept := by
  unfold State.matDests
  try dsimp only
  (repeat' split) <;> first | simp only [setDests_kept] | rfl

theorem matQueue_kept (s : State) (r : CmdRun) (p : SliceNo) (j1 : MatJob) (j2 : Option MatJob) (declined : Bool) : (State.matQueue s r p j1 j2 declined).kept = s.kept := by
  unfold State.matQueue
  try dsimp only
  (repeat' split) <;> first | simp only [bump_kept, onRun_kept, onSlice_kept] | rfl

theorem matStart_kept (s : State) (r : CmdRun) (a b : ObjRec) (p : SliceNo) : (State.matStart s r a b p).kept = s.kept := by
  unfold State.matStart
  try dsimp only
  (repeat' split) <;> first | simp only [failRun_kept, matDests_kept, matQueue_kept] | rfl

theorem launchMatmul_kept (r : CmdRun) (s : State) : (launchMatmul r s).kept = s.kept := by
  unfold launchMatmul
  try dsimp only
  (repeat' split) <;> first | simp only [matStart_kept, onItsSlice_kept, implies_true] | rfl

theorem launch_kept (op : Nat) (r : CmdRun) (s : State) : (launch op r s).kept = s.kept := by
  unfold launch
  try dsimp only
  (repeat' split) <;> first | simp only [launchCompress_kept, launchCopy_kept, launchExport_kept, launchHostRead_kept, launchHostWrite_kept, launchImport_kept, launchMatmul_kept, launchRecode_kept, launchReduce_kept, launchResidency_kept, launchScrub_kept, launchSignal_kept, launchTableLoad_kept, launchTableRetire_kept, launchWait_kept] | rfl

theorem execNop_kept (q : Fin 64) (s : State) : Keeps s (execNop q s) := by
  unfold execNop
  try dsimp only
  (repeat' split) <;> (try refine keeps_guarded ?_) <;> (try dsimp only) <;> (try (repeat' split)) <;> first | simp only [keeps_next, startCmd_kept, implies_true] | rfl

theorem execPlateMatmul_kept (q : Fin 64) (s : State) : Keeps s (execPlateMatmul q s) := by
  unfold execPlateMatmul
  try dsimp only
  (repeat' split) <;> (try refine keeps_guarded ?_) <;> (try dsimp only) <;> (try (repeat' split)) <;> first | simp only [keeps_next, launchMatmul_kept, startCmd_kept, implies_true] | rfl

theorem execExportCmd_kept (q : Fin 64) (s : State) : Keeps s (execExportCmd q s) := by
  unfold execExportCmd
  try dsimp only
  (repeat' split) <;> (try refine keeps_guarded ?_) <;> (try dsimp only) <;> (try (repeat' split)) <;> first | simp only [keeps_next, launchExport_kept, startCmd_kept, implies_true] | rfl

theorem execImportCmd_kept (q : Fin 64) (s : State) : Keeps s (execImportCmd q s) := by
  unfold execImportCmd
  try dsimp only
  (repeat' split) <;> (try refine keeps_guarded ?_) <;> (try dsimp only) <;> (try (repeat' split)) <;> first | simp only [keeps_next, launchImport_kept, startCmd_kept, implies_true] | rfl

theorem execCompress_kept (q : Fin 64) (s : State) : Keeps s (execCompress q s) := by
  unfold execCompress
  try dsimp only
  (repeat' split) <;> (try refine keeps_guarded ?_) <;> (try dsimp only) <;> (try (repeat' split)) <;> first | simp only [keeps_next, launchCompress_kept, startCmd_kept, implies_true] | rfl

theorem execRecode_kept (q : Fin 64) (s : State) : Keeps s (execRecode q s) := by
  unfold execRecode
  try dsimp only
  (repeat' split) <;> (try refine keeps_guarded ?_) <;> (try dsimp only) <;> (try (repeat' split)) <;> first | simp only [keeps_next, launchRecode_kept, startCmd_kept, implies_true] | rfl

theorem execMove_kept (q : Fin 64) (s : State) : Keeps s (execMove q s) := by
  unfold execMove
  try dsimp only
  (repeat' split) <;> (try refine keeps_guarded ?_) <;> (try dsimp only) <;> (try (repeat' split)) <;> first | simp only [keeps_next, launchResidency_kept, startCmd_kept, implies_true] | rfl

theorem execCopy_kept (q : Fin 64) (s : State) : Keeps s (execCopy q s) := by
  unfold execCopy
  try dsimp only
  (repeat' split) <;> (try refine keeps_guarded ?_) <;> (try dsimp only) <;> (try (repeat' split)) <;> first | simp only [keeps_next, launchCopy_kept, startCmd_kept, implies_true] | rfl

theorem execPrefetch_kept (q : Fin 64) (s : State) : Keeps s (execPrefetch q s) := by
  unfold execPrefetch
  try dsimp only
  (repeat' split) <;> (try refine keeps_guarded ?_) <;> (try dsimp only) <;> (try (repeat' split)) <;> first | simp only [keeps_next, launchResidency_kept, startCmd_kept, implies_true] | rfl

theorem execEvict_kept (q : Fin 64) (s : State) : Keeps s (execEvict q s) := by
  unfold execEvict
  try dsimp only
  (repeat' split) <;> (try refine keeps_guarded ?_) <;> (try dsimp only) <;> (try (repeat' split)) <;> first | simp only [keeps_next, launchResidency_kept, startCmd_kept, implies_true] | rfl

theorem execPin_kept (q : Fin 64) (s : State) : Keeps s (execPin q s) := by
  unfold execPin
  try dsimp only
  (repeat' split) <;> (try refine keeps_guarded ?_) <;> (try dsimp only) <;> (try (repeat' split)) <;> first | simp only [keeps_next, launchResidency_kept, startCmd_kept, implies_true] | rfl

theorem execUnpin_kept (q : Fin 64) (s : State) : Keeps s (execUnpin q s) := by
  unfold execUnpin
  try dsimp only
  (repeat' split) <;> (try refine keeps_guarded ?_) <;> (try dsimp only) <;> (try (repeat' split)) <;> first | simp only [keeps_next, launchResidency_kept, startCmd_kept, implies_true] | rfl

theorem execReduce_kept (q : Fin 64) (s : State) : Keeps s (execReduce q s) := by
  unfold execReduce
  try dsimp only
  (repeat' split) <;> (try refine keeps_guarded ?_) <;> (try dsimp only) <;> (try (repeat' split)) <;> first | simp only [keeps_next, launchReduce_kept, startCmd_kept, implies_true] | rfl

theorem execHostRead_kept (q : Fin 64) (s : State) : Keeps s (execHostRead q s) := by
  unfold execHostRead
  try dsimp only
  (repeat' split) <;> (try refine keeps_guarded ?_) <;> (try dsimp only) <;> (try (repeat' split)) <;> first | simp only [keeps_next, launchHostRead_kept, startCmd_kept, implies_true] | rfl

theorem execHostWrite_kept (q : Fin 64) (s : State) : Keeps s (execHostWrite q s) := by
  unfold execHostWrite
  try dsimp only
  (repeat' split) <;> (try refine keeps_guarded ?_) <;> (try dsimp only) <;> (try (repeat' split)) <;> first | simp only [keeps_next, launchHostWrite_kept, startCmd_kept, implies_true] | rfl

theorem execSignal_kept (q : Fin 64) (s : State) : Keeps s (execSignal q s) := by
  unfold execSignal
  try dsimp only
  (repeat' split) <;> (try refine keeps_guarded ?_) <;> (try dsimp only) <;> (try (repeat' split)) <;> first | simp only [keeps_next, launchSignal_kept, startCmd_kept, implies_true] | rfl

theorem execWait_kept (q : Fin 64) (s : State) : Keeps s (execWait q s) := by
  unfold execWait
  try dsimp only
  (repeat' split) <;> (try refine keeps_guarded ?_) <;> (try dsimp only) <;> (try (repeat' split)) <;> first | simp only [keeps_next, launchWait_kept, startCmd_kept, implies_true] | rfl

theorem execFence_kept (q : Fin 64) (s : State) : Keeps s (execFence q s) := by
  unfold execFence
  try dsimp only
  (repeat' split) <;> (try refine keeps_guarded ?_) <;> (try dsimp only) <;> (try (repeat' split)) <;> first | simp only [keeps_next, startCmd_kept, implies_true] | rfl

theorem execTableLoad_kept (q : Fin 64) (s : State) : Keeps s (execTableLoad q s) := by
  unfold execTableLoad
  try dsimp only
  (repeat' split) <;> (try refine keeps_guarded ?_) <;> (try dsimp only) <;> (try (repeat' split)) <;> first | simp only [keeps_next, launchTableLoad_kept, startCmd_kept, implies_true] | rfl

theorem execTableRetire_kept (q : Fin 64) (s : State) : Keeps s (execTableRetire q s) := by
  unfold execTableRetire
  try dsimp only
  (repeat' split) <;> (try refine keeps_guarded ?_) <;> (try dsimp only) <;> (try (repeat' split)) <;> first | simp only [keeps_next, launchTableRetire_kept, startCmd_kept, implies_true] | rfl

theorem execScrub_kept (q : Fin 64) (s : State) : Keeps s (execScrub q s) := by
  unfold execScrub
  try dsimp only
  (repeat' split) <;> (try refine keeps_guarded ?_) <;> (try dsimp only) <;> (try (repeat' split)) <;> first | simp only [keeps_next, launchScrub_kept, startCmd_kept, implies_true] | rfl

/-! Complete. -/

theorem noteTaint_kept (s : State) (ids : List Nat) : (State.noteTaint s ids).kept = s.kept := by
  unfold State.noteTaint
  try dsimp only
  (repeat' split) <;> first | simp only [onCmd_kept] | rfl

theorem freeCommit_kept (s : State) (p : SliceNo) (m : Commit) : (State.freeCommit s p m).kept = s.kept := by
  unfold State.freeCommit
  try dsimp only
  (repeat' split) <;> first | simp only [leavePlates_kept, release_kept, onSlice_kept] | rfl

theorem freeCommits_kept (s : State) (id : Nat) : (State.freeCommits s id).kept = s.kept := by
  unfold State.freeCommits
  try dsimp only
  (repeat' split) <;> first | simp only [freeCommit_kept, foldl_kept, implies_true] | rfl

theorem dropSlotCmd_kept (s : State) (id : Nat) (st : BitVec 8) : (State.dropSlotCmd s id st).kept = s.kept := by
  unfold State.dropSlotCmd
  try dsimp only
  (repeat' split) <;> first | simp only [slotQuit_kept, foldl_kept, implies_true] | rfl

theorem purge_kept (s : State) (id : Nat) (st : BitVec 8) : (State.purge s id st).kept = s.kept := by
  unfold State.purge
  try dsimp only
  (repeat' split) <;> first | simp only [dropSlotCmd_kept, freeCommits_kept, histAll_kept, leaveSlot_kept, onCmd_kept, releaseSlot_kept, showTx_kept, kept_mk, foldl_kept, implies_true] | rfl

theorem localRecord_kept (s : State) (r : CmdRun) (e : Entry) : (State.localRecord s r e).kept = s.kept := by
  unfold State.localRecord
  try dsimp only
  (repeat' split) <;> first | simp only [bump_kept, postRecord_kept] | rfl

theorem retire_kept (s : State) (r : CmdRun) : (State.retire s r).kept = s.kept := by
  unfold State.retire
  try dsimp only
  (repeat' split) <;> first | simp only [bump_kept, localRecord_kept, onCmd_kept] | rfl

theorem finish_kept (s : State) (r : CmdRun) : (State.finish s r).kept = s.kept := by
  unfold State.finish
  try dsimp only
  (repeat' split) <;> first | simp only [haltDomain_kept, onRun_kept, retire_kept, slotCommand_kept] | rfl

theorem execCommandComplete_kept (run : Nat) (s : State) : Keeps s (execCommandComplete run s) := by
  unfold execCommandComplete
  split
  · exact rfl
  · refine keeps_guarded ?_
    split
    · split
      · simp only [retire_kept]
      · rfl
    · dsimp only
      have h (r : CmdRun) : (if r.stopped = true then s.purge run r.status else s).kept = s.kept := by
        split
        · simp only [purge_kept]
        · rfl
      (repeat' split) <;> simp only [launch_kept, bump_kept, onRun_kept, finish_kept, purge_kept]

/-! FabReq. -/

theorem execRdReq_kept (p : SliceNo) (src : Requester) (oid : BitVec 40) (plate : BitVec 24) (s : State) : Keeps s (execRdReq p src oid plate s) := by
  unfold execRdReq
  try dsimp only
  (repeat' split) <;> (try refine keeps_guarded ?_) <;> (try dsimp only) <;> (try (repeat' split)) <;> first | simp only [post_kept, readHome_kept] | rfl

theorem execWrReq_kept (p : SliceNo) (src : Requester) (oid : BitVec 40) (plate : BitVec 24) (data : PlateWords) (s : State) : Keeps s (execWrReq p src oid plate data s) := by
  unfold execWrReq
  try dsimp only
  (repeat' split) <;> (try refine keeps_guarded ?_) <;> (try dsimp only) <;> (try (repeat' split)) <;> first | simp only [ackTo_kept, receiveWrite_kept] | rfl

theorem execRedData_kept (p : SliceNo) (src : Requester) (oid : BitVec 40) (plate : BitVec 24) (rcc : BitVec 2) (data : List Byte) (poison : Bool) (s : State) : Keeps s (execRedData p src oid plate rcc data poison s) := by
  unfold execRedData
  try dsimp only
  (repeat' split) <;> (try refine keeps_guarded ?_) <;> (try dsimp only) <;> (try (repeat' split)) <;> first | simp only [ackTo_kept, onSlice_kept] | rfl

theorem execSig_kept (src : Requester) (set : Bool) (counter : BitVec 8) (value : BitVec 32) (s : State) : Keeps s (execSig src set counter value s) := by
  refine keeps_guarded ?_
  rw [ackTo_kept]
  exact onCmd_kept _ _ rfl

theorem readFailed_kept (s : State) (p : SliceNo) (id : Nat) (st : BitVec 4) : (State.readFailed s p id st).kept = s.kept := by
  unfold State.readFailed
  try dsimp only
  (repeat' split) <;> first | simp only [failRun_kept, healStored_kept, onSlice_kept] | rfl

theorem lookupFailed_kept (s : State) (oid : BitVec 40) (span : Nat) (st : BitVec 4) : (State.lookupFailed s oid span st).kept = s.kept := by
  unfold State.lookupFailed
  extract_lets s0
  refine (foldl_kept _ (fun s p => ?_) _ _).trans (onEph_kept ..)
  extract_lets x heads s1 s2 away lost s3
  have h1 : s1.kept = s.kept := foldl_kept _ (fun s b => by split <;> simp only [failRun_kept, healStored_kept]) _ _
  have h2 : s2.kept = s.kept := by
    dsimp only [s2]
    (repeat' split) <;> simp only [failRun_kept, healStored_kept, h1]
  exact (foldl_kept _ (fun s b => by simp only [failRun_kept, releaseSlot_kept]) _ _).trans h2

theorem jobAnswered_kept (s : State) (id : Nat) (st : BitVec 4) : (State.jobAnswered s id st).kept = s.kept := by
  unfold State.jobAnswered
  try dsimp only
  (repeat' split) <;> first | simp only [jobEnd_kept, jobRequest_kept, mirrorOut_kept, onEph_kept] | rfl

theorem registered_kept (s : State) (run : Nat) (w : RecWords) : (State.registered s run w).kept = s.kept := by
  unfold State.registered
  try dsimp only
  (repeat' split) <;> first | simp only [mirDir_kept, onEph_kept, onRun_kept] | rfl

theorem rewrite_kept (s : State) (r : FabReq) (run : Option Nat) (slot : Option (SliceNo × Fin 64)) (newHome : HomeWord) : (State.rewrite s r run slot newHome).kept = s.kept := by
  unfold State.rewrite
  try dsimp only
  (repeat' split) <;> first | simp only [failRun_kept, receiveWrite_kept, releaseSlot_kept, sendWrite_kept] | rfl

theorem reqFails_kept (s : State) (r : FabReq) (st : BitVec 4) : (State.reqFails s r st).kept = s.kept := by
  unfold State.reqFails
  try dsimp only
  (repeat' split) <;> first | simp only [bump_kept, failRun_kept, haltDomain_kept, healHeader_kept, healStored_kept, jobAnswered_kept, lookupFailed_kept, moveEnds_kept, moveFails_kept, moveLeft_kept, onEph_kept, onRun_kept, onSrc_kept, placeAnswered_kept, readFailed_kept, releaseSlot_kept, victimAnswered_kept, kept_mk] | rfl

theorem notHome_kept (s : State) (r : FabReq) (newHome : HomeWord) : (State.notHome s r newHome).kept = s.kept := by
  unfold State.notHome
  try dsimp only
  (repeat' split) <;> first | simp only [bump_kept, eyeAsk_kept, forgetHome_kept, reqFails_kept, request_kept, rewrite_kept, onSlice_kept] | rfl

theorem execRdRsp_kept (p : SliceNo) (tid : BitVec 16) (status : BitVec 4) (newHome : HomeWord) (plate : PlateWords) (s : State) : Keeps s (execRdRsp p tid status newHome plate s) := by
  unfold execRdRsp
  try dsimp only
  (repeat' split) <;> (try refine keeps_guarded ?_) <;> (try dsimp only) <;> (try (repeat' split)) <;> first | simp only [dropReq_kept, healHeader_kept, lateAnswer_kept, notHome_kept, reqFails_kept, onSlice_kept] | rfl

theorem execLookupRsp_kept (tid : BitVec 16) (status : BitVec 4) (object override : List W64) (s : State) : Keeps s (execLookupRsp tid status object override s) := by
  unfold execLookupRsp
  try dsimp only
  (repeat' split) <;> (try refine keeps_guarded ?_) <;> (try dsimp only) <;> (try (repeat' split)) <;> first | simp only [bump_kept, dropReq_kept, forgetHome_kept, lateAnswer_kept, lookupFailed_kept, onEph_kept, reqFails_kept, request_kept] | rfl

theorem execObjRsp_kept (tid : BitVec 16) (status : BitVec 4) (record : RecWords) (s : State) : Keeps s (execObjRsp tid status record s) := by
  unfold execObjRsp
  try dsimp only
  (repeat' split) <;> (try refine keeps_guarded ?_) <;> (try dsimp only) <;> (try (repeat' split)) <;> first | simp only [dropReq_kept, lateAnswer_kept, onEph_kept, reqFails_kept] | rfl

theorem execCmdxResult_kept (tid : BitVec 16) (status : BitVec 4) (plates : BitVec 24) (s : State) : Keeps s (execCmdxResult tid status plates s) := by
  unfold execCmdxResult
  try dsimp only
  (repeat' split) <;> (try refine keeps_guarded ?_) <;> (try dsimp only) <;> (try (repeat' split)) <;> first | simp only [dropReq_kept, lateAnswer_kept, onRun_kept, reqFails_kept] | rfl

theorem reqDone_kept (s : State) (r : FabReq) (plates : Nat) : (State.reqDone s r plates).kept = s.kept := by
  unfold State.reqDone
  try dsimp only
  (repeat' split) <;> first | simp only [endStep7_kept, healStored_kept, jobAnswered_kept, mirrored_kept, onEph_kept, onRun_kept, placeAnswered_kept, registered_kept, releaseSlot_kept, victimAnswered_kept] | rfl

theorem execFabricAck_kept (unit : BitVec 6) (tid : BitVec 16) (status : BitVec 4) (newHome : HomeWord) (plates : BitVec 24) (s : State) : Keeps s (execFabricAck unit tid status newHome plates s) := by
  unfold execFabricAck
  try dsimp only
  (repeat' split) <;> (try refine keeps_guarded ?_) <;> (try dsimp only) <;> (try (repeat' split)) <;> first | simp only [dropReq_kept, lateAnswer_kept, notHome_kept, reqDone_kept, reqFails_kept] | rfl

theorem execRequestTimeout_kept (unit : BitVec 6) (tid : BitVec 16) (s : State) : Keeps s (execRequestTimeout unit tid s) := by
  unfold execRequestTimeout
  try dsimp only
  (repeat' split) <;> (try refine keeps_guarded ?_) <;> (try dsimp only) <;> (try (repeat' split)) <;> first | simp only [keeps_next, bump_kept, dropReq_kept, haltDomain_kept, onEph_kept, reqFails_kept, request_kept] | rfl

/-! FabRx. -/

theorem execFabricPacketArrive_kept (x : QuadNo) (j : Fin 4) (v : Fin 8) (parity : ParityObs) (s : State) : Keeps s (execFabricPacketArrive x j v parity s) := by
  unfold execFabricPacketArrive
  try dsimp only
  (repeat' split) <;> (try refine keeps_guarded ?_) <;> (try dsimp only) <;> (try (repeat' split)) <;> first | simp only [keeps_next, bump_kept, goOn_kept, readPacket_kept] | rfl

theorem execPeerQueueDispatch_kept (x : QuadNo) (v : Fin 8) (parity : ParityObs) (s : State) : Keeps s (execPeerQueueDispatch x v parity s) := by
  unfold execPeerQueueDispatch
  try dsimp only
  (repeat' split) <;> (try refine keeps_guarded ?_) <;> (try dsimp only) <;> (try (repeat' split)) <;> first | simp only [keeps_next, bump_kept, goOn_kept, readPacket_kept, onQuad_kept] | rfl

/-! Arrive. -/

theorem ran_kept {s : State} {o : Outcome} (h : Keeps s o) : (ran o s).kept = s.kept := by
  cases o <;> first | exact h | rfl

theorem keepsO_ite {c : Prop} [Decidable c] {s : State} {a b : Option State} (h : KeepsO s a) (g : KeepsO s b) :
    KeepsO s (if c then a else b) := by
  split
  · exact h
  · exact g

theorem keeps_ite {c : Prop} [Decidable c] {s : State} {a b : Outcome} (h : Keeps s a) (g : Keeps s b) :
    Keeps s (if c then a else b) := by
  split
  · exact h
  · exact g

theorem askRecord_kept (s : State) (p : Pkt) : (State.askRecord s p).kept = s.kept := by
  unfold State.askRecord
  try dsimp only
  (repeat' split) <;> first | simp only [lookup_kept] | rfl

theorem takeFabric_kept (s : State) (p : Pkt) (scale : Option (BitVec 16 × Pkt)) : KeepsO s (State.takeFabric s p scale) := by
  unfold State.takeFabric
  extract_lets h src oid k span u eight rec_ go
  have hg {o : Outcome} (w : Keeps s o) : KeepsO s (go o) := ran_kept w
  clear_value go
  refine keepsO_ite (hg (execRdReq_kept ..)) ?_
  refine keepsO_ite (hg (execRdRsp_kept ..)) ?_
  refine keepsO_ite (hg (execWrReq_kept ..)) ?_
  refine keepsO_ite (hg (execLookup_kept ..)) ?_
  refine keepsO_ite (hg (execLookupRsp_kept ..)) ?_
  refine keepsO_ite (hg (execRegister_kept ..)) ?_
  refine keepsO_ite (hg (execObjReq_kept ..)) ?_
  refine keepsO_ite (hg (execObjRsp_kept ..)) ?_
  refine keepsO_ite (hg (execMvStart_kept ..)) ?_
  refine keepsO_ite (hg (execMvData_kept ..)) ?_
  refine keepsO_ite (hg (execCommit_kept ..)) ?_
  refine keepsO_ite (hg (execMirror_kept ..)) ?_
  refine keepsO_ite (hg (execFree_kept ..)) ?_
  refine keepsO_ite (hg (execPinSet_kept ..)) ?_
  refine keepsO_ite (hg (execEvictReq_kept ..)) ?_
  refine keepsO_ite (hg (execJoin_kept ..)) ?_
  refine keepsO_ite (hg (execOcc_kept ..)) ?_
  refine keepsO_ite (hg (execSig_kept ..)) ?_
  refine keepsO_ite (hg (execRedData_kept ..)) ?_
  refine keepsO_ite (hg (keeps_ite (execCopyDone_kept ..) (keeps_ite (execCommitAck_kept ..)
    (keeps_ite (execCmdxResult_kept ..) (execFabricAck_kept ..))))) trivial

theorem noteQueue_kept (s : State) (p : Pkt) (scale : Option (BitVec 16 × Pkt)) : (State.noteQueue s p scale).kept = s.kept := by
  unfold State.noteQueue
  try dsimp only
  (repeat' split) <;> first | simp only [noteTaint_kept] | rfl

theorem takePkt_kept (s : State) (p : Pkt) (scale : Option (BitVec 16 × Pkt)) : KeepsO s (State.takePkt s p scale) := by
  unfold State.takePkt
  split <;> first | exact takeFabric_kept .. | trivial | skip
  all_goals simp only [KeepsO]
  all_goals (repeat' split) <;> first | rfl | simp only [imageAgain_kept, takeBridgeLine_kept, takeBridgeReq_kept, takeHist_kept, takeImage_kept]

theorem takeIn_kept (s : State) (k : IslandNo) (q : BitVec 16) (p : Pkt) : (State.takeIn s k q p).kept = s.kept := by
  unfold State.takeIn
  extract_lets scale t
  clear_value scale
  have h1 : t.kept = s.kept := by
    dsimp only [t]
    split
    · exact onIsl_kept _ _ _ fun i => rfl
    · rfl
  split
  · exact (keepsO_some (takePkt_kept ..) ‹_›).trans ((noteQueue_kept ..).trans h1)
  · refine (onIsl_kept _ _ _ ?_).trans h1
    intro i; rfl

theorem execPacketConsume_kept (x : QuadNo) (q : BitVec 16) (parity : ParityObs) (s : State) : Keeps s (execPacketConsume x q parity s) := by
  unfold execPacketConsume
  try dsimp only
  (repeat' split) <;> (try refine keeps_guarded ?_) <;> (try dsimp only) <;> (try (repeat' split)) <;> first | simp only [keeps_next, askRecord_kept, readPacket_kept, takeIn_kept] | rfl

/-! DpeOps. -/

theorem freeNats_kept (s : State) (n : Nat) : (State.freeNats s n).2.kept = s.kept := by
  unfold State.freeNats
  try dsimp only
  (repeat' split) <;> first | simp only [kept_mk] | rfl

theorem dpeAbsorb_kept (s : State) (p : SliceNo) : (State.dpeAbsorb s p).kept = s.kept := by
  unfold State.dpeAbsorb
  try dsimp only
  (repeat' split) <;> first | simp only [onSlice_kept] | rfl

theorem askActs_kept (s : State) (p : SliceNo) (j : MatJob) (rows kps : List Nat) : (State.askActs s p j rows kps).kept = s.kept := by
  unfold State.askActs
  try dsimp only
  (repeat' split) <;> first | simp only [openStream_kept] | rfl

theorem askPass_kept (s : State) (p : SliceNo) : (State.askPass s p).kept = s.kept := by
  unfold State.askPass
  try dsimp only
  (repeat' split) <;> first | simp only [askActs_kept, openStream_kept, onSlice_kept, foldl_kept, implies_true] | rfl

/-! Eyepiece. -/

theorem execContextSwitch_kept (p : SliceNo) (ctx : Fin 16) (s : State) : Keeps s (execContextSwitch p ctx s) := by
  unfold execContextSwitch
  try dsimp only
  (repeat' split) <;> (try refine keeps_guarded ?_) <;> (try dsimp only) <;> (try (repeat' split)) <;> first | simp only [bump_kept, eyeAsk_kept, onSlice_kept] | rfl

theorem takeArrived_kept (s : State) (p : SliceNo) (id : Nat) : (State.takeArrived s p id).kept = s.kept := by
  unfold State.takeArrived
  try dsimp only
  (repeat' split) <;> first | simp only [onSlice_kept] | rfl

theorem copyForm_kept (s : State) (p : SliceNo) (r : CmdRun) (dst : BitVec 24) (a : Arrived) : (State.copyForm s p r dst a).2.kept = s.kept := by
  unfold State.copyForm
  try dsimp only
  (repeat' split) <;> first | simp only [homeWrite_kept, onRun_kept] | rfl

theorem frcArrive_kept (s : State) (p : SliceNo) (run : Nat) (stream : Nat) (w : Want) (a : Arrived) : (State.frcArrive s p run stream w a).kept = s.kept := by
  unfold State.frcArrive
  try dsimp only
  (repeat' split) <;> first | simp only [eyeAdmit_kept, eyeDeliver_kept, eyeRefuse_kept, onSlice_kept] | rfl

theorem plainArrive_kept (s : State) (p : SliceNo) (run : Nat) (w : Want) (a : Arrived) : (State.plainArrive s p run w a).kept = s.kept := by
  unfold State.plainArrive
  try dsimp only
  (repeat' split) <;> first | simp only [eyeDeliver_kept, eyeRefuse_kept] | rfl

theorem execPlateAdmissible_kept (p : SliceNo) (id : Nat) (s : State) : Keeps s (execPlateAdmissible p id s) := by
  unfold execPlateAdmissible
  try dsimp only
  (repeat' split) <;> (try refine keeps_guarded ?_) <;> (try dsimp only) <;> (try (repeat' split)) <;> first | simp only [keeps_next, copyForm_kept, eyeDeliver_kept, frcArrive_kept, hostWriteBytes_kept, onRun_kept, plainArrive_kept, registerObject_kept, takeArrived_kept, kept_mk, onSlice_kept] | rfl

theorem execLaneAssign_kept (p : SliceNo) (s : State) : Keeps s (execLaneAssign p s) := by
  unfold execLaneAssign
  try dsimp only
  (repeat' split) <;> (try refine keeps_guarded ?_) <;> (try dsimp only) <;> (try (repeat' split)) <;> first | simp only [keeps_next, onSlice_kept] | rfl

theorem frcFinish_kept (s : State) (p : SliceNo) (f : InFlight) : (State.frcFinish s p f).kept = s.kept := by
  unfold State.frcFinish
  try dsimp only
  (repeat' split) <;> first | simp only [bump_kept, dropFlight_kept, eyeDeliver_kept, eyeRefuse_kept, leaveSlot_kept] | rfl

theorem subDone_kept (s : State) (p : SliceNo) (l : Fin 128) (f : InFlight) (i : Nat) (r : Option (List F32 × Nat)) : (State.subDone s p l f i r).kept = s.kept := by
  unfold State.subDone
  try dsimp only
  (repeat' split) <;> first | simp only [bump_kept, frcFinish_kept, onSlice_kept] | rfl

theorem execSubstreamEnd_kept (p : SliceNo) (lane : Fin 128) (s : State) : Keeps s (execSubstreamEnd p lane s) := by
  unfold execSubstreamEnd
  try dsimp only
  (repeat' split) <;> (try refine keeps_guarded ?_) <;> (try dsimp only) <;> (try (repeat' split)) <;> first | simp only [keeps_next, event_kept, inject_kept, subDone_kept, onSlice_kept] | rfl

theorem execSubstreamDecodeTimeout_kept (p : SliceNo) (lane : Fin 128) (s : State) : Keeps s (execSubstreamDecodeTimeout p lane s) := by
  unfold execSubstreamDecodeTimeout
  try dsimp only
  (repeat' split) <;> (try refine keeps_guarded ?_) <;> (try dsimp only) <;> (try (repeat' split)) <;> first | simp only [keeps_next, subDone_kept] | rfl

theorem execTableCacheFill_kept (p : SliceNo) (slot : Fin 64) (s : State) : Keeps s (execTableCacheFill p slot s) := by
  unfold execTableCacheFill
  try dsimp only
  (repeat' split) <;> (try refine keeps_guarded ?_) <;> (try dsimp only) <;> (try (repeat' split)) <;> first | simp only [onSlice_kept, ite_self] | rfl

/-! XPort. -/

theorem onXp_kept (s : State) (p : SliceNo) (f : Xp → Xp) : (State.onXp s p f).kept = s.kept := by
  unfold State.onXp
  try dsimp only
  (repeat' split) <;> first | simp only [onSlice_kept] | rfl

theorem execExportBeat_kept (p : SliceNo) (s : State) : Keeps s (execExportBeat p s) := by
  unfold execExportBeat
  try dsimp only
  (repeat' split) <;> (try refine keeps_guarded ?_) <;> (try dsimp only) <;> (try (repeat' split)) <;> first | simp only [keeps_next, bump_kept, onRun_kept, onXp_kept] | rfl

theorem execExportAbandon_kept (p : SliceNo) (s : State) : Keeps s (execExportAbandon p s) := by
  unfold execExportAbandon
  try dsimp only
  (repeat' split) <;> (try refine keeps_guarded ?_) <;> (try dsimp only) <;> (try (repeat' split)) <;> first | simp only [keeps_next, bump_kept, failRun_kept, onXp_kept] | rfl

theorem execImportStreamOpen_kept (p : SliceNo) (s : State) : Keeps s (execImportStreamOpen p s) := by
  unfold execImportStreamOpen
  try dsimp only
  (repeat' split) <;> (try refine keeps_guarded ?_) <;> (try dsimp only) <;> (try (repeat' split)) <;> first | simp only [keeps_next, onXp_kept] | rfl

theorem importFails_kept (s : State) (run : Nat) (st : BitVec 8) : (State.importFails s run st).kept = s.kept := by
  unfold State.importFails
  try dsimp only
  (repeat' split) <;> first | simp only [onRun_kept] | rfl

theorem nextOrdinal_kept (s : State) (p : SliceNo) (t : ImpStream) : (State.nextOrdinal s p t).kept = s.kept := by
  unfold State.nextOrdinal
  try dsimp only
  (repeat' split) <;> first | simp only [importFails_kept, onXp_kept] | rfl

theorem rxDiscard_kept (s : State) (p : SliceNo) (n : Nat) : (State.rxDiscard s p n).kept = s.kept := by
  unfold State.rxDiscard
  try dsimp only
  (repeat' split) <;> first | simp only [bump_kept, onXp_kept] | rfl

theorem dropBeats_kept (s : State) (p : SliceNo) (t : ImpStream) : (State.dropBeats s p t).kept = s.kept := by
  unfold State.dropBeats
  try dsimp only
  (repeat' split) <;> first | simp only [onXp_kept] | rfl

theorem importPlate_kept (s : State) (p : SliceNo) (t : ImpStream) : (State.importPlate s p t).kept = s.kept := by
  unfold State.importPlate
  try dsimp only
  (repeat' split) <;> first | simp only [dropBeats_kept, onSlice_kept] | rfl

theorem execImportBeat_kept (p : SliceNo) (stream beat : BitVec 8) (fmt : Fmt) (data scale : List Byte) (last poison : Bool) (s : State) : Keeps s (execImportBeat p stream beat fmt data scale last poison s) := by
  unfold execImportBeat
  try dsimp only
  (repeat' split) <;> (try refine keeps_guarded ?_) <;> (try dsimp only) <;> (try (repeat' split)) <;> first | simp only [bump_kept, dropBeats_kept, importDrain_kept, importPlate_kept, nextOrdinal_kept, onXp_kept, rxDiscard_kept] | rfl

theorem importTimeout_kept (s : State) (p : SliceNo) (t : ImpStream) : (State.importTimeout s p t).kept = s.kept := by
  unfold State.importTimeout
  try dsimp only
  (repeat' split) <;> first | simp only [dropBeats_kept, importFails_kept, onXp_kept] | rfl

theorem execImportPlateTimeout_kept (p : SliceNo) (stream : BitVec 8) (s : State) : Keeps s (execImportPlateTimeout p stream s) := by
  unfold execImportPlateTimeout
  try dsimp only
  (repeat' split) <;> (try refine keeps_guarded ?_) <;> (try dsimp only) <;> (try (repeat' split)) <;> first | simp only [keeps_next, importTimeout_kept] | rfl

theorem execImportStreamIdleTimeout_kept (p : SliceNo) (stream : BitVec 8) (s : State) : Keeps s (execImportStreamIdleTimeout p stream s) := by
  unfold execImportStreamIdleTimeout
  try dsimp only
  (repeat' split) <;> (try refine keeps_guarded ?_) <;> (try dsimp only) <;> (try (repeat' split)) <;> first | simp only [keeps_next, importTimeout_kept] | rfl

/-! Dpe. -/

theorem onDpe_kept (s : State) (p : SliceNo) (f : Dpe → Dpe) : (State.onDpe s p f).kept = s.kept := by
  unfold State.onDpe
  try dsimp only
  (repeat' split) <;> first | simp only [onSlice_kept] | rfl

theorem beginMatmul_kept (s : State) (p : SliceNo) (j : MatJob) (j2 : Option MatJob) (rest : List (MatJob × Option MatJob)) : (State.beginMatmul s p j j2 rest).kept = s.kept := by
  unfold State.beginMatmul
  try dsimp only
  (repeat' split) <;> first | simp only [onDpe_kept] | rfl

theorem nextBlock_kept (s : State) (p : SliceNo) (j : MatJob) (b : Nat) : (State.nextBlock s p j b).kept = s.kept := by
  unfold State.nextBlock
  try dsimp only
  (repeat' split) <;> first | simp only [onSlice_kept] | rfl

theorem blockLoad_kept (s0 : State) (p : SliceNo) : (State.blockLoad s0 p).kept = s0.kept := by
  unfold State.blockLoad
  try dsimp only
  (repeat' split) <;> first | simp only [askActs_kept, askPass_kept, beginMatmul_kept, dpeAbsorb_kept, nextBlock_kept, onDpe_kept, onSlice_kept] | rfl

theorem execRowBlockLoad_kept (p : SliceNo) (s : State) : Keeps s (execRowBlockLoad p s) := by
  unfold execRowBlockLoad
  try dsimp only
  (repeat' split) <;> (try refine keeps_guarded ?_) <;> (try dsimp only) <;> (try (repeat' split)) <;> first | simp only [blockLoad_kept] | rfl

theorem execPassStart_kept (p : SliceNo) (s0 : State) : Keeps s0 (execPassStart p s0) := by
  unfold execPassStart
  try dsimp only
  (repeat' split) <;> (try refine keeps_guarded ?_) <;> (try dsimp only) <;> (try (repeat' split)) <;> first | simp only [keeps_next, askPass_kept, dpeAbsorb_kept, onDpe_kept, onSlice_kept] | rfl

theorem rowFailed_kept (s : State) (p : SliceNo) (j : MatJob) (e : Nat × Bool) : (State.rowFailed s p j e).kept = s.kept := by
  unfold State.rowFailed
  try dsimp only
  (repeat' split) <;> first | simp only [bump_kept, event_kept, onDpe_kept, useInjection_kept] | rfl

theorem passEnd_kept (s : State) (p : SliceNo) : (State.passEnd s p).kept = s.kept := by
  unfold State.passEnd
  try dsimp only
  (repeat' split) <;> first | simp only [askPass_kept, onDpe_kept] | rfl

theorem execActivationRowIssue_kept (p : SliceNo) (failing : List (Fin 64)) (s : State) : Keeps s (execActivationRowIssue p failing s) := by
  unfold execActivationRowIssue
  try dsimp only
  (repeat' split) <;> (try refine keeps_guarded ?_) <;> (try dsimp only) <;> (try (repeat' split)) <;> first | simp only [keeps_next, bump_kept, freeNats_kept, onDpe_kept, passEnd_kept, rowFailed_kept, foldl_kept, implies_true] | rfl

theorem execOutputFinal_kept (p : SliceNo) (s : State) : Keeps s (execOutputFinal p s) := by
  unfold execOutputFinal
  try dsimp only
  (repeat' split) <;> (try refine keeps_guarded ?_) <;> (try dsimp only) <;> (try (repeat' split)) <;> first | simp only [keeps_next, bump_kept, onDpe_kept] | rfl

theorem outPlate_kept (s : State) (p : SliceNo) (j : MatJob) (i n : Nat) (vals : List F32) (poison trimmed : Bool) : (State.outPlate s p j i n vals poison trimmed).kept = s.kept := by
  unfold State.outPlate
  try dsimp only
  (repeat' split) <;> first | simp only [onRun_kept, storeItem_kept, txPush_kept] | rfl

theorem execAccumulatorDrain_kept (q : SliceNo) (s : State) : Keeps s (execAccumulatorDrain q s) := by
  unfold execAccumulatorDrain
  try dsimp only
  (repeat' split) <;> (try refine keeps_guarded ?_) <;> (try dsimp only) <;> (try (repeat' split)) <;> first | simp only [keeps_next, bump_kept, onDpe_kept, outPlate_kept] | rfl

/-! SmeOps. -/

theorem onSme_kept (s : State) (p : SliceNo) (f : Sme → Sme) : (State.onSme s p f).kept = s.kept := by
  unfold State.onSme
  try dsimp only
  (repeat' split) <;> first | simp only [onSlice_kept] | rfl

theorem askMaps_kept (s : State) (p : SliceNo) (j : MatJob) (rows : List Nat) : (State.askMaps s p j rows).kept = s.kept := by
  unfold State.askMaps
  try dsimp only
  (repeat' split) <;> first | (simp only [bump_kept]; done) | ((try simp only [bump_kept]) <;> refine (foldl_kept _ (fun s b => ?_) _ _).trans ?_ <;> (try dsimp only) <;> (try (repeat' split)) <;> first | (simp only [beginJob_kept, newId_kept, onDpe_kept]; done) | rfl)

theorem smeAbsorb_kept (s : State) (p : SliceNo) (j : MatJob) : (State.smeAbsorb s p j).kept = s.kept := by
  unfold State.smeAbsorb
  try dsimp only
  (repeat' split) <;> first | (simp only [Island.bump_kept, bump_kept, onRun_kept, onSme_kept, kept_mk, onIsl_kept, onSlice_kept, onQuad_kept, onGroup_kept, onIslands_kept, foldl_kept, map_kept, mapIdx_kept, map_set_kept, Island_kept_mk, ite_kept, ite_isl_kept, ite_self, implies_true]; done) | ((try simp only [Island.bump_kept, bump_kept, onRun_kept, onSme_kept, kept_mk, onIsl_kept, onSlice_kept, onQuad_kept, onGroup_kept, onIslands_kept, foldl_kept, map_kept, mapIdx_kept, map_set_kept, Island_kept_mk, ite_kept, ite_isl_kept, ite_self, implies_true]) <;> refine (foldl_kept _ (fun s b => ?_) _ _).trans ?_ <;> (try dsimp only) <;> (try (repeat' split)) <;> first | (simp only [bump_kept, onRun_kept, onSme_kept, onSlice_kept]; done) | rfl)

theorem taskEnds_kept (s : State) (p : SliceNo) (lane : Nat) (t : Task) : (State.taskEnds s p lane t).kept = s.kept := by
  unfold State.taskEnds
  try dsimp only
  (repeat' split) <;> first | simp only [bump_kept, onSme_kept] | rfl

theorem stripWrite_kept (s : State) (p : SliceNo) (j : MatJob) (x : Nat) (l : List HEnt) : (State.stripWrite s p j x l).2.kept = s.kept := by
  unfold State.stripWrite
  try dsimp only
  (repeat' split) <;> first | simp only [homeWrite_kept] | rfl

theorem stripKnown_kept (s : State) (j : MatJob) (n : Nat) : (State.stripKnown s j n).2.kept = s.kept := by
  unfold State.stripKnown
  try dsimp only
  (repeat' split) <;> first | simp only [lookup_kept] | rfl

theorem exhaust_kept (s : State) (p : SliceNo) (run : Nat) : (State.exhaust s p run).kept = s.kept := by
  unfold State.exhaust
  try dsimp only
  (repeat' split) <;> first | simp only [failRun_kept, onRun_kept, onSme_kept, onSlice_kept] | rfl

theorem drainJob_kept (s : State) (p : SliceNo) (j : MatJob) (g : SJob) : (State.drainJob s p j g).kept = s.kept := by
  unfold State.drainJob
  try dsimp only
  (repeat' split) <;> first | simp only [bump_kept, onSme_kept, outPlate_kept] | rfl

theorem drainJobs_kept (p : SliceNo) (j : MatJob) (l : List SJob) (s : State) : (State.drainJobs p j l s).kept = s.kept := by
  induction l generalizing s with
  | nil => rfl
  | cons g r ih =>
    unfold State.drainJobs
    split
    · rw [ih, drainJob_kept]
    · rfl

end Sys2Proof.Machine
end

