-- ==== Sys2Proof/Laws/FrameFabric.lean ====
section
/-! SUPPORT. Frame lemmas (time and the links): each operation leaves what `kept` collects as it was. -/

namespace Sys2Proof.Machine

/-! LinkRx. -/

theorem trainStart_kept (s : State) (g : GroupNo) : (State.trainStart s g).kept = s.kept := by
  unfold State.trainStart
  try dsimp only
  (repeat' split) <;> first | simp only [inject_kept, onGroup_kept] | rfl

theorem retrain_kept (s : State) (g : GroupNo) (fresh : Bool) : (State.retrain s g fresh).kept = s.kept := by
  unfold State.retrain
  try dsimp only
  (repeat' split) <;> first | simp only [bump_kept, trainStart_kept, onGroup_kept] | rfl

theorem sendTraining_kept (s : State) (g : GroupNo) : (State.sendTraining s g).kept = s.kept := by
  unfold State.sendTraining
  try dsimp only
  (repeat' split) <;> first | simp only [onGroup_kept] | rfl

theorem linkUpdate_kept (s : State) (g : GroupNo) : (State.linkUpdate s g).kept = s.kept := by
  unfold State.linkUpdate
  try dsimp only
  (repeat' split) <;> first | simp only [trainStart_kept, onGroup_kept] | rfl

theorem onChan_kept (s : State) (g : GroupNo) (v : Fin 8) (f : LinkChan → LinkChan) : (State.onChan s g v f).kept = s.kept := by
  unfold State.onChan
  try dsimp only
  (repeat' split) <;> first | simp only [onGroup_kept] | rfl

theorem finishRx_kept (s : State) (g : GroupNo) (v : Fin 8) (p : RxPacket) (cut : Bool) : (State.finishRx s g v p cut).kept = s.kept := by
  unfold State.finishRx
  try dsimp only
  (repeat' split) <;> first | simp only [bump_kept, event_kept, onChan_kept, useInjection_kept, onQuad_kept] | rfl

theorem showRx_kept (s : State) (g : GroupNo) (v : Fin 8) (p : RxPacket) : (State.showRx s g v p).kept = s.kept := by
  unfold State.showRx
  try dsimp only
  (repeat' split) <;> first | simp only [onQuad_kept] | rfl

theorem drainChan_kept (g : GroupNo) (v : Fin 8) (k : Nat) (s : State) : (State.drainChan g v k s).kept = s.kept := by
  induction k generalizing s with
  | zero => rfl
  | succ k ih =>
    unfold State.drainChan
    dsimp only
    (repeat' split) <;> first | simp only [ih, onChan_kept, bump_kept, retrain_kept, onQuad_kept, finishRx_kept, showRx_kept] | rfl

theorem cutAll_kept (s : State) (g : GroupNo) : (State.cutAll s g).kept = s.kept := by
  unfold State.cutAll
  refine foldl_kept _ (fun s v => ?_) _ _
  split
  · exact finishRx_kept ..
  · rfl

theorem freshHello_kept (s : State) (g : GroupNo) : (State.freshHello s g).kept = s.kept := by
  unfold State.freshHello
  try dsimp only
  (repeat' split) <;> first | simp only [bump_kept, cutAll_kept, onGroup_kept] | rfl

theorem startReplay_kept (s : State) (g : GroupNo) : (State.startReplay s g).kept = s.kept := by
  unfold State.startReplay
  try dsimp only
  (repeat' split) <;> first | simp only [bump_kept, event_kept, retrain_kept, onGroup_kept] | rfl

/-! Tick. -/

theorem beats_kept (s : State) (k : IslandNo) (code n bad : Nat) : (State.beats s k code n bad).kept = s.kept := by
  unfold State.beats
  try dsimp only
  (repeat' split) <;> first | simp only [useInjection_kept, onIsl_kept, Island_kept_mk, implies_true] | rfl

theorem mirrorBeats_kept (s t : State) : (State.mirrorBeats s t).kept = t.kept := by
  unfold State.mirrorBeats
  dsimp only
  split
  · exact beats_kept ..
  · rfl

theorem ackBeats_kept (s t : State) : (State.ackBeats s t).kept = t.kept := by
  unfold State.ackBeats
  dsimp only
  split
  · exact beats_kept ..
  · rfl

theorem laneCycles_kept (s t : State) (g : GroupNo) : (State.laneCycles s t g).kept = t.kept := by
  unfold State.laneCycles
  dsimp only
  (repeat' split) <;> first | simp only [event_kept, useInjection_kept] | rfl

theorem groupCycles_kept (s t : State) (g : GroupNo) : (State.groupCycles s t g).kept = t.kept := by
  unfold State.groupCycles
  simp only [sendTraining_kept, laneCycles_kept]

/-! Link. -/

theorem execPacketOpen_kept (x : QuadNo) (q maxWords : BitVec 16) (written : List PWord) (s : State) : Keeps s (execPacketOpen x q maxWords written s) := by
  unfold execPacketOpen
  try dsimp only
  (repeat' split) <;> (try refine keeps_guarded ?_) <;> (try dsimp only) <;> (try (repeat' split)) <;> first | simp only [drainChan_kept, onQuad_kept] | rfl

theorem loseMark_kept (s : State) (g : GroupNo) (lane : Fin 12) : (State.loseMark s g lane).kept = s.kept := by
  unfold State.loseMark
  try dsimp only
  (repeat' split) <;> first | simp only [event_kept, onGroup_kept] | rfl

theorem agree_kept (s : State) (g : GroupNo) : (State.agree s g).kept = s.kept := by
  unfold State.agree
  try dsimp only
  (repeat' split) <;> first | simp only [onGroup_kept] | rfl

theorem execMarkerReceive_kept (g : GroupNo) (lane : Fin 12) (w : BitVec 128) (s : State) : Keeps s (execMarkerReceive g lane w s) := by
  unfold execMarkerReceive
  try dsimp only
  (repeat' split) <;> (try refine keeps_guarded ?_) <;> (try dsimp only) <;> (try (repeat' split)) <;> first | simp only [agree_kept, loseMark_kept, onGroup_kept] | rfl

theorem execMarkerMissing_kept (g : GroupNo) (lane : Fin 12) (s : State) : Keeps s (execMarkerMissing g lane s) := by
  unfold execMarkerMissing
  try dsimp only
  (repeat' split) <;> (try refine keeps_guarded ?_) <;> (try dsimp only) <;> (try (repeat' split)) <;> first | simp only [loseMark_kept] | rfl

theorem execPmaRxLockFall_kept (g : GroupNo) (lane : Fin 12) (s : State) : Keeps s (execPmaRxLockFall g lane s) := by
  unfold execPmaRxLockFall
  try dsimp only
  (repeat' split) <;> (try refine keeps_guarded ?_) <;> (try dsimp only) <;> (try (repeat' split)) <;> first | simp only [event_kept, onGroup_kept] | rfl

theorem execPmaTxRdyChange_kept (g : GroupNo) (lane : Fin 12) (up : Bool) (s : State) : Keeps s (execPmaTxRdyChange g lane up s) := by
  unfold execPmaTxRdyChange
  try dsimp only
  (repeat' split) <;> (try refine keeps_guarded ?_) <;> (try dsimp only) <;> (try (repeat' split)) <;> first | simp only [keeps_next, linkUpdate_kept, onGroup_kept] | rfl

theorem refill_kept (g : GroupNo) (v : Fin 8) (k : Nat) (o : List ParityObs) (s : State) : (State.refill g v k o s).kept = s.kept := by
  induction k generalizing o s with
  | zero => rfl
  | succ k ih =>
    unfold State.refill
    dsimp only
    (repeat' split) <;> first | simp only [ih, onChan_kept, readPacket_kept] | rfl

theorem passAbandoned_kept (s : State) (g : GroupNo) (v : Fin 8) : (State.passAbandoned s g v).kept = s.kept := by
  unfold State.passAbandoned
  try dsimp only
  (repeat' split) <;> first | simp only [readPacket_kept] | rfl

theorem dataFlit_kept (s : State) (g : GroupNo) (v : Fin 8) (o : List ParityObs) : (s.dataFlit g v o).after.kept = s.kept := by
  unfold State.dataFlit
  dsimp only
  split <;> simp only [bump_kept, onGroup_kept, refill_kept]

theorem chooseFlit_kept (s : State) (g : GroupNo) (o : List ParityObs) : (s.chooseFlit g o).after.kept = s.kept := by
  unfold State.chooseFlit
  dsimp only
  have hp (l : List (Fin 8)) (t : State) : (l.foldl (fun s v => s.passAbandoned g v) t).kept = t.kept :=
    foldl_kept _ (fun s v => passAbandoned_kept ..) _ _
  (repeat' split) <;> first | simp only [bump_kept, onGroup_kept, dataFlit_kept, hp] | rfl

theorem execFlitSend_kept (g : GroupNo) (parity : List ParityObs) (s : State) : Keeps s (execFlitSend g parity s) := by
  unfold execFlitSend
  try dsimp only
  (repeat' split) <;> (try refine keeps_guarded ?_) <;> (try dsimp only) <;> (try (repeat' split)) <;> first | simp only [chooseFlit_kept, chooseFlit_kept, onGroup_kept] | rfl

theorem groupEnds_kept (s : State) (g : GroupNo) (up : Bool) : (State.groupEnds s g up).kept = s.kept := by
  unfold State.groupEnds
  try dsimp only
  (repeat' split) <;> first | simp only [kept_mk] | rfl

theorem helloReceive_kept (s : State) (g : GroupNo) (h : HelloMsg) : (State.helloReceive s g h).kept = s.kept := by
  unfold State.helloReceive
  try dsimp only
  (repeat' split) <;> first | simp only [bump_kept, freshHello_kept, groupEnds_kept, onGroup_kept] | rfl

theorem dataReceive_kept (s : State) (g : GroupNo) (seq : Nat) (v : Fin 8) (payload : List Byte) : (State.dataReceive s g seq v payload).kept = s.kept := by
  unfold State.dataReceive
  try dsimp only
  (repeat' split) <;> first | simp only [bump_kept, drainChan_kept, onGroup_kept] | rfl

theorem flitReceive_kept (s : State) (g : GroupNo) (flit : List Byte) (failed : Bool) : (State.flitReceive s g flit failed).kept = s.kept := by
  unfold State.flitReceive
  try dsimp only
  (repeat' split) <;> first | simp only [bump_kept, dataReceive_kept, event_kept, helloReceive_kept, startReplay_kept, useInjection_kept, onGroup_kept] | rfl

theorem takeFlits_kept (g : GroupNo) (k : Nat) (s : State) : (State.takeFlits g k s).kept = s.kept := by
  induction k generalizing s with
  | zero => rfl
  | succ k ih =>
    unfold State.takeFlits
    dsimp only
    split
    · rfl
    · simp only [ih, flitReceive_kept, onGroup_kept]

theorem frameReceive_kept (s : State) (g : GroupNo) (lanes : List (List (BitVec 10))) : (State.frameReceive s g lanes).kept = s.kept := by
  unfold State.frameReceive
  dsimp only
  have hf (l : List Nat) (c : Nat → Bool) (f : Nat → DetEvent) (s : State) :
      (l.foldl (fun s u => if c u then s.event (lgIsl g) (f u) else s) s).kept = s.kept :=
    foldl_kept _ (fun s b => by split <;> simp only [event_kept]) _ _
  rw [takeFlits_kept]
  split <;> simp only [bump_kept, event_kept, useInjection_kept, onGroup_kept, foldl_kept, ite_kept, ite_self, implies_true]

theorem lanesReceive_kept (s : State) (g : GroupNo) (words : List (List (BitVec 128))) : (State.lanesReceive s g words).kept = s.kept := by
  unfold State.lanesReceive
  try dsimp only
  (repeat' split) <;> first | simp only [frameReceive_kept, onGroup_kept] | rfl

theorem execReplayTimeout_kept (g : GroupNo) (s : State) : Keeps s (execReplayTimeout g s) := by
  unfold execReplayTimeout
  try dsimp only
  (repeat' split) <;> (try refine keeps_guarded ?_) <;> (try dsimp only) <;> (try (repeat' split)) <;> first | simp only [bump_kept, startReplay_kept] | rfl

theorem execTrainingTimeout_kept (g : GroupNo) (s : State) : Keeps s (execTrainingTimeout g s) := by
  unfold execTrainingTimeout
  try dsimp only
  (repeat' split) <;> (try refine keeps_guarded ?_) <;> (try dsimp only) <;> (try (repeat' split)) <;> first | simp only [event_kept, trainStart_kept] | rfl

theorem execLinkRetrain_kept (g : GroupNo) (s : State) : Keeps s (execLinkRetrain g s) := by
  unfold execLinkRetrain
  try dsimp only
  (repeat' split) <;> (try refine keeps_guarded ?_) <;> (try dsimp only) <;> (try (repeat' split)) <;> first | simp only [retrain_kept] | rfl

theorem execLinkRestart_kept (g : GroupNo) (s : State) : Keeps s (execLinkRestart g s) := by
  unfold execLinkRestart
  try dsimp only
  (repeat' split) <;> (try refine keeps_guarded ?_) <;> (try dsimp only) <;> (try (repeat' split)) <;> first | simp only [retrain_kept] | rfl

/-! Step7. -/

theorem sendJoin_kept (s : State) (m : BitVec 12) : (State.sendJoin s m).kept = s.kept := by
  unfold State.sendJoin
  try dsimp only
  (repeat' split) <;> first | simp only [request_kept, kept_mk] | rfl

theorem joinAll_kept (s : State) : (State.joinAll s).kept = s.kept := by
  unfold State.joinAll
  try dsimp only
  (repeat' split) <;> first | simp only [onEph_kept, sendJoin_kept, foldl_kept, implies_true] | rfl

theorem beginStep7_kept (s : State) : (State.beginStep7 s).kept = s.kept := by
  unfold State.beginStep7
  try dsimp only
  (repeat' split) <;> first | simp only [endStep7_kept, joinAll_kept, onEph_kept, request_kept] | rfl

theorem step7Check_kept (s : State) : (State.step7Check s).kept = s.kept := by
  unfold State.step7Check
  try dsimp only
  (repeat' split) <;> first | simp only [beginStep7_kept] | rfl

theorem execFrameReceive_kept (g : GroupNo) (words : List (List (BitVec 128))) (s : State) : Keeps s (execFrameReceive g words s) := by
  unfold execFrameReceive
  try dsimp only
  (repeat' split) <;> (try refine keeps_guarded ?_) <;> (try dsimp only) <;> (try (repeat' split)) <;> first | simp only [lanesReceive_kept, step7Check_kept, lanesReceive_kept, step7Check_kept] | rfl

theorem execLinkBringupBound_kept (g : GroupNo) (s : State) : Keeps s (execLinkBringupBound g s) := by
  unfold execLinkBringupBound
  try dsimp only
  (repeat' split) <;> (try refine keeps_guarded ?_) <;> (try dsimp only) <;> (try (repeat' split)) <;> first | simp only [keeps_next, groupEnds_kept, step7Check_kept, onGroup_kept] | rfl

theorem execJoinResend_kept (s : State) : Keeps s (execJoinResend s) := by
  unfold execJoinResend
  try dsimp only
  (repeat' split) <;> (try refine keeps_guarded ?_) <;> (try dsimp only) <;> (try (repeat' split)) <;> first | simp only [joinAll_kept] | rfl

theorem execMgrStepBound_kept (s : State) : Keeps s (execMgrStepBound s) := by
  unfold execMgrStepBound
  try dsimp only
  (repeat' split) <;> (try refine keeps_guarded ?_) <;> (try dsimp only) <;> (try (repeat' split)) <;> first | simp only [keeps_next, onEph_kept, kept_mk] | rfl

end Sys2Proof.Machine
end

