-- ==== Sys2Proof/Laws/FrameUnits.lean ====
section
/-! SUPPORT. Frame lemmas (pairs, merges, detectors, the Survey, the stream, register writes, start-up and reset): each operation leaves what `kept` collects as it was. -/

namespace Sys2Proof.Machine

/-! Pair. -/

theorem onPair_kept (s : State) (p : SliceNo) (f : Pair → Pair) : (State.onPair s p f).kept = s.kept := by
  unfold State.onPair
  try dsimp only
  (repeat' split) <;> first | simp only [onSlice_kept] | rfl

theorem declineJoin_kept (s : State) (p : SliceNo) : (State.declineJoin s p).kept = s.kept := by
  unfold State.declineJoin
  try dsimp only
  (repeat' split) <;> first | simp only [bump_kept, onRun_kept, onSlice_kept] | rfl

theorem joinPair_kept (s : State) (p : SliceNo) : (State.joinPair s p).kept = s.kept := by
  unfold State.joinPair
  try dsimp only
  (repeat' split) <;> first | simp only [bump_kept, onPair_kept] | rfl

theorem execPairJoin_kept (pair : Fin 16) (s : State) : Keeps s (execPairJoin pair s) := by
  unfold execPairJoin
  try dsimp only
  (repeat' split) <;> (try refine keeps_guarded ?_) <;> (try dsimp only) <;> (try (repeat' split)) <;> first | simp only [declineJoin_kept, joinPair_kept] | rfl

theorem execPairSeparate_kept (pair : Fin 16) (s : State) : Keeps s (execPairSeparate pair s) := by
  unfold execPairSeparate
  try dsimp only
  (repeat' split) <;> (try refine keeps_guarded ?_) <;> (try dsimp only) <;> (try (repeat' split)) <;> first | simp only [onPair_kept] | rfl

theorem execPortEndReadyNotice_kept (p : SliceNo) (s : State) : Keeps s (execPortEndReadyNotice p s) := by
  unfold execPortEndReadyNotice
  try dsimp only
  (repeat' split) <;> (try refine keeps_guarded ?_) <;> (try dsimp only) <;> (try (repeat' split)) <;> first | simp only [onPair_kept] | rfl

theorem execTwinTakeUp_kept (p : SliceNo) (s : State) : Keeps s (execTwinTakeUp p s) := by
  unfold execTwinTakeUp
  try dsimp only
  (repeat' split) <;> (try refine keeps_guarded ?_) <;> (try dsimp only) <;> (try (repeat' split)) <;> first | simp only [onSlice_kept] | rfl

/-! Sme. -/

theorem execEngineChoice_kept (p : SliceNo) (s0 : State) : Keeps s0 (execEngineChoice p s0) := by
  unfold execEngineChoice
  try dsimp only
  (repeat' split) <;> (try refine keeps_guarded ?_) <;> (try dsimp only) <;> (try (repeat' split)) <;> first | simp only [keeps_next, askMaps_kept, bump_kept, dpeAbsorb_kept, onSlice_kept] | rfl

theorem askChunk_kept (s : State) (p : SliceNo) (j : MatJob) (g : SJob) : (State.askChunk s p j g).kept = s.kept := by
  unfold State.askChunk
  try dsimp only
  (repeat' split) <;> first | simp only [onSme_kept, openStream_kept] | rfl

theorem voidJob_kept (s : State) (p : SliceNo) (j : MatJob) (g : SJob) : (State.voidJob s p j g).kept = s.kept := by
  unfold State.voidJob
  try dsimp only
  (repeat' split) <;> first | simp only [bump_kept, onRun_kept, onSlice_kept] | rfl

theorem queueChunk_kept (s : State) (p : SliceNo) (j : MatJob) (g : SJob) : (State.queueChunk s p j g).kept = s.kept := by
  unfold State.queueChunk
  try dsimp only
  (repeat' split) <;> first | simp only [onSme_kept, voidJob_kept] | rfl

theorem chunkNext_kept (s0 : State) (p : SliceNo) (j : MatJob) : (State.chunkNext s0 p j).kept = s0.kept := by
  unfold State.chunkNext
  try dsimp only
  (repeat' split) <;> first | simp only [askChunk_kept, onSme_kept, queueChunk_kept, smeAbsorb_kept] | rfl

theorem execChunkQueue_kept (p : SliceNo) (s : State) : Keeps s (execChunkQueue p s) := by
  unfold execChunkQueue
  try dsimp only
  (repeat' split) <;> (try refine keeps_guarded ?_) <;> (try dsimp only) <;> (try (repeat' split)) <;> first | simp only [keeps_next, chunkNext_kept] | rfl

theorem lanePair_kept (s : State) (p : SliceNo) (j : MatJob) (w : LaneWork) : (State.lanePair s p j w).kept = s.kept := by
  unfold State.lanePair
  try dsimp only
  (repeat' split) <;> first | simp only [bump_kept, event_kept, inject_kept, onSme_kept, taskEnds_kept] | rfl

theorem execTaskRun_kept (p : SliceNo) (lane : Fin 32) (s : State) : Keeps s (execTaskRun p lane s) := by
  unfold execTaskRun
  try dsimp only
  (repeat' split) <;> (try refine keeps_guarded ?_) <;> (try dsimp only) <;> (try (repeat' split)) <;> first | simp only [keeps_next, lanePair_kept, onSme_kept, taskEnds_kept] | rfl

theorem execWorkSteal_kept (p : SliceNo) (lane : Fin 32) (s : State) : Keeps s (execWorkSteal p lane s) := by
  unfold execWorkSteal
  try dsimp only
  (repeat' split) <;> (try refine keeps_guarded ?_) <;> (try dsimp only) <;> (try (repeat' split)) <;> first | simp only [keeps_next, bump_kept, onSme_kept] | rfl

theorem stripAdd_kept (s : State) (p : SliceNo) (j : MatJob) (l : List HEnt) : KeepsO s (State.stripAdd s p j l) := by
  unfold State.stripAdd
  try dsimp only
  (repeat' split) <;> first | trivial | (simp only [KeepsO, bump_kept, onRun_kept, onSme_kept])

theorem stripFlush_kept (s : State) (p : SliceNo) (j : MatJob) (all : Bool) : (State.stripFlush s p j all).kept = s.kept := by
  unfold State.stripFlush
  try dsimp only
  (repeat' split) <;> first | simp only [onSme_kept, stripWrite_kept, foldl_kept, implies_true] | rfl

theorem execSpillRecordWrite_kept (p : SliceNo) (s : State) : Keeps s (execSpillRecordWrite p s) := by
  unfold execSpillRecordWrite
  dsimp only
  split
  · refine keeps_guarded ?_
    split
    · simp only [exhaust_kept]
    · have h := keepsO_some (stripAdd_kept ..) ‹_›
      split <;> simp only [stripFlush_kept, stripKnown_kept, h, onSme_kept]
  · exact rfl

theorem execGroupEnd_kept (p : SliceNo) (s : State) : Keeps s (execGroupEnd p s) := by
  unfold execGroupEnd
  dsimp only
  split
  · exact rfl
  · refine keeps_guarded ?_
    (repeat' split) <;> first | exact stripKnown_kept .. | exact drainJobs_kept .. | exact (onSme_kept ..).trans (drainJobs_kept ..) |
      exact (exhaust_kept ..).trans (drainJobs_kept ..) |
      exact (stripFlush_kept ..).trans ((keepsO_some (stripAdd_kept ..) ‹_›).trans ((onSme_kept ..).trans (drainJobs_kept ..)))

theorem drainRound_kept (s : State) (p : SliceNo) (j : MatJob) : (State.drainRound s p j).kept = s.kept := by
  unfold State.drainRound
  try dsimp only
  (repeat' split) <;> first | simp only [drainJobs_kept, onSme_kept] | rfl

theorem execDrainRound_kept (p : SliceNo) (s : State) : Keeps s (execDrainRound p s) := by
  unfold execDrainRound
  try dsimp only
  (repeat' split) <;> (try refine keeps_guarded ?_) <;> (try dsimp only) <;> (try (repeat' split)) <;> first | simp only [keeps_next, bump_kept, drainRound_kept, onSme_kept, openStream_kept, onSlice_kept] | rfl

/-! Detect. -/

theorem Island_putDet_kept (i : Island) (d : Det) : (Island.putDet i d).kept = i.kept := by
  unfold Island.putDet
  try dsimp only
  (repeat' split) <;> first | simp only [Island_kept_mk] | rfl

theorem execDetectorWindowStart_kept (k : IslandNo) (code inst : BitVec 16) (s : State) : Keeps s (execDetectorWindowStart k code inst s) := by
  unfold execDetectorWindowStart
  try dsimp only
  (repeat' split) <;> (try refine keeps_guarded ?_) <;> (try dsimp only) <;> (try (repeat' split)) <;> first | simp only [Island_putDet_kept, onIsl_kept, implies_true] | rfl

theorem healsFailAt_kept (s : State) (p : SliceNo) : (State.healsFailAt s p).kept = s.kept := by
  unfold State.healsFailAt
  try dsimp only
  (repeat' split) <;> first | simp only [kept_mk, onSlice_kept] | rfl

theorem pathLost_kept (s0 : State) (p : SliceNo) : (State.pathLost s0 p).kept = s0.kept := by
  unfold State.pathLost
  try dsimp only
  (repeat' split) <;> first | simp only [failRun_kept, healsFailAt_kept, histAborts_kept, onPair_kept, foldl_kept, implies_true] | rfl

theorem shutDatapath_kept (s : State) (p : SliceNo) : (State.shutDatapath s p).kept = s.kept := by
  unfold State.shutDatapath
  try dsimp only
  (repeat' split) <;> first | simp only [abandonCommit_kept, loseDevice_kept, onPair_kept, pathLost_kept, shutIsland_kept, onSlice_kept, foldl_kept, implies_true] | rfl

theorem shutGroup_kept (s : State) (g : GroupNo) : (State.shutGroup s g).kept = s.kept := by
  unfold State.shutGroup
  try dsimp only
  (repeat' split) <;> first | simp only [shutIsland_kept, step7Check_kept, onGroup_kept] | rfl

theorem surveyStops_kept (s : State) : (State.surveyStops s).kept = s.kept := by
  unfold State.surveyStops
  try dsimp only
  (repeat' split) <;> first | simp only [failRun_kept, kept_mk, foldl_kept, implies_true] | rfl

theorem spgStops_kept (s : State) : (State.spgStops s).kept = s.kept := by
  unfold State.spgStops
  try dsimp only
  (repeat' split) <;> first | simp only [slotCmdEnd_kept, kept_mk, foldl_kept, implies_true] | rfl

theorem shutService_kept (s : State) (k : IslandNo) : (State.shutService s k).kept = s.kept := by
  unfold State.shutService
  try dsimp only
  (repeat' split) <;> first | simp only [shutIsland_kept, spgStops_kept, surveyStops_kept] | rfl

theorem quadLost_kept (s : State) : (State.quadLost s).kept = s.kept := by
  unfold State.quadLost
  try dsimp only
  (repeat' split) <;> first | simp only [bridgeCut_kept, failRun_kept, foldl_kept, implies_true] | rfl

theorem retireCell_kept (s : State) (x : QuadNo) (cell : Nat) : (State.retireCell s x cell).kept = s.kept := by
  unfold State.retireCell
  try dsimp only
  (repeat' split) <;> first | simp only [quadLost_kept, shutIsland_kept, onQuad_kept] | rfl

theorem moveTasks_kept (s : State) (p : SliceNo) (lane : Nat) : (State.moveTasks s p lane).kept = s.kept := by
  unfold State.moveTasks
  try dsimp only
  (repeat' split) <;> first | simp only [onSme_kept] | rfl

theorem noteTakeover_kept (s : State) (d : Nat) (unmirrored : Bool) : (State.noteTakeover s d unmirrored).kept = s.kept := by
  unfold State.noteTakeover
  try dsimp only
  (repeat' split) <;> first | simp only [emit_kept] | rfl

theorem takeover_kept (s : State) : (State.takeover s).kept = s.kept := by
  unfold State.takeover
  try dsimp only
  (repeat' split) <;> first | simp only [endStep7_kept, noteTakeover_kept, onEph_kept] | rfl

theorem runUnmirrored_kept (s : State) : (State.runUnmirrored s).kept = s.kept := by
  unfold State.runUnmirrored
  try dsimp only
  (repeat' split) <;> first | (simp only [endStep7_kept, mirrored_kept, noteTakeover_kept, onEph_kept, kept_mk, onIsl_kept, onSlice_kept, onQuad_kept, onGroup_kept, onIslands_kept, foldl_kept, map_kept, mapIdx_kept, map_set_kept, Island_kept_mk, ite_kept, ite_isl_kept, ite_self, implies_true]; done) | ((try simp only [endStep7_kept, mirrored_kept, noteTakeover_kept, onEph_kept, kept_mk, onIsl_kept, onSlice_kept, onQuad_kept, onGroup_kept, onIslands_kept, foldl_kept, map_kept, mapIdx_kept, map_set_kept, Island_kept_mk, ite_kept, ite_isl_kept, ite_self, implies_true]) <;> refine (foldl_kept _ (fun s b => ?_) _ _).trans ?_ <;> (try dsimp only) <;> (try (repeat' split)) <;> first | (simp only [endStep7_kept, mirrored_kept, noteTakeover_kept, onEph_kept, kept_mk]; done) | rfl)

theorem mirrorAgain_kept (s : State) (r : FabReq) : (State.mirrorAgain s r).kept = s.kept := by
  unfold State.mirrorAgain
  try dsimp only
  (repeat' split) <;> first | simp only [dropReq_kept, onEph_kept, request_kept] | rfl

theorem execMirrorBeat_kept (s : State) : Keeps s (execMirrorBeat s) := by
  unfold execMirrorBeat
  try dsimp only
  (repeat' split) <;> (try refine keeps_guarded ?_) <;> (try dsimp only) <;> (try (repeat' split)) <;> first | simp only [mirrorAgain_kept, onEph_kept, request_kept, foldl_kept, implies_true] | rfl

theorem poisonWord_kept (s : State) (p : SliceNo) (oid : BitVec 40) (k : BitVec 24) : (State.poisonWord s p oid k).kept = s.kept := by
  unfold State.poisonWord
  try dsimp only
  (repeat' split) <;> first | simp only [noteTaint_kept, onSlice_kept] | rfl

theorem eventAct_kept (s : State) (k : IslandNo) (e : DetEvent) (found becomes : Bool) : (State.eventAct s k e found becomes).kept = s.kept := by
  unfold State.eventAct
  try dsimp only
  (repeat' split) <;> first | simp only [mirrorAgain_kept, onEph_kept, onSme_kept, poisonWord_kept, retrain_kept, onSlice_kept, foldl_kept, implies_true] | rfl

theorem lastingAct_kept (s : State) (k : IslandNo) (e : DetEvent) : (State.lastingAct s k e).kept = s.kept := by
  unfold State.lastingAct
  try dsimp only
  (repeat' split) <;> first | simp only [moveTasks_kept, retireCell_kept, retrain_kept, runUnmirrored_kept, shutDatapath_kept, shutDevice_kept, shutGroup_kept, shutService_kept, takeover_kept, kept_mk, onSlice_kept, onGroup_kept] | rfl

theorem execDetectorEvent_kept (k : IslandNo) (e : DetEvent) (s : State) : Keeps s (execDetectorEvent k e s) := by
  unfold execDetectorEvent
  try dsimp only
  (repeat' split) <;> (try refine keeps_guarded ?_) <;> (try dsimp only) <;> (try (repeat' split)) <;> first | simp only [emit_kept, eventAct_kept, lastingAct_kept, Island_putDet_kept, useInjection_kept, onIsl_kept, Island_kept_mk, implies_true] | rfl

theorem execHaltSet_kept (mask : BitVec 16) (s : State) : Keeps s (execHaltSet mask s) := by
  unfold execHaltSet
  try dsimp only
  (repeat' split) <;> (try refine keeps_guarded ?_) <;> (try dsimp only) <;> (try (repeat' split)) <;> first | simp only [haltDomain_kept, foldl_kept, ite_kept, ite_self, implies_true] | rfl

/-! Survey. -/

theorem onSvy_kept (s : State) (f : SvyS → SvyS) : (State.onSvy s f).kept = s.kept := by
  unfold State.onSvy
  try dsimp only
  (repeat' split) <;> first | simp only [kept_mk] | rfl

theorem askHeader_kept (s : State) (h : Heal) (o : ObjRec) (q : Nat) (rest : List Nat) : (State.askHeader s h o q rest).kept = s.kept := by
  unfold State.askHeader
  try dsimp only
  (repeat' split) <;> first | simp only [askLines_kept, healHeader_kept, lookup_kept, newId_kept, onHeal_kept, putJob_kept, request_kept] | rfl

theorem readMaster_kept (s : State) (h : Heal) : (State.readMaster s h).kept = s.kept := by
  unfold State.readMaster
  try dsimp only
  (repeat' split) <;> first | simp only [eyeAsk_kept, healStored_kept, onHeal_kept, openStream_kept, queryRecord_kept] | rfl

theorem rebuildIndex_kept (s : State) (h : Heal) (o : ObjRec) (p : SliceNo) (base : Nat) : (State.rebuildIndex s h o p base).kept = s.kept := by
  unfold State.rebuildIndex
  try dsimp only
  (repeat' split) <;> first | simp only [bump_kept, healStored_kept, newId_kept, onHeal_kept, startWrite_kept, onSlice_kept] | rfl

theorem indexHeal_kept (s : State) (h : Heal) (o : ObjRec) : KeepsO s (State.indexHeal s h o) := by
  unfold State.indexHeal
  try dsimp only
  (repeat' split) <;> first | trivial | (simp only [KeepsO, memReq_kept, onHeal_kept, rebuildIndex_kept, foldl_kept, implies_true])

theorem healStep_kept (s : State) (h : Heal) : KeepsO s (State.healStep s h) := by
  unfold State.healStep
  (repeat' split) <;> first | trivial | exact indexHeal_kept .. | simp only [KeepsO, askHeader_kept, queryRecord_kept, readMaster_kept]

theorem beginHeal_kept (s : State) (d : Dark) : (State.beginHeal s d).kept = s.kept := by
  unfold State.beginHeal
  try dsimp only
  (repeat' split) <;> first | simp only [onEph_kept, onSvy_kept] | rfl

theorem execHealStart_kept (s : State) : Keeps s (execHealStart s) := by
  unfold execHealStart
  dsimp only
  refine keeps_guarded ?_
  split
  · rename_i e
    exact keepsO_some (keepsO_findSome _ _ fun h => healStep_kept s h) e
  · (repeat' split) <;> first | simp only [beginHeal_kept] | rfl

theorem rewritePoison_kept (s : State) (h : Heal) (o : ObjRec) : (State.rewritePoison s h o).kept = s.kept := by
  unfold State.rewritePoison
  try dsimp only
  (repeat' split) <;> first | simp only [homeWrite_kept, onEph_kept, receiveWrite_kept] | rfl

theorem askAgain_kept (s : State) (p : SliceNo) (id : Nat) : (State.askAgain s p id).kept = s.kept := by
  unfold State.askAgain
  try dsimp only
  (repeat' split) <;> first | simp only [eyeAsk_kept, onSlice_kept] | rfl

theorem healRelease_kept (s : State) (h : Heal) (who : Parked) : (State.healRelease s h who).kept = s.kept := by
  unfold State.healRelease
  try dsimp only
  (repeat' split) <;> first | simp only [askAgain_kept, eyeDeliver_kept, failRun_kept, healStored_kept, onRun_kept, post_kept, postData_kept, readHome_kept, onSlice_kept] | rfl

theorem execHealEnd_kept (oid : BitVec 40) (plate : BitVec 24) (s : State) : Keeps s (execHealEnd oid plate s) := by
  unfold execHealEnd
  try dsimp only
  (repeat' split) <;> (try refine keeps_guarded ?_) <;> (try dsimp only) <;> (try (repeat' split)) <;> first | simp only [keeps_next, bump_kept, emit_kept, haltDomain_kept, healRelease_kept, onEph_kept, onSvy_kept, rewritePoison_kept, foldl_kept, implies_true] | rfl

theorem scrubRead_kept (s : State) (q : SliceNo) (a : Nat) (run : Option Nat) : KeepsO s (State.scrubRead s q a run) := by
  unfold State.scrubRead
  refine keepsO_map _ _ fun id => ?_
  simp only [bump_kept, memReq_kept]

theorem scrubIndex_kept (s : State) (q : SliceNo) (a : Nat) : KeepsO s (State.scrubIndex s q a) := by
  unfold State.scrubIndex
  try dsimp only
  (repeat' split) <;> first | trivial | (simp only [KeepsO, beginJob_kept, newId_kept])

theorem scrubWalk_kept (q : SliceNo) (run : Option Nat) (stop f a n : Nat) (s : State) (r : Nat) :
    (State.scrubWalk q run stop f a n s r).1.kept = s.kept := by
  induction f generalizing a n s r with
  | zero => rfl
  | succ f ih =>
    unfold State.scrubWalk
    split
    · rfl
    · split
      · exact keepsO_some (scrubIndex_kept ..) ‹_›
      · split
        · rw [ih]; exact keepsO_some (scrubRead_kept ..) ‹_›
        · exact ih ..


theorem scrubJob_kept (s : State) (j : ScrubJob) : (State.scrubJob s j).1.kept = s.kept := by
  unfold State.scrubJob
  try dsimp only
  (repeat' split) <;> first | simp only [scrubWalk_kept, scrubWalk_kept] | rfl

theorem scrubAll_kept (s : State) : (State.scrubAll s).kept = s.kept := by
  unfold State.scrubAll
  dsimp only
  rw [onSvy_kept]
  refine foldl_fst_kept _ (fun a b => ?_) _ _
  exact scrubJob_kept ..

theorem patrolSlice_kept (s : State) (q : SliceNo) : (State.patrolSlice s q).kept = s.kept := by
  unfold State.patrolSlice
  try dsimp only
  (repeat' split) <;> first | simp only [onSvy_kept, scrubWalk_kept, scrubWalk_kept] | rfl

theorem execPatrolBurst_kept (s : State) : Keeps s (execPatrolBurst s) := by
  unfold execPatrolBurst
  try dsimp only
  (repeat' split) <;> (try refine keeps_guarded ?_) <;> (try dsimp only) <;> (try (repeat' split)) <;> first | simp only [onSvy_kept, patrolSlice_kept, scrubAll_kept, foldl_kept, implies_true] | rfl

theorem execAuditCompare_kept (differs : Bool) (s : State) : Keeps s (execAuditCompare differs s) := by
  unfold execAuditCompare
  try dsimp only
  (repeat' split) <;> (try refine keeps_guarded ?_) <;> (try dsimp only) <;> (try (repeat' split)) <;> first | simp only [keeps_next, bump_kept, event_kept, inject_kept, onEph_kept, onSvy_kept] | rfl

/-! Stream. -/

theorem rejectStream_kept (s : State) (e : SsErr) (type inst off : Nat) : (State.rejectStream s e type inst off).kept = s.kept := by
  unfold State.rejectStream
  try dsimp only
  (repeat' split) <;> first | simp only [emit_kept, kept_mk] | rfl

theorem Island_deliver_kept (i : Island) (c : Conf) : (Island.deliver i c).kept = i.kept := by
  unfold Island.deliver
  try dsimp only
  (repeat' split) <;> simp_all [Island.kept]

theorem Island_liveRecords_kept (i : Island) (recs : List Rec) : (Island.liveRecords i recs).kept = i.kept := by
  unfold Island.liveRecords
  try dsimp only
  (repeat' split) <;> simp_all [Island.kept]

theorem execStreamTruncated_kept (s : State) : Keeps s (execStreamTruncated s) := by
  unfold execStreamTruncated
  try dsimp only
  (repeat' split) <;> (try refine keeps_guarded ?_) <;> (try dsimp only) <;> (try (repeat' split)) <;> first | simp only [keeps_next, rejectStream_kept] | rfl

theorem execStreamResyncEnd_kept (s : State) : Keeps s (execStreamResyncEnd s) := by
  unfold execStreamResyncEnd
  try dsimp only
  (repeat' split) <;> (try refine keeps_guarded ?_) <;> (try dsimp only) <;> (try (repeat' split)) <;> first | simp only [kept_mk] | rfl

/-! RegWrite. -/

theorem askQuiesce_kept (s : State) (k : IslandNo) : (State.askQuiesce s k).kept = s.kept := by
  unfold State.askQuiesce
  try dsimp only
  (repeat' split) <;> first | simp only [kept_mk, onIsl_kept, Island_kept_mk, implies_true] | rfl

theorem Island_detsUnder_kept (i : Island) (new : Conf) : (Island.detsUnder i new).kept = i.kept := by
  unfold Island.detsUnder
  try dsimp only
  (repeat' split) <;> first | simp only [Island_kept_mk] | rfl

theorem Island_released_kept (i : Island) : (Island.released i).kept = i.kept := by
  unfold Island.released
  dsimp only
  (repeat' split) <;> simp_all [Island.kept, Island.enter, Island.detsUnder]

theorem linksOf_kept (s : State) (k : IslandNo) : (State.linksOf s k).kept = s.kept := by
  unfold State.linksOf
  try dsimp only
  (repeat' split) <;> first | simp only [linkUpdate_kept, foldl_kept, implies_true] | rfl

theorem tablesResume_kept (s : State) (k : IslandNo) : (State.tablesResume s k).kept = s.kept := by
  unfold State.tablesResume
  try dsimp only
  (repeat' split) <;> first | simp only [histAll_kept, histNext_kept, slotGo_kept, foldl_kept, implies_true] | rfl

theorem releaseQuiesce_kept (s : State) (k : IslandNo) : (State.releaseQuiesce s k).kept = s.kept := by
  unfold State.releaseQuiesce
  try dsimp only
  (repeat' split) <;> first | simp only [linksOf_kept, Island_released_kept, tablesResume_kept, kept_mk, onIsl_kept, implies_true] | rfl

theorem writeQuiesce_kept (s : State) (w : W64) : (State.writeQuiesce s w).kept = s.kept := by
  unfold State.writeQuiesce
  try dsimp only
  (repeat' split) <;> first | simp only [askQuiesce_kept, releaseQuiesce_kept, foldl_kept, ite_kept, ite_self, implies_true] | rfl

theorem execQuiesceRequest_kept (k : IslandNo) (s : State) : Keeps s (execQuiesceRequest k s) := by
  unfold execQuiesceRequest
  try dsimp only
  (repeat' split) <;> (try refine keeps_guarded ?_) <;> (try dsimp only) <;> (try (repeat' split)) <;> first | simp only [askQuiesce_kept] | rfl

theorem execQuiesceRelease_kept (k : IslandNo) (s : State) : Keeps s (execQuiesceRelease k s) := by
  unfold execQuiesceRelease
  try dsimp only
  (repeat' split) <;> (try refine keeps_guarded ?_) <;> (try dsimp only) <;> (try (repeat' split)) <;> first | simp only [releaseQuiesce_kept] | rfl

theorem execIslandQuiesced_kept (k : IslandNo) (s : State) : Keeps s (execIslandQuiesced k s) := by
  unfold execIslandQuiesced
  try dsimp only
  (repeat' split) <;> (try refine keeps_guarded ?_) <;> (try dsimp only) <;> (try (repeat' split)) <;> first | simp only [enter_kept, onIsl_kept, implies_true] | rfl

theorem spreadKey_kept (s : State) (c : Conf) (n : Nat) (key : List Byte) : (State.spreadKey s c n key).kept = s.kept := by
  unfold State.spreadKey
  try dsimp only
  (repeat' split) <;> first | simp only [kept_mk] | rfl

theorem lgWrite_kept (s : State) (g : GroupNo) (off : Nat) (w : W64) : (State.lgWrite s g off w).kept = s.kept := by
  unfold State.lgWrite
  try dsimp only
  (repeat' split) <;> first | simp only [retrain_kept, onGroup_kept] | rfl

theorem writeQueueCtl_kept (s : State) (q : Fin 64) (w : W64) : (State.writeQueueCtl s q w).kept = s.kept := by
  unfold State.writeQueueCtl
  try dsimp only
  (repeat' split) <;> first | simp only [onCq_kept, queueReset_kept] | rfl

theorem ephWrite_kept (s : State) (off : Nat) (w : W64) : (State.ephWrite s off w).2.kept = s.kept := by
  unfold State.ephWrite
  try dsimp only
  (repeat' split) <;> first | simp only [haltDomain_kept, kept_mk, foldl_kept, ite_kept, ite_self, implies_true] | rfl

theorem logWrite_kept (s : State) (off : Nat) (w : W64) : (State.logWrite s off w).kept = s.kept := by
  unfold State.logWrite
  try dsimp only
  (repeat' split) <;> first | simp only [kept_mk, onQuad_kept] | rfl

theorem injWrite_kept (s : State) (off : Nat) (w : W64) : (State.injWrite s off w).2.kept = s.kept := by
  unfold State.injWrite
  try dsimp only
  (repeat' split) <;> first | simp only [arm_kept, cancelArm_kept, kept_mk] | rfl

theorem readAnswer_kept (s : State) (tag : BitVec 4) (addr : BitVec 21) (via : List (IslandNo × Crossing)) : (State.readAnswer s tag addr via).kept = s.kept := by
  unfold State.readAnswer
  try dsimp only
  (repeat' split) <;> first | simp only [answer_kept, freeNat_kept, readQueueWord_kept] | rfl

/-! Startup. -/

theorem execCfgSelfTestEnd_kept (pass : Bool) (s : State) : Keeps s (execCfgSelfTestEnd pass s) := by
  unfold execCfgSelfTestEnd
  try dsimp only
  (repeat' split) <;> (try refine keeps_guarded ?_) <;> (try dsimp only) <;> (try (repeat' split)) <;> first | simp only [kept_mk] | rfl

theorem openSegment_kept (s : State) (k : IslandNo) : (State.openSegment s k).kept = s.kept := by
  unfold State.openSegment
  try dsimp only
  (repeat' split) <;> first | simp only [kept_mk] | rfl

theorem execBistNetworkStart_kept (k : IslandNo) (s : State) : Keeps s (execBistNetworkStart k s) := by
  unfold execBistNetworkStart
  dsimp only
  split <;> simp only [freeBit_kept, openSegment_kept, onIsl_kept, Island_kept_mk, implies_true, Keeps]

theorem execActUpExpire_kept (p : SliceNo) (s : State) : Keeps s (execActUpExpire p s) := by
  unfold execActUpExpire
  try dsimp only
  (repeat' split) <;> (try refine keeps_guarded ?_) <;> (try dsimp only) <;> (try (repeat' split)) <;> first | simp only [onSlice_kept] | rfl

theorem copySlots_kept (s : State) (p : SliceNo) : (State.copySlots s p).kept = s.kept := by
  unfold State.copySlots
  try dsimp only
  (repeat' split) <;> first | simp only [onSlice_kept] | rfl

theorem spgEnters_kept (s : State) : (State.spgEnters s).kept = s.kept := by
  unfold State.spgEnters
  try dsimp only
  (repeat' split) <;> first | simp only [spgStops_kept, unparkAll_kept, kept_mk, foldl_kept, implies_true] | rfl

theorem ephEnters_kept (s : State) : (State.ephEnters s).kept = s.kept := by
  unfold State.ephEnters
  try dsimp only
  (repeat' split) <;> first | simp only [onEph_kept] | rfl

theorem mirEnters_kept (s : State) : (State.mirEnters s).kept = s.kept := by
  unfold State.mirEnters
  try dsimp only
  (repeat' split) <;> first | simp only [onEph_kept] | rfl

theorem enterRun_kept (s : State) (k : IslandNo) : (State.enterRun s k).kept = s.kept := by
  unfold State.enterRun
  try dsimp only
  (repeat' split) <;> first | simp only [copySlots_kept, enter_kept, ephEnters_kept, linksOf_kept, mirEnters_kept, Island_reportEmptied_kept, spgEnters_kept, tablesResume_kept, onIsl_kept, implies_true] | rfl

theorem bridgeFromStart_kept (s : State) (p : SliceNo) : (State.bridgeFromStart s p).kept = s.kept := by
  unfold State.bridgeFromStart
  try dsimp only
  (repeat' split) <;> first | simp only [onMp_kept, onPair_kept] | rfl

theorem leaveOut_kept (s : State) (p : SliceNo) : (State.leaveOut s p).kept = s.kept := by
  unfold State.leaveOut
  try dsimp only
  (repeat' split) <;> first | simp only [onMp_kept, portEnds_kept, shutDevice_kept] | rfl

theorem shutFailed_kept (s : State) (k : IslandNo) : (State.shutFailed s k).kept = s.kept := by
  unfold State.shutFailed
  try dsimp only
  (repeat' split) <;> first | simp only [shutDatapath_kept, shutGroup_kept, shutService_kept] | rfl

theorem portStarts_kept (s : State) (p : SliceNo) : (State.portStarts s p).kept = s.kept := by
  unfold State.portStarts
  try dsimp only
  (repeat' split) <;> first | simp only [bridgeFromStart_kept, leaveOut_kept, onMp_kept] | rfl

theorem execIslandBist_kept (k : IslandNo) (pass : Bool) (s : State) : Keeps s (execIslandBist k pass s) := by
  unfold execIslandBist
  try dsimp only
  (repeat' split) <;> (try refine keeps_guarded ?_) <;> (try dsimp only) <;> (try (repeat' split)) <;> first | simp only [enterRun_kept, portStarts_kept, shutFailed_kept, step7Check_kept, kept_mk, onIsl_kept, Island_kept_mk, implies_true] | rfl

theorem execEphReloadEnd_kept (s : State) : Keeps s (execEphReloadEnd s) := by
  unfold execEphReloadEnd
  try dsimp only
  (repeat' split) <;> (try refine keeps_guarded ?_) <;> (try dsimp only) <;> (try (repeat' split)) <;> first | simp only [beginStep7_kept, endStep7_kept, mirDir_kept, onEph_kept] | rfl

theorem execCmdEnable_kept (s : State) : Keeps s (execCmdEnable s) := by
  unfold execCmdEnable
  try dsimp only
  (repeat' split) <;> (try refine keeps_guarded ?_) <;> (try dsimp only) <;> (try (repeat' split)) <;> first | simp only [enterRun_kept] | rfl

theorem execReadySet_kept (s : State) : Keeps s (execReadySet s) := by
  unfold execReadySet
  try dsimp only
  (repeat' split) <;> (try refine keeps_guarded ?_) <;> (try dsimp only) <;> (try (repeat' split)) <;> first | simp only [kept_mk] | rfl

theorem execReadyClear_kept (s : State) : Keeps s (execReadyClear s) := by
  unfold execReadyClear
  try dsimp only
  (repeat' split) <;> (try refine keeps_guarded ?_) <;> (try dsimp only) <;> (try (repeat' split)) <;> first | simp only [kept_mk] | rfl

theorem execCheckWindowClose_kept (s : State) : Keeps s (execCheckWindowClose s) := by
  unfold execCheckWindowClose
  refine keeps_guarded (kept_mk _ _ _ _ _ _ _ _ _ _ _ _ _ _ _ _ _ _ (map_kept _ _ fun i => rfl) rfl rfl rfl)

/-! Reset. -/

theorem readLost_kept (s : State) (p : SliceNo) (j : RJob) : (State.readLost s p j).kept = s.kept := by
  unfold State.readLost
  try dsimp only
  (repeat' split) <;> first | simp only [deliver_kept, moveFails_kept, readFailed_kept] | rfl

theorem lineLost_kept (s : State) (r : MemReq) : (State.lineLost s r).kept = s.kept := by
  unfold State.lineLost
  try dsimp only
  (repeat' split) <;> first | simp only [lineCame_kept] | rfl

theorem writeLost_kept (s : State) (run : Option Nat) (slot : Option (SliceNo × Fin 64)) (heal : Bool) (oid : BitVec 40) (k : BitVec 24) : (State.writeLost s run slot heal oid k).kept = s.kept := by
  unfold State.writeLost
  try dsimp only
  (repeat' split) <;> first | simp only [failRun_kept, healStored_kept, releaseSlot_kept] | rfl

theorem jobLost_kept (s : State) (j : WJob) : (State.jobLost s j).kept = s.kept := by
  unfold State.jobLost
  try dsimp only
  (repeat' split) <;> first | simp only [abandonIfLost_kept, writeLost_kept, kept_mk] | rfl

theorem commitLost_kept (s : State) (p : SliceNo) (m : Commit) : (State.commitLost s p m).kept = s.kept := by
  unfold State.commitLost
  try dsimp only
  (repeat' split) <;> first | simp only [abandonCommit_kept, failRun_kept, onSlice_kept] | rfl

theorem dstLost_kept (s : State) (d : MvDst) : (State.dstLost s d).kept = s.kept := by
  unfold State.dstLost
  try dsimp only
  (repeat' split) <;> first | simp only [copyDoneIfAll_kept, kept_mk] | rfl

theorem unitReqLost_kept (s : State) (r : FabReq) : (State.unitReqLost s r).kept = s.kept := by
  unfold State.unitReqLost
  try dsimp only
  (repeat' split) <;> first | simp only [failRun_kept, writeLost_kept] | rfl

theorem homeLost_kept (s : State) (q : SliceNo) : (State.homeLost s q).kept = s.kept := by
  unfold State.homeLost
  try dsimp only
  (repeat' split) <;> first | (simp only [kept_mk, onSlice_kept]; done) | ((try simp only [kept_mk, onSlice_kept]) <;> refine (foldl_kept _ (fun s b => ?_) _ _).trans ?_ <;> (try dsimp only) <;> (try (repeat' split)) <;> first | (simp only [dstLost_kept, jobLost_kept, readLost_kept, refuseMove_kept, writeLost_kept, foldl_kept, implies_true]; done) | rfl)

theorem resetSlice_kept (s : State) (p : SliceNo) : (State.resetSlice s p).kept = s.kept := by
  unfold State.resetSlice
  try dsimp only
  (repeat' split) <;> first | simp only [bridgeCut_kept, commitLost_kept, homeLost_kept, lineLost_kept, loseDevice_kept, onPair_kept, shutDatapath_kept, unitReqLost_kept, kept_mk, onSlice_kept, foldl_kept, implies_true] | rfl

theorem resetGroup_kept (s : State) (g : GroupNo) : (State.resetGroup s g).kept = s.kept := by
  unfold State.resetGroup
  try dsimp only
  (repeat' split) <;> first | simp only [onGroup_kept] | rfl

theorem resetQuad_kept (s : State) (x : QuadNo) : (State.resetQuad s x).kept = s.kept := by
  unfold State.resetQuad
  try dsimp only
  (repeat' split) <;> first | (simp only [Island_reportEmptied_kept, kept_mk, onIsl_kept, onSlice_kept, onQuad_kept, onGroup_kept, onIslands_kept, foldl_kept, map_kept, mapIdx_kept, map_set_kept, Island_kept_mk, ite_kept, ite_isl_kept, ite_self, implies_true]; done) | ((try simp only [Island_reportEmptied_kept, kept_mk, onIsl_kept, onSlice_kept, onQuad_kept, onGroup_kept, onIslands_kept, foldl_kept, map_kept, mapIdx_kept, map_set_kept, Island_kept_mk, ite_kept, ite_isl_kept, ite_self, implies_true]) <;> refine (foldl_kept _ (fun s b => ?_) _ _).trans ?_ <;> (try dsimp only) <;> (try (repeat' split)) <;> first | (simp only [Island_reportEmptied_kept, onIsl_kept, onQuad_kept, Island_kept_mk, implies_true]; done) | rfl)

theorem unhalt_kept (s : State) : (State.unhalt s).kept = s.kept := by
  unfold State.unhalt
  try dsimp only
  (repeat' split) <;> first | simp only [kept_mk] | rfl

theorem resetEph_kept (s : State) : (State.resetEph s).kept = s.kept := by
  unfold State.resetEph
  try dsimp only
  (repeat' split) <;> first | (simp only [unhalt_kept]; done) | ((try simp only [unhalt_kept]) <;> refine (foldl_kept _ (fun s b => ?_) _ _).trans ?_ <;> (try dsimp only) <;> (try (repeat' split)) <;> first | (simp only [askAgain_kept, kept_mk]; done) | rfl)

theorem resetMir_kept (s : State) : (State.resetMir s).kept = s.kept := by
  unfold State.resetMir
  try dsimp only
  (repeat' split) <;> first | simp only [kept_mk] | rfl

theorem resetLog_kept (s : State) : (State.resetLog s).kept = s.kept := by
  unfold State.resetLog
  try dsimp only
  (repeat' split) <;> first | simp only [kept_mk] | rfl

theorem resetSpg_kept (s : State) : (State.resetSpg s).kept = s.kept := by
  unfold State.resetSpg
  try dsimp only
  (repeat' split) <;> first | simp only [kept_mk] | rfl

theorem resetSvy_kept (s : State) : (State.resetSvy s).kept = s.kept := by
  unfold State.resetSvy
  try dsimp only
  (repeat' split) <;> first | simp only [failRun_kept, kept_mk, foldl_kept, implies_true] | rfl

theorem resetArming_kept (s : State) (k : IslandNo) : (State.resetArming s k).kept = s.kept := by
  unfold State.resetArming
  try dsimp only
  (repeat' split) <;> first | simp only [kept_mk] | rfl

theorem copyKeys_kept (s : State) (k : IslandNo) : (State.copyKeys s k).kept = s.kept := by
  unfold State.copyKeys
  try dsimp only
  (repeat' split) <;> first | simp only [onSlice_kept, onGroup_kept] | rfl

end Sys2Proof.Machine
end

