-- ==== Sys2Proof/Laws/Store.lean ====
section
/-! SUPPORT. The entry store as memory: its canonical form is kept by every operation on it, a byte reads back as it was written, and
every other byte reads as before. -/

namespace Sys2Proof.Machine

/-- The canonical form: addresses strictly rise, and no cell holds what an unlisted address reads as. -/
theorem memory_wf_iff (m : List Host.Cell) :
    Memory.wf m = true ↔ m.Pairwise (fun a b => a.1 < b.1) ∧ ∀ c ∈ m, c.2 ≠ storeDefault := by
  induction m with
  | nil => simp [Memory.wf]
  | cons a r ih =>
    cases r with
    | nil => simp [Memory.wf]
    | cons b r =>
      simp only [Memory.wf, Bool.and_eq_true, decide_eq_true_eq, bne_iff_ne, ih]
      simp only [List.pairwise_cons, List.mem_cons, forall_eq_or_imp]
      constructor
      · rintro ⟨⟨h1, h2⟩, ⟨h3, h4⟩, h5, h6⟩
        exact ⟨⟨⟨h1, fun c hc => Nat.lt_trans h1 (h3 c hc)⟩, h3, h4⟩, h2, h5, h6⟩
      · rintro ⟨⟨⟨h1, -⟩, h3, h4⟩, h2, h5, h6⟩
        exact ⟨⟨h1, h2⟩, ⟨h3, h4⟩, h5, h6⟩

/-- A cell of the store with a byte written is the byte written or was there before, at another address. -/
theorem mem_storePut (m : List Host.Cell) (a : Nat) (b : Byte) (c : Host.Cell) (h : c ∈ storePut m a b) :
    (c = (a, b) ∧ b ≠ storeDefault) ∨ c ∈ m := by
  induction m with
  | nil =>
    unfold storePut at h
    split at h <;> simp_all
  | cons d r ih =>
    unfold storePut at h
    split at h
    · rcases List.mem_cons.1 h with rfl | h
      · exact .inr (List.mem_cons_self ..)
      · exact (ih h).imp id (List.mem_cons_of_mem _)
    · split at h
      · split at h
        · exact .inr (List.mem_cons_of_mem _ h)
        · rcases List.mem_cons.1 h with rfl | h
          · exact .inl ⟨rfl, ‹_›⟩
          · exact .inr (List.mem_cons_of_mem _ h)
      · split at h
        · exact .inr h
        · rcases List.mem_cons.1 h with rfl | h
          · exact .inl ⟨rfl, ‹_›⟩
          · exact .inr h

/-- Writing a byte keeps the canonical form. -/
theorem storePut_wf (m : List Host.Cell) (a : Nat) (b : Byte) (h : Memory.wf m = true) : Memory.wf (storePut m a b) = true := by
  rw [memory_wf_iff] at *
  refine ⟨?_, fun c hc => (mem_storePut m a b c hc).elim (fun e => by rw [e.1]; exact e.2) (h.2 c)⟩
  induction m with
  | nil => unfold storePut; split <;> simp
  | cons d r ih =>
    have hr : r.Pairwise (fun a b => a.1 < b.1) ∧ ∀ c ∈ r, c.2 ≠ storeDefault :=
      ⟨(List.pairwise_cons.1 h.1).2, fun c hc => h.2 c (List.mem_cons_of_mem _ hc)⟩
    have hd := (List.pairwise_cons.1 h.1).1
    unfold storePut
    split
    · refine List.pairwise_cons.2 ⟨fun c hc => ?_, ih hr⟩
      rcases mem_storePut r a b c hc with ⟨rfl, -⟩ | hc
      · assumption
      · exact hd c hc
    · split
      · split
        · exact hr.1
        · refine List.pairwise_cons.2 ⟨fun c hc => ?_, hr.1⟩
          subst_vars
          exact hd c hc
      · split
        · exact h.1
        · refine List.pairwise_cons.2 ⟨fun c hc => ?_, h.1⟩
          rcases List.mem_cons.1 hc with rfl | hc
          · show a < c.1; omega
          · have := hd c hc; show a < c.1; omega

/-- Writing bytes keeps the canonical form. -/
theorem storePuts_wf (l : List Byte) (m : List Host.Cell) (a : Nat) (h : Memory.wf m = true) : Memory.wf (storePuts m a l) = true := by
  induction l generalizing m a with
  | nil => exact h
  | cons b r ih => exact ih _ _ (storePut_wf m a b h)

/-- Below its first cell a store reads as unlisted. -/
theorem storeByte_low (m : List Host.Cell) (a : Nat) (h : ∀ c ∈ m, a < c.1) : storeByte m a = storeDefault := by
  unfold storeByte
  rw [List.find?_eq_none.2]
  intro c hc
  have := h c hc
  simp; omega

theorem storeByte_cons (c : Host.Cell) (m : List Host.Cell) (a : Nat) :
    storeByte (c :: m) a = if c.1 = a then c.2 else storeByte m a := by
  unfold storeByte
  by_cases h : c.1 = a <;> simp [h]

/-- A written byte reads as written, and every other byte as before. -/
theorem storeByte_storePut (m : List Host.Cell) (a : Nat) (b : Byte) (h : Memory.wf m = true) (x : Nat) :
    storeByte (storePut m a b) x = if x = a then b else storeByte m x := by
  rw [memory_wf_iff] at h
  replace h := h.1
  induction m with
  | nil =>
    unfold storePut
    split
    · split
      · simp_all [storeByte]
      · rfl
    · rw [storeByte_cons]
      by_cases e : x = a
      · simp [e]
      · simp [e, Ne.symm e]
  | cons d r ih =>
    have hd := (List.pairwise_cons.1 h).1
    have hr := (List.pairwise_cons.1 h).2
    unfold storePut
    split
    · rw [storeByte_cons, storeByte_cons, ih hr]
      by_cases e : x = a
      · simp [e]
        omega
      · simp [e]
    · split
      · split
        · rw [storeByte_cons]
          by_cases e : x = a
          · subst e
            rw [if_pos rfl, storeByte_low r x (fun c hc => by have := hd c hc; omega)]
            symm; assumption
          · simp [e]
            intro h; omega
        · rw [storeByte_cons, storeByte_cons]
          by_cases e : x = a
          · simp [e]
          · have : ¬ d.1 = x := by omega
            simp [e, this, Ne.symm e]
      · split
        · by_cases e : x = a
          · subst e
            have hb : b = storeDefault := by assumption
            rw [if_pos rfl, hb]
            refine storeByte_low _ _ fun c hc => ?_
            rcases List.mem_cons.1 hc with rfl | hc
            · omega
            · have := hd c hc; omega
          · simp [e]
        · rw [storeByte_cons]
          by_cases e : x = a
          · simp [e]
          · simp [e, Ne.symm e]

/-- Written bytes read as written, and every other byte as before. -/
theorem storeByte_storePuts (l : List Byte) (m : List Host.Cell) (a : Nat) (h : Memory.wf m = true) (x : Nat) :
    storeByte (storePuts m a l) x = if a ≤ x ∧ x < a + l.length then l.getD (x - a) 0 else storeByte m x := by
  induction l generalizing m a with
  | nil =>
    simp [storePuts]
  | cons b r ih =>
    unfold storePuts
    rw [ih _ _ (storePut_wf m a b h), storeByte_storePut m a b h]
    simp only [List.length_cons]
    by_cases e : x = a
    · subst e
      have h1 : ¬ (x + 1 ≤ x ∧ x < x + 1 + r.length) := by omega
      have h2 : x ≤ x ∧ x < x + (r.length + 1) := by omega
      rw [if_neg h1, if_pos h2]
      simp
    · by_cases h1 : a + 1 ≤ x ∧ x < a + 1 + r.length
      · have h2 : a ≤ x ∧ x < a + (r.length + 1) := by omega
        rw [if_pos h1, if_pos h2]
        have : x - a = (x - (a + 1)) + 1 := by omega
        rw [this, List.getD_cons_succ]
      · have h2 : ¬ (a ≤ x ∧ x < a + (r.length + 1)) := by omega
        rw [if_neg h1, if_neg h2, if_neg e]

/-- The word operations of CMD keep the canonical form. -/
theorem setEntryWord_wf (c : CmdS) (w : Nat) (v : W64) (h : Memory.wf c.store = true) : Memory.wf (c.setEntryWord w v).store = true :=
  storePuts_wf _ _ _ h

end Sys2Proof.Machine
end

