-- ==== Sys2Proof/Laws/Change.lean ====
section
/-! SUPPORT. What the commands that do touch the kept part leave of it: register writes (the keys and the entry store), the structure
stream (the configuration and the keys), clocks, resets, and time. -/

namespace Sys2Proof.Machine

/-- What a register write leaves: all but the keys and the entry store. -/
def State.keptW (s : State) : Kept := { s.kept with keys := Vector.replicate 16 {}, entries := [] }

/-- What the structure stream leaves: all but the configuration and the keys. -/
def State.keptS (s : State) : Kept := { s.kept with conf := none, keys := Vector.replicate 16 {} }

theorem keptW_of {s t : State} (h : t.kept = s.kept) : t.keptW = s.keptW := by simp only [State.keptW, h]
theorem keptS_of {s t : State} (h : t.kept = s.kept) : t.keptS = s.keptS := by simp only [State.keptS, h]

/-- A register write leaves the entry store in canonical form. -/
def Stays (s t : State) : Prop := t.keptW = s.keptW ∧ (Memory.wf s.cmd.store = true → Memory.wf t.cmd.store = true)

theorem stays_refl (s : State) : Stays s s := ⟨rfl, id⟩
theorem stays_of {s t : State} (h : t.kept = s.kept) : Stays s t := ⟨keptW_of h, fun w => by rw [kept_entries h]; exact w⟩
theorem stays_trans {s t u : State} (h : Stays s t) (g : Stays t u) : Stays s u := ⟨g.1.trans h.1, fun w => g.2 (h.2 w)⟩
theorem stays_kept {s t u : State} (h : Stays s t) (g : u.kept = t.kept) : Stays s u := stays_trans h (stays_of g)

theorem commitKey_stays (s : State) (w : W64) : Stays s (s.commitKey w).2 := by
  unfold State.commitKey
  dsimp only
  split
  · refine stays_trans ?_ (stays_of (spreadKey_kept ..))
    exact ⟨rfl, id⟩
  · exact ⟨rfl, id⟩

theorem commitKey_entries (s : State) (w : W64) : (s.commitKey w).2.cmd.store = s.cmd.store := by
  unfold State.commitKey
  dsimp only
  split
  · refine (kept_entries (spreadKey_kept _ _ _ _)).trans ?_
    rfl
  · rfl

theorem cmdWrite_stays (s : State) (off : Nat) (w : W64) : Stays s (s.cmdWrite off w).2 := by
  unfold State.cmdWrite
  dsimp only
  (repeat' split) <;> first
    | exact stays_refl s
    | exact stays_of rfl
    | exact stays_of (writeQueueCtl_kept ..)
    | exact stays_of (keepsO_some (writeQueueReg_kept ..) ‹_›)
    | exact ⟨rfl, fun h => setEntryWord_wf _ _ _ h⟩

theorem islandWrite_stays (s : State) (k : IslandNo) (off : Nat) (w : W64) : Stays s (s.islandWrite k off w).2 := by
  have h (c : Prop) [Decidable c] (t : State) (e : t.kept = s.kept) : Stays s (if c then t else s) := by
    split
    · exact stays_of e
    · exact stays_refl s
  unfold State.islandWrite
  split
  · exact stays_of (onIsl_kept _ _ _ fun i => rfl)
  split
  · exact stays_of (onIsl_kept _ _ _ fun i => Island_snap_kept ..)
  split
  · exact stays_of (onSlice_kept ..)
  split
  · exact stays_of (lgWrite_kept ..)
  split
  · exact stays_of (onQuad_kept ..)
  split
  · exact h _ _ (writeQuiesce_kept ..)
  · exact cmdWrite_stays ..
  · exact stays_of (ephWrite_kept ..)
  · exact stays_of (logWrite_kept ..)
  · exact h _ _ rfl
  · exact h _ _ rfl
  · exact stays_of (injWrite_kept ..)
  · exact stays_refl s

theorem blockWrite_stays (s : State) (off : Nat) (w : W64) : Stays s (s.blockWrite off w).2 := by
  have h (c : Prop) [Decidable c] (t : State) (e : t.kept = s.kept) : Stays s (if c then t else s) := by
    split
    · exact stays_of e
    · exact stays_refl s
  have g (v : Vector W64 8) : Stays s { s with cfg := { s.cfg with keyStage := v } } := stays_of rfl
  unfold State.blockWrite
  split
  · exact h _ _ rfl
  split
  · exact stays_of (snapAll_kept ..)
  split
  · exact g _
  split
  · exact commitKey_stays ..
  · exact stays_refl s

theorem crossed_stays {s : State} (via : Crossing) {r : BitVec 2 × State} (h : Stays s r.2) : Stays s (s.crossed via r).2 := by
  cases via
  · exact h
  · exact stays_refl s
  · exact h

theorem castWrite_stays (s : State) (off : Nat) (w : W64) (ks : List IslandNo) (via : List (IslandNo × Crossing)) :
    Stays s (s.castWrite off w ks via).2 := by
  unfold State.castWrite
  have h (l : List IslandNo) (g : BitVec 2 × State → IslandNo → BitVec 2 × State) (hg : ∀ a k, Stays a.2 (g a k).2) (a : BitVec 2 × State) :
      Stays a.2 (l.foldl g a).2 := by
    induction l generalizing a with
    | nil => exact stays_refl _
    | cons k r ih => exact stays_trans (hg a k) (ih _)
  refine h ks _ (fun a k => ?_) (ansOk, s)
  (repeat' split) <;> first | exact stays_refl _ | exact crossed_stays _ (islandWrite_stays ..)

theorem castLate_stays (s : State) (off : Nat) (w : W64) (ks : List IslandNo) : Stays s (s.castLate off w ks) := by
  unfold State.castLate
  induction ks generalizing s with
  | nil => exact stays_refl _
  | cons k r ih =>
    rw [List.foldl_cons]
    refine stays_trans (?_ : Stays s _) (ih _)
    dsimp only
    split
    · exact stays_refl _
    · split
      · exact stays_trans (stays_of (freeBit_kept s)) (islandWrite_stays ..)
      · exact stays_of (freeBit_kept s)

theorem regWrite_stays (s : State) (addr : BitVec 21) (w : W64) (via : List (IslandNo × Crossing)) : Stays s (s.regWrite addr w via).2 := by
  unfold State.regWrite
  (repeat' split) <;> first
    | exact blockWrite_stays ..
    | exact stays_refl s
    | exact crossed_stays _ (islandWrite_stays ..)
    | exact castWrite_stays ..

/-- A next state stays so. -/
def StaysO (s : State) : Outcome → Prop
  | .next t => Stays s t
  | _ => True

theorem stays_guarded {c : Bool} {s t : State} (h : Stays s t) : StaysO s (guarded c s t) := by
  unfold guarded StaysO; cases c
  · exact stays_refl s
  · exact h

theorem perform_stays (s : State) (tag : BitVec 4) (ask : RegAsk) (via : List (IslandNo × Crossing)) : Stays s (s.perform tag ask via) := by
  unfold State.perform
  extract_lets g t r
  have h : Stays s t := ⟨rfl, id⟩
  split
  · exact stays_kept (stays_trans h (regWrite_stays ..)) (answer_kept ..)
  · exact stays_kept h (readAnswer_kept ..)

theorem execRegisterWrite_stays (tag : BitVec 4) (ask : RegAsk) (hold : Bool) (via : List (IslandNo × Crossing)) (s : State) :
    StaysO s (execRegisterWrite tag ask hold via s) := by
  refine stays_guarded ?_
  (repeat' split) <;> first | exact stays_refl s | exact perform_stays .. | exact ⟨rfl, id⟩

theorem execBroadcastWrite_stays (tag : BitVec 4) (addr : BitVec 21) (data : W64) (via : List (IslandNo × Crossing)) (s : State) :
    StaysO s (execBroadcastWrite tag addr data via s) :=
  stays_guarded (stays_kept (regWrite_stays ..) (answer_kept ..))

theorem execKeyCommit_stays (data : W64) (s : State) : StaysO s (execKeyCommit data s) := stays_guarded (commitKey_stays ..)

theorem lateEffect_stays (s : State) (tag : BitVec 4) (q : RegAsk) : Stays s (s.lateEffect tag q) := by
  unfold State.lateEffect
  have h := stays_of (freeBit_kept s)
  dsimp only
  (repeat' split) <;> first | exact castLate_stays .. | exact stays_refl s | exact h | exact stays_trans h (regWrite_stays ..) |
    exact stays_kept h (readQueueWord_kept ..)

theorem execRegisterResponseTimeout_stays (tag : BitVec 4) (wr : Bool) (addr : BitVec 21) (data : W64) (s : State) :
    StaysO s (execRegisterResponseTimeout tag wr addr data s) := by
  unfold execRegisterResponseTimeout
  split
  · exact stays_refl s
  · refine stays_guarded (stays_kept (stays_trans ?_ (lateEffect_stays ..)) (answer_kept ..))
    exact ⟨rfl, id⟩

/-! The structure stream. -/

/-- A full stream configures CFG, which is out of reset, and the islands out of reset. -/
theorem applyFull_keptS (s : State) (c : Conf) (h : (s.isl cfgIsl).inReset = false) : (s.applyFull c).keptS = s.keptS := by
  unfold State.applyFull
  extract_lets g s1
  have h1 : s1.keptS = s.keptS := by
    dsimp only [s1]
    simp only [State.keptS, State.kept, map_kept s.islands _ fun i => Island_deliver_kept i c]
  have h2 : (s1.isl cfgIsl).inReset = false := by
    have := Island_deliver_kept (s.isl cfgIsl) c
    rw [show s1.isl cfgIsl = (s.isl cfgIsl).deliver c from Vector.getElem_map ..]
    exact (congrArg Prod.fst this).trans h
  refine (keptS_of ?_).trans h1
  have h3 : ((({ s1.isl cfgIsl with conf := some c } : Island).enter .run).reportEmptied cfgIsl).kept = (s1.isl cfgIsl).kept := by
    rw [Island_reportEmptied_kept, enter_kept]
    simp only [Island.kept, h2, Bool.false_eq_true, if_false]
  simp only [State.kept, State.onIsl]
  congr 1
  exact map_set_kept _ _ _ h3

theorem applyLive_keptS (s : State) (c : Conf) (recs : List Rec) (id : BitVec 32) : (s.applyLive c recs id).keptS = s.keptS := by
  simp only [State.applyLive, State.keptS, State.kept, map_kept s.islands _ fun i => Island_liveRecords_kept i recs]

theorem finishStream_keptS (s : State) (r : SsRecv) (h : (s.isl cfgIsl).inReset = false) : (s.finishStream r).keptS = s.keptS := by
  unfold State.finishStream
  dsimp only
  (repeat' split) <;> first | exact keptS_of (rejectStream_kept ..) | exact applyLive_keptS .. | exact applyFull_keptS _ _ h

theorem finishStream_entries (s : State) (r : SsRecv) (h : (s.isl cfgIsl).inReset = false) : (s.finishStream r).cmd.store = s.cmd.store :=
  congrArg Kept.entries (finishStream_keptS s r h)

/-- A next state that the stream leads to. -/
def KeepsS (s : State) : Outcome → Prop
  | .next t => t.keptS = s.keptS
  | _ => True

theorem execStreamWord_keptS (w : W64) (s : State) : KeepsS s (execStreamWord w s) := by
  unfold execStreamWord
  extract_lets i g t
  have ht : t.keptS = s.keptS := rfl
  unfold guarded
  show State.keptS _ = _
  split
  · rename_i hc
    have hr : (t.isl cfgIsl).inReset = false := by
      simp only [Bool.and_eq_true, Island.live, Bool.not_eq_true'] at hc
      exact hc.1.1.1
    split
    · exact ht
    · split
      · exact (keptS_of (rejectStream_kept ..)).trans ht
      · split
        · exact (finishStream_keptS _ _ hr).trans ht
        · exact ht
  · rfl

end Sys2Proof.Machine
end

