-- ==== Sys2Proof/Laws/Resets.lean ====
section
/-! SUPPORT. What resets, clocks and time do to the islands, and what every other command leaves of them. -/

namespace Sys2Proof.Machine

/-! Islands by number. -/

theorem kept_at {s t : State} (h : t.islands.map Island.kept = s.islands.map Island.kept) (k : IslandNo) : (t.isl k).kept = (s.isl k).kept := by
  have := congrArg (fun v => v[k.val]'k.isLt) h
  simp only [Vector.getElem_map] at this
  exact this

theorem isl_map (s : State) (f : Island → Island) (j : IslandNo) : (s.islands.map f)[j] = f (s.isl j) := Vector.getElem_map ..

/-! Resets. -/

/-- What a unit's reset leaves: all but the configuration, the keys and the entry store. -/
def State.keptR (s : State) : Kept := { s.kept with conf := none, keys := Vector.replicate 16 {}, entries := [] }

/-- A reset of a unit leaves the entry store in canonical form. -/
def Drops (s t : State) : Prop := t.keptR = s.keptR ∧ (Memory.wf s.cmd.store = true → Memory.wf t.cmd.store = true)

theorem drops_of {s t : State} (h : t.kept = s.kept) : Drops s t :=
  ⟨by simp only [State.keptR, h], fun w => by rw [kept_entries h]; exact w⟩

theorem drops_trans {s t u : State} (h : Drops s t) (g : Drops t u) : Drops s u := ⟨g.1.trans h.1, fun w => g.2 (h.2 w)⟩

theorem resetCmd_drops (s : State) : Drops s s.resetCmd := by
  unfold State.resetCmd
  extract_lets ids s1 s2
  have h1 : s1.kept = s.kept := foldl_kept _ (fun s b => purge_kept ..) _ _
  have h2 : s2.kept = s.kept := by
    dsimp only [s2]
    split <;> exact h1
  refine drops_trans (drops_of h2) (drops_trans ?_ (drops_of (unhalt_kept _)))
  exact ⟨rfl, fun _ => rfl⟩

theorem resetUnit_drops (s : State) (k : IslandNo) : Drops s (s.resetUnit k) := by
  unfold State.resetUnit
  split
  · exact drops_of (resetSlice_kept ..)
  split
  · exact drops_of (resetGroup_kept ..)
  split
  · exact drops_of (resetQuad_kept ..)
  split
  · exact ⟨rfl, id⟩
  · exact resetCmd_drops s
  · exact drops_of (resetEph_kept ..)
  · exact drops_of (resetMir_kept ..)
  · exact drops_of (resetLog_kept ..)
  · exact drops_of (resetSpg_kept ..)
  · exact drops_of (resetSvy_kept ..)
  · exact drops_of rfl

/-- The reset of any unit but CFG leaves the configuration and the keys. -/
theorem resetUnit_conf (s : State) (k : IslandNo) (h : k ≠ cfgIsl) : (s.resetUnit k).cfg.store = s.cfg.store ∧ (s.resetUnit k).cfg.keys = s.cfg.keys := by
  have of {t : State} (e : t.kept = s.kept) : t.cfg.store = s.cfg.store ∧ t.cfg.keys = s.cfg.keys := ⟨kept_conf e, kept_keys e⟩
  unfold State.resetUnit
  split
  · exact of (resetSlice_kept ..)
  split
  · exact of (resetGroup_kept ..)
  split
  · exact of (resetQuad_kept ..)
  split
  · rename_i e; exact absurd (Fin.ext e) h
  · have h1 : (((s.cmd.runs.map (·.id)).foldl (fun (s : State) id => s.purge id stAborted) s)).kept = s.kept :=
      foldl_kept _ (fun s b => purge_kept ..) _ _
    have h2 : ∀ u : State, u.kept = s.kept → ∀ (m : CmdS) r e, ({ u with cmd := m, reqs := r, eph := e } : State).cfg.store = s.cfg.store ∧
        ({ u with cmd := m, reqs := r, eph := e } : State).cfg.keys = s.cfg.keys := fun u e _ _ _ => ⟨(kept_conf e :), (kept_keys e :)⟩
    unfold State.resetCmd
    extract_lets ids s1 s2
    have h3 : s2.kept = s.kept := by
      dsimp only [s2]
      split <;> exact h1
    have := h2 s2 h3 { pathPin := s2.cmd.pathPin } (s2.reqs.filter fun r => r.unit != unitCmd) { s2.eph with haltCmdReset := true }
    exact ⟨(kept_conf (unhalt_kept _)).trans this.1, (kept_keys (unhalt_kept _)).trans this.2⟩
  · exact of (resetEph_kept ..)
  · exact of (resetMir_kept ..)
  · exact of (resetLog_kept ..)
  · exact of (resetSpg_kept ..)
  · exact of (resetSvy_kept ..)
  · exact of rfl

/-- The reset of any unit but CMD leaves the entry store. -/
theorem resetUnit_entries (s : State) (k : IslandNo) (h : k ≠ cmdIsl) : (s.resetUnit k).cmd.store = s.cmd.store := by
  unfold State.resetUnit
  split
  · exact kept_entries (resetSlice_kept ..)
  split
  · exact kept_entries (resetGroup_kept ..)
  split
  · exact kept_entries (resetQuad_kept ..)
  split
  · rfl
  · rename_i e; exact absurd (Fin.ext e) h
  · exact kept_entries (resetEph_kept ..)
  · exact kept_entries (resetMir_kept ..)
  · exact kept_entries (resetLog_kept ..)
  · exact kept_entries (resetSpg_kept ..)
  · exact kept_entries (resetSvy_kept ..)
  · rfl

/-- ISLAND_RESET_ASSERT: an island out of reset goes into reset; nothing else of what is kept changes but what CFG and CMD hold, at
their own reset. -/
theorem islandResetAssert_next {k : IslandNo} {s t : State} (h : execIslandResetAssert k s = .next t) :
    t = s ∨ ((s.isl k).inReset = false ∧ ∃ u, Drops s u ∧ t.kept = (u.onIsl k Island.cleared).kept ∧
      (k ≠ cfgIsl → u.cfg.store = s.cfg.store ∧ u.cfg.keys = s.cfg.keys) ∧ (k = cfgIsl → u.cfg = {} ∧ t.cfg = {}) ∧
      (k ≠ cmdIsl → u.cmd.store = s.cmd.store) ∧ (k = cmdIsl → u.cmd.store = [])) := by
  unfold execIslandResetAssert guarded at h
  extract_lets s1 s2 at h
  cases hr : (s.isl k).inReset
  · right
    simp only [hr, Bool.not_false, if_true] at h
    injection h with h
    refine ⟨rfl, { s1 with quads := Vector.ofFn fun (x : Fin 4) => s1.quads[x].afterReset x k }, ?_, ?_,
      fun e => ?_, fun e => ⟨?_, ?_⟩, fun e => ?_, fun e => ?_⟩
    · refine drops_trans (resetUnit_drops s k) (drops_trans (drops_of (resetArming_kept _ k)) ?_)
      exact ⟨rfl, id⟩
    · rw [← h]
      split
      · exact quadLost_kept ..
      · rfl
    · have := resetUnit_conf s k e
      exact ⟨(kept_conf (resetArming_kept _ k)).trans this.1, (kept_keys (resetArming_kept _ k)).trans this.2⟩
    · subst e
      show ((s.resetUnit cfgIsl).resetArming cfgIsl).cfg = {}
      unfold State.resetArming
      split <;> rfl
    · subst e
      rw [← h]
      show ((s.resetUnit cfgIsl).resetArming cfgIsl).cfg = {}
      unfold State.resetArming
      split <;> rfl
    · exact (kept_entries (resetArming_kept _ k)).trans (resetUnit_entries s k e)
    · subst e
      refine (kept_entries (resetArming_kept _ cmdIsl)).trans ?_
      show (s.resetCmd).cmd.store = []
      unfold State.resetCmd
      exact kept_entries (unhalt_kept _)
  · left
    simp only [hr, Bool.not_true, if_false, Bool.false_eq_true] at h
    injection h with h
    exact h.symm

/-- ISLAND_RESET_RELEASE: an island in reset with its clock running leaves reset. -/
theorem islandResetRelease_next {k : IslandNo} {s t : State} (h : execIslandResetRelease k s = .next t) :
    t = s ∨ (s.por = false ∧ (s.isl k).inReset = true ∧ (s.isl k).clkRun = true ∧
      ∃ c, t.kept = (s.onIsl k fun i => i.leaves c).kept) := by
  unfold execIslandResetRelease guarded at h
  injection h with h
  split at h
  · rename_i hc
    simp only [Bool.and_eq_true, Bool.not_eq_true'] at hc
    exact .inr ⟨hc.1.1, hc.1.2, hc.2, _, by rw [← h]; exact copyKeys_kept ..⟩
  · exact .inl h.symm

/-! Time. -/

theorem bump_foldl_kept (l : List Nat) (n : Nat) (i : Island) : (l.foldl (fun (i : Island) o => i.bump o n) i).kept = i.kept :=
  foldl_isl_kept _ (fun _ _ => Island.bump_kept ..) _ _

/-- Time moves the cycle counter of an island that runs, and nothing else of what is kept. -/
theorem aged_kept (s : State) (k : Nat) (i : Island) : ∃ c, (s.aged k i).kept = ({ i with cycle := c } : Island).kept := by
  unfold State.aged
  split
  · exact ⟨i.cycle, rfl⟩
  · dsimp only
    exact ⟨_, (Island.bump_kept ..).trans (bump_foldl_kept ..)⟩

/-- Time leaves the rest as it was. -/
theorem tick_kept (s : State) : (tick s).kept = { s.kept with islands := (s.islands.mapIdx fun k i => s.aged k i).map Island.kept } := by
  unfold tick
  extract_lets t u
  have hu : u.kept = t.kept := by
    dsimp only [u]
    split
    · exact ringAll_kept t
    · rfl
  rw [foldl_kept _ (fun t g => groupCycles_kept s t g), ackBeats_kept, mirrorBeats_kept, hu]
  rfl

/-! Every other command. -/

/-- The rows that reset, that start or stop a clock, that write registers and that carry the structure stream. -/
def touches : Instr → Bool
  | .porAssert | .porRelease | .islandResetAssert _ | .islandResetRelease _ | .registerWrite .. | .broadcastWrite ..
  | .registerResponseTimeout .. | .keyCommit _ | .streamWord _ | .islandClockStart _ | .islandClockStop _ => true
  | _ => false

/-- A command of no such row keeps it all. -/
theorem exec_kept (i : Instr) (s : State) (h : touches i = false) : Keeps s (exec i s) := by
  cases i
  case porAssert => cases h
  case porRelease => cases h
  case islandResetAssert => cases h
  case islandResetRelease => cases h
  case checkWindowClose => exact execCheckWindowClose_kept ..
  case packetOpen => exact execPacketOpen_kept ..
  case packetClose => exact execPacketClose_kept ..
  case packetVisible => exact execPacketVisible_kept ..
  case packetConsume => exact execPacketConsume_kept ..
  case queueWriteFull x q w => exact execQueueWriteFull_kept x q w s
  case quadrantForward => exact execQuadrantForward_kept ..
  case mpUpRise => exact execMpUpRise_kept ..
  case mpUpStable => exact execMpUpStable_kept ..
  case mpUpFall => exact execMpUpFall_kept ..
  case mpNotReady => exact execMpNotReady_kept ..
  case mpDownForced => exact execMpDownForced_kept ..
  case mpRequestIssue => exact execMpRequestIssue_kept ..
  case mpWriteDataBeat => exact execMpWriteDataBeat_kept ..
  case mpReadResponse => exact execMpReadResponse_kept ..
  case mpWriteResponse => exact execMpWriteResponse_kept ..
  case mpTagTimeout => exact execMpTagTimeout_kept ..
  case mpHeldRequestTimeout => exact execMpHeldRequestTimeout_kept ..
  case exportBeat => exact execExportBeat_kept ..
  case exportAbandon => exact execExportAbandon_kept ..
  case importStreamOpen => exact execImportStreamOpen_kept ..
  case importBeat => exact execImportBeat_kept ..
  case importPlateTimeout => exact execImportPlateTimeout_kept ..
  case importStreamIdleTimeout => exact execImportStreamIdleTimeout_kept ..
  case registerWrite => cases h
  case broadcastWrite => cases h
  case registerResponseTimeout => cases h
  case doorbell => exact execDoorbell_kept ..
  case nwPathUpRise => exact execNwPathUpRise_kept ..
  case nwPathUpStable => exact execNwPathUpStable_kept ..
  case nwPathDown => exact execNwPathDown_kept ..
  case nwRequestIssue => exact execNwRequestIssue_kept ..
  case nwWriteDataBeat => exact execNwWriteDataBeat_kept ..
  case nwReadBeat => exact execNwReadBeat_kept ..
  case nwWriteAck => exact execNwWriteAck_kept ..
  case nwTagTimeout => exact execNwTagTimeout_kept ..
  case pmaRxLockFall => exact execPmaRxLockFall_kept ..
  case attnCauseClear => exact execAttnCauseClear_kept ..
  case actUpExpire => exact execActUpExpire_kept ..
  case bistNetworkStart => exact execBistNetworkStart_kept ..
  case streamWord => cases h
  case streamTruncated => exact execStreamTruncated_kept ..
  case streamResyncEnd => exact execStreamResyncEnd_kept ..
  case quiesceRequest => exact execQuiesceRequest_kept ..
  case islandQuiesced => exact execIslandQuiesced_kept ..
  case quiesceRelease => exact execQuiesceRelease_kept ..
  case keyCommit => cases h
  case guardLineFill => exact execGuardLineFill_kept ..
  case guardWritebackTimer => exact execGuardWritebackTimer_kept ..
  case frcEncode => exact execFrcEncode_kept ..
  case plateWrite => exact execPlateWrite_kept ..
  case storePlate => exact execStorePlate_kept ..
  case frameClaim => exact execFrameClaim_kept ..
  case indexWrite => exact execIndexWrite_kept ..
  case spanSwing => exact execSpanSwing_kept ..
  case frameFree => exact execFrameFree_kept ..
  case deferredSwings => exact execDeferredSwings_kept ..
  case histogramSend => exact execHistogramSend_kept ..
  case tableBuild => exact execTableBuild_kept ..
  case slotLive => exact execSlotLive_kept ..
  case slotDrainedReport => exact execSlotDrainedReport_kept ..
  case slotDrainComplete => exact execSlotDrainComplete_kept ..
  case slotHoldTimeout => exact execSlotHoldTimeout_kept ..
  case plateAdmissible => exact execPlateAdmissible_kept ..
  case contextSwitch => exact execContextSwitch_kept ..
  case laneAssign => exact execLaneAssign_kept ..
  case substreamEnd => exact execSubstreamEnd_kept ..
  case substreamDecodeTimeout => exact execSubstreamDecodeTimeout_kept ..
  case tableCacheFill => exact execTableCacheFill_kept ..
  case rowBlockLoad => exact execRowBlockLoad_kept ..
  case passStart => exact execPassStart_kept ..
  case activationRowIssue => exact execActivationRowIssue_kept ..
  case outputFinal => exact execOutputFinal_kept ..
  case accumulatorDrain => exact execAccumulatorDrain_kept ..
  case pairJoin => exact execPairJoin_kept ..
  case pairSeparate => exact execPairSeparate_kept ..
  case portEndReadyNotice => exact execPortEndReadyNotice_kept ..
  case twinTakeUp => exact execTwinTakeUp_kept ..
  case engineChoice => exact execEngineChoice_kept ..
  case chunkQueue => exact execChunkQueue_kept ..
  case taskRun => exact execTaskRun_kept ..
  case workSteal => exact execWorkSteal_kept ..
  case spillRecordWrite => exact execSpillRecordWrite_kept ..
  case groupEnd => exact execGroupEnd_kept ..
  case drainRound => exact execDrainRound_kept ..
  case entryFetch => exact execEntryFetch_kept ..
  case staleRefetch => exact execStaleRefetch_kept ..
  case nop => exact execNop_kept ..
  case plateMatmul => exact execPlateMatmul_kept ..
  case exportCmd => exact execExportCmd_kept ..
  case importCmd => exact execImportCmd_kept ..
  case compress => exact execCompress_kept ..
  case recode => exact execRecode_kept ..
  case move => exact execMove_kept ..
  case copy => exact execCopy_kept ..
  case prefetch => exact execPrefetch_kept ..
  case evict => exact execEvict_kept ..
  case pin => exact execPin_kept ..
  case unpin => exact execUnpin_kept ..
  case reduce => exact execReduce_kept ..
  case hostRead => exact execHostRead_kept ..
  case hostWrite => exact execHostWrite_kept ..
  case signal => exact execSignal_kept ..
  case wait => exact execWait_kept ..
  case waitRelease => exact execWaitRelease_kept ..
  case fence => exact execFence_kept ..
  case tableLoad => exact execTableLoad_kept ..
  case tableRetire => exact execTableRetire_kept ..
  case scrub => exact execScrub_kept ..
  case commandComplete => exact execCommandComplete_kept ..
  case cqRecordHeldWrite => exact execCqRecordHeldWrite_kept ..
  case hostCompletionWrite => exact execHostCompletionWrite_kept ..
  case queueConfigWrite => exact execQueueConfigWrite_kept ..
  case queueReset => exact execQueueReset_kept ..
  case queueHalt => exact execQueueHalt_kept ..
  case queueResume => exact execQueueResume_kept ..
  case cqRead => exact execCqRead_kept ..
  case markerReceive => exact execMarkerReceive_kept ..
  case frameReceive => exact execFrameReceive_kept ..
  case flitSend => exact execFlitSend_kept ..
  case replayTimeout => exact execReplayTimeout_kept ..
  case trainingTimeout => exact execTrainingTimeout_kept ..
  case linkRetrain => exact execLinkRetrain_kept ..
  case linkRestart => exact execLinkRestart_kept ..
  case fabricPacketArrive => exact execFabricPacketArrive_kept ..
  case peerQueueDispatch => exact execPeerQueueDispatch_kept ..
  case requestTimeout => exact execRequestTimeout_kept ..
  case rdReq => exact execRdReq_kept ..
  case rdRsp => exact execRdRsp_kept ..
  case wrReq => exact execWrReq_kept ..
  case lookup => exact execLookup_kept ..
  case lookupRsp => exact execLookupRsp_kept ..
  case register => exact execRegister_kept ..
  case objReq => exact execObjReq_kept ..
  case objRsp => exact execObjRsp_kept ..
  case cmdx => exact execCmdx_kept ..
  case spanMoveStart => exact execSpanMoveStart_kept ..
  case mvStart => exact execMvStart_kept ..
  case mvData => exact execMvData_kept ..
  case copyDone => exact execCopyDone_kept ..
  case commit => exact execCommit_kept ..
  case mirror => exact execMirror_kept ..
  case commitAck => exact execCommitAck_kept ..
  case cmdxResult => exact execCmdxResult_kept ..
  case fabricAck => exact execFabricAck_kept ..
  case free => exact execFree_kept ..
  case pinSet => exact execPinSet_kept ..
  case evictReq => exact execEvictReq_kept ..
  case join => exact execJoin_kept ..
  case occ => exact execOcc_kept ..
  case occSend => exact execOccSend_kept ..
  case sig => exact execSig_kept ..
  case redData => exact execRedData_kept ..
  case detectorEvent => exact execDetectorEvent_kept ..
  case detectorWindowStart => exact execDetectorWindowStart_kept ..
  case healStart => exact execHealStart_kept ..
  case healEnd => exact execHealEnd_kept ..
  case haltSet => exact execHaltSet_kept ..
  case patrolBurst => exact execPatrolBurst_kept ..
  case auditCompare => exact execAuditCompare_kept ..
  case mirrorBeat => exact execMirrorBeat_kept ..
  case reportSend => exact execReportSend_kept ..
  case logReportTake => exact execLogReportTake_kept ..
  case stagedAppend => exact execStagedAppend_kept ..
  case logRead => exact execLogRead_kept ..
  case logCodeSeenClear => exact execLogCodeSeenClear_kept ..
  case injArm => exact execInjArm_kept ..
  case injCancel => exact execInjCancel_kept ..
  case islandSnap => exact execIslandSnap_kept ..
  case prauxSnap => exact execPrauxSnap_kept ..
  case islandBist => exact execIslandBist_kept ..
  case linkBringupBound => exact execLinkBringupBound_kept ..
  case mgrStepBound => exact execMgrStepBound_kept ..
  case joinResend => exact execJoinResend_kept ..
  case cmdEnable => exact execCmdEnable_kept ..
  case readySet => exact execReadySet_kept ..
  case readyClear => exact execReadyClear_kept ..
  case pmaTxRdyChange => exact execPmaTxRdyChange_kept ..
  case markerMissing => exact execMarkerMissing_kept ..
  case islandClockStart => cases h
  case islandClockStop => cases h
  case cfgSelfTestEnd => exact execCfgSelfTestEnd_kept ..
  case ephReloadEnd => exact execEphReloadEnd_kept ..
  case freeRunOverflowMerge => exact execFreeRunOverflowMerge_kept ..

/-- Every command, by what it does to the kept part. -/
theorem exec_cases {c : Instr} {s t : State} (h : exec c s = .next t) :
    t.kept = s.kept ∨ (c = .porAssert ∧ execPorAssert s = .next t) ∨ (c = .porRelease ∧ execPorRelease s = .next t) ∨
    (∃ k, c = .islandResetAssert k ∧ execIslandResetAssert k s = .next t) ∨ (∃ k, c = .islandResetRelease k ∧ execIslandResetRelease k s = .next t) ∨
    (((∃ g a d v, c = .registerWrite g a d v) ∨ (∃ g a d v, c = .broadcastWrite g a d v) ∨ (∃ g w a d, c = .registerResponseTimeout g w a d)) ∧ Stays s t) ∨
    ((∃ d, c = .keyCommit d) ∧ Stays s t ∧ t.cmd.store = s.cmd.store) ∨ (∃ w, c = .streamWord w ∧ t.keptS = s.keptS) ∨
    (∃ k, c = .islandClockStart k ∧ execIslandClockStart k s = .next t) ∨ (∃ k, c = .islandClockStop k ∧ execIslandClockStop k s = .next t) := by
  cases e : touches c
  · exact .inl (by have g := exec_kept c s e; rw [h] at g; exact g)
  · have st (o : Outcome) (g : StaysO s o) (e : exec c s = o) : Stays s t := by
      rw [← e, h] at g; exact g
    cases c <;> simp only [touches, Bool.false_eq_true] at e
    case porAssert => exact .inr (.inl ⟨rfl, h⟩)
    case porRelease => exact .inr (.inr (.inl ⟨rfl, h⟩))
    case islandResetAssert k => exact .inr (.inr (.inr (.inl ⟨k, rfl, h⟩)))
    case islandResetRelease k => exact .inr (.inr (.inr (.inr (.inl ⟨k, rfl, h⟩))))
    case registerWrite g a d v => exact .inr (.inr (.inr (.inr (.inr (.inl ⟨.inl ⟨g, a, d, v, rfl⟩, st _ (execRegisterWrite_stays g a d v s) rfl⟩)))))
    case broadcastWrite g a d v => exact .inr (.inr (.inr (.inr (.inr (.inl ⟨.inr (.inl ⟨g, a, d, v, rfl⟩), st _ (execBroadcastWrite_stays g a d v s) rfl⟩)))))
    case registerResponseTimeout g w a d =>
      exact .inr (.inr (.inr (.inr (.inr (.inl ⟨.inr (.inr ⟨g, w, a, d, rfl⟩), st _ (execRegisterResponseTimeout_stays g w a d s) rfl⟩)))))
    case keyCommit d =>
      refine .inr (.inr (.inr (.inr (.inr (.inr (.inl ⟨⟨d, rfl⟩, st _ (execKeyCommit_stays d s) rfl, ?_⟩))))))
      change execKeyCommit d s = .next t at h
      unfold execKeyCommit guarded at h
      injection h with h
      rw [← h]
      split
      · exact commitKey_entries s d
      · rfl
    case streamWord w =>
      refine .inr (.inr (.inr (.inr (.inr (.inr (.inr (.inl ⟨w, rfl, ?_⟩)))))))
      have g := execStreamWord_keptS w s
      change execStreamWord w s = .next t at h
      rw [h] at g; exact g
    case islandClockStart k => exact .inr (.inr (.inr (.inr (.inr (.inr (.inr (.inr (.inl ⟨k, rfl, h⟩))))))))
    case islandClockStop k => exact .inr (.inr (.inr (.inr (.inr (.inr (.inr (.inr (.inr ⟨k, rfl, h⟩))))))))

end Sys2Proof.Machine
end

