-- ==== Sys2Proof/Laws/Islands.lean ====
section
/-! SUPPORT. What each command can do to one island: whether it is in reset, whether its clock runs, RESETS and CYCLE. -/

namespace Sys2Proof.Machine

theorem keptR_isl {s t : State} (h : t.keptR = s.keptR) (k : IslandNo) : (t.isl k).kept = (s.isl k).kept := kept_at (congrArg Kept.islands h) k
theorem keptS_isl {s t : State} (h : t.keptS = s.keptS) (k : IslandNo) : (t.isl k).kept = (s.isl k).kept := kept_at (congrArg Kept.islands h) k
theorem keptW_isl {s t : State} (h : t.keptW = s.keptW) (k : IslandNo) : (t.isl k).kept = (s.isl k).kept := kept_at (congrArg Kept.islands h) k
theorem kept_isl_at {s t : State} (h : t.kept = s.kept) (k : IslandNo) : (t.isl k).kept = (s.isl k).kept := kept_at (congrArg Kept.islands h) k

theorem kept_fields {i j : Island} (h : j.kept = i.kept) : j.inReset = i.inReset ∧ j.clkRun = i.clkRun ∧ j.resets = i.resets ∧ j.cycle = i.cycle := by
  simp only [Island.kept, Prod.mk.injEq] at h
  exact ⟨h.1, h.2.1, h.2.2.1, h.2.2.2.1⟩

theorem porAssert_isl (s t : State) (e : execPorAssert s = .next t) (k) : t.isl k = (s.isl k).poweredOff ∧ t.cfg = {} ∧ t.cmd.store = [] ∧ t.pending = s.pending := by
  unfold execPorAssert at e
  injection e with e
  subst e
  exact ⟨Vector.getElem_map .., rfl, rfl, rfl⟩
theorem porRelease_isl (s t : State) (e : execPorRelease s = .next t) (k) : (∃ b, t.isl k = { s.isl k with clkSeen := b }) ∧ t.cfg = s.cfg ∧ t.cmd = s.cmd ∧ t.pending = s.pending := by
  unfold execPorRelease guarded at e
  injection e with e
  split at e
  · subst e
    exact ⟨⟨_, Vector.getElem_map ..⟩, rfl, rfl, rfl⟩
  · subst e; exact ⟨⟨_, rfl⟩, rfl, rfl, rfl⟩

/-- Everything of an island's kept part, in one statement. -/
theorem isl_cases {c : Instr} {s t : State} (h : exec c s = .next t) (k : IslandNo) :
    ((t.isl k).inReset = (s.isl k).inReset ∧ (t.isl k).clkRun = (s.isl k).clkRun ∧ (t.isl k).resets = (s.isl k).resets ∧ (t.isl k).cycle = (s.isl k).cycle) ∨
    (c = .porAssert ∧ t.isl k = (s.isl k).poweredOff) ∨ (c = .islandResetAssert k ∧ (∃ i : Island, i.resets = (s.isl k).resets ∧ i.clkRun = (s.isl k).clkRun ∧ (t.isl k).kept = i.cleared.kept)) ∨
    (c = .islandResetRelease k ∧ (s.isl k).inReset = true ∧ (∃ cc, (t.isl k).kept = ((s.isl k).leaves cc).kept)) ∨
    ((c = .islandClockStart k ∨ c = .islandClockStop k) ∧ ∃ b d, t.isl k = { s.isl k with clkRun := b, clkSeen := d }) := by
  rcases exec_cases h with e | ⟨rfl, e⟩ | ⟨-, e⟩ | ⟨j, rfl, e⟩ | ⟨j, rfl, e⟩ | ⟨-, e⟩ | ⟨-, e, -⟩ | ⟨w, -, e⟩ | ⟨j, rfl, e⟩ | ⟨j, rfl, e⟩
  · exact .inl (kept_fields (kept_isl_at e k))
  · exact .inr (.inl ⟨rfl, (porAssert_isl s t e k).1⟩)
  · obtain ⟨⟨b, e⟩, -⟩ := porRelease_isl s t e k
    rw [e]; exact .inl ⟨rfl, rfl, rfl, rfl⟩
  · rcases islandResetAssert_next e with rfl | ⟨hr, u, hu, ht, -⟩
    · exact .inl ⟨rfl, rfl, rfl, rfl⟩
    · have hj := kept_fields (keptR_isl hu.1 k)
      have hk := kept_isl_at ht k
      rw [State.onIsl_isl] at hk
      split at hk
      · rename_i e; subst e
        exact .inr (.inr (.inl ⟨rfl, _, hj.2.2.1, hj.2.1, hk⟩))
      · have := kept_fields hk
        exact .inl ⟨this.1.trans hj.1, this.2.1.trans hj.2.1, this.2.2.1.trans hj.2.2.1, this.2.2.2.trans hj.2.2.2⟩
  · rcases islandResetRelease_next e with rfl | ⟨hp, hr, hc, cc, ht⟩
    · exact .inl ⟨rfl, rfl, rfl, rfl⟩
    · have := kept_isl_at ht k
      rw [State.onIsl_isl] at this
      split at this
      · rename_i e; subst e
        exact .inr (.inr (.inr (.inl ⟨rfl, hr, cc, this⟩)))
      · exact .inl (kept_fields this)
  · exact .inl (kept_fields (keptW_isl e.1 k))
  · exact .inl (kept_fields (keptW_isl e.1 k))
  · exact .inl (kept_fields (keptS_isl e k))
  · unfold execIslandClockStart guarded at e
    injection e with e
    split at e
    · subst e
      rw [State.onIsl_isl]
      split
      · rename_i e; subst e; exact .inr (.inr (.inr (.inr ⟨.inl rfl, _, _, rfl⟩)))
      · exact .inl ⟨rfl, rfl, rfl, rfl⟩
    · subst e; exact .inl ⟨rfl, rfl, rfl, rfl⟩
  · unfold execIslandClockStop guarded at e
    injection e with e
    split at e
    · subst e
      rw [State.onIsl_isl]
      split
      · rename_i e; subst e; exact .inr (.inr (.inr (.inr ⟨.inr rfl, false, (s.isl j).clkSeen, rfl⟩)))
      · exact .inl ⟨rfl, rfl, rfl, rfl⟩
    · subst e; exact .inl ⟨rfl, rfl, rfl, rfl⟩

theorem tick_isl (s : State) (k : IslandNo) : ∃ c, ((tick s).isl k).kept = ({ s.isl k with cycle := c } : Island).kept := by
  have h2 := congrArg (fun v => v[k.val]'k.isLt) (congrArg Kept.islands (tick_kept s))
  simp only [State.kept, Vector.getElem_map, Vector.getElem_mapIdx] at h2
  obtain ⟨c, hc⟩ := aged_kept s k.val (s.isl k)
  exact ⟨c, h2.trans hc⟩

end Sys2Proof.Machine
end

