-- ==== Sys2Proof/Laws/Only.lean ====
section
/-! SUPPORT. The frames of Safety hold of the named updates of the state. -/

namespace Sys2Proof.Machine

theorem onlyIsland_onIsl (s : State) (k : IslandNo) (f : Island → Island) : OnlyIsland k s (s.onIsl k f) := by
  unfold OnlyIsland; rw [State.onIsl_isl_self]; rfl

theorem onlySlice_onSlice (s : State) (p : SliceNo) (f : Slice → Slice) : OnlySlice p s (s.onSlice p f) := by
  unfold OnlySlice; rw [State.onSlice_slice_self]; rfl

theorem onlyQuad_onQuad (s : State) (x : QuadNo) (f : Quad → Quad) : OnlyQuad x s (s.onQuad x f) := by
  unfold OnlyQuad; rw [State.onQuad_quad_self]; rfl

theorem onlyGroup_onGroup (s : State) (g : GroupNo) (f : LinkGrp → LinkGrp) : OnlyGroup g s (s.onGroup g f) := by
  unfold OnlyGroup; rw [State.onGroup_group_self]; rfl

theorem onlySliceAndIsland_of (s : State) (p : SliceNo) (f : Slice → Slice) (g : Island → Island) :
    OnlySliceAndIsland p s ((s.onSlice p f).onIsl (psIsl p) g) := by
  unfold OnlySliceAndIsland
  rw [State.onIsl_isl_self, State.onIsl_slice, State.onSlice_slice_self]
  rfl

theorem onlySliceAndIsland_slice (s : State) (p : SliceNo) (f : Slice → Slice) : OnlySliceAndIsland p s (s.onSlice p f) := by
  unfold OnlySliceAndIsland
  rw [State.onSlice_slice_self]
  show _ = (s.onSlice p _).onIsl (psIsl p) fun _ => s.isl (psIsl p)
  unfold State.onIsl State.isl
  simp [State.onSlice, State.slice]

theorem onlySliceAndIsland_isl (s : State) (p : SliceNo) (g : Island → Island) : OnlySliceAndIsland p s (s.onIsl (psIsl p) g) := by
  unfold OnlySliceAndIsland
  rw [State.onIsl_isl_self]
  simp [State.onSlice, State.onIsl, State.slice, State.isl]

end Sys2Proof.Machine
end

