-- ==== Sys2Proof/Laws/Reads.lean ====
section
/-! SUPPORT. What a read of a crossing queue comes to where nothing is wrong with the packet: the length word says its length, the checkers
change nothing, and the packet, or its next word, is delivered as it stands. -/

namespace Sys2Proof.Machine

/-- A bit of a placed field. -/
theorem getLsbD_put (v lo i : Nat) : (put v lo).getLsbD i = (decide (i < 64) && decide (lo ≤ i) && v.testBit (i - lo)) := by
  unfold put
  rw [BitVec.getLsbD_ofNat, Nat.testBit_mul_two_pow, Bool.and_assoc]

/-- A bit of a field taken from a word. -/
theorem getLsbD_bits (n : Nat) (w : W64) (lo i : Nat) : (bits n w lo).getLsbD i = (decide (i < n) && w.getLsbD (lo + i)) := by
  unfold bits
  rw [BitVec.getLsbD_ofNat, Nat.testBit_shiftRight, BitVec.testBit_toNat]

/-- A bit of a placed flag. -/
theorem getLsbD_flag (b : Bool) (k i : Nat) (h : k < 64) : (flag b k).getLsbD i = (b && decide (i = k)) := by
  unfold flag
  cases b
  · simp
  · rw [if_pos rfl, BitVec.getLsbD_ofNat, Nat.testBit_two_pow]
    by_cases e : k = i
    · subst e; simp [h]
    · simp [e, Ne.symm e]

/-- LENGTH and the complement of LENGTH_CHK of a length word that is read as it was written (R29). -/
theorem lengthTaken_clean (o : ParityObs) (p : Pkt) (h1 : o.lenBytes = 0) (h2 : o.lenXor = 0) (h3 : o.link = false) :
    lengthTaken o p.lengthWord = some p.length.toNat := by
  have ha : bits 16 p.lengthWord 0 = p.length := by
    apply BitVec.eq_of_getLsbD_eq
    intro i hi
    rw [getLsbD_bits, Pkt.lengthWord, packW]
    simp only [List.foldl_cons, List.foldl_nil, BitVec.getLsbD_or, getLsbD_put, getLsbD_flag _ _ _ (by decide : 63 < 64),
      getLsbD_flag _ _ _ (by decide : 62 < 64), BitVec.testBit_toNat]
    have e1 : ¬ (i = 63) := by omega
    have e2 : ¬ (i = 62) := by omega
    have e3 : ¬ (40 ≤ i) := by omega
    have e4 : ¬ (16 ≤ i) := by omega
    have e5 : i < 64 := by omega
    simp [hi, e1, e2, e3, e4, e5]
  have hb : ~~~(bits 16 p.lengthWord 40) = p.length := by
    apply BitVec.eq_of_getLsbD_eq
    intro i hi
    rw [BitVec.getLsbD_not, getLsbD_bits, Pkt.lengthWord, packW]
    simp only [List.foldl_cons, List.foldl_nil, BitVec.getLsbD_or, getLsbD_put, getLsbD_flag _ _ _ (by decide : 63 < 64),
      getLsbD_flag _ _ _ (by decide : 62 < 64), BitVec.testBit_toNat]
    have e1 : ¬ (40 + i = 63) := by omega
    have e2 : ¬ (40 + i = 62) := by omega
    have e3 : 40 + i < 64 := by omega
    have e4 : p.tag.getLsbD (40 + i - 16) = false := BitVec.getLsbD_of_ge _ _ (by omega)
    have e5 : p.length.getLsbD (40 + i) = false := BitVec.getLsbD_of_ge _ _ (by omega)
    simp [hi, e1, e2, e3, e4, e5]
  unfold lengthTaken
  simp only [h1, h2, h3, show p.lengthWord ^^^ (0 : W64) = p.lengthWord from BitVec.xor_zero, ha, hb]
  simp

/-- The pool's checkers see nothing wrong: the checks change nothing (R33, R34, R494). -/
theorem poolCheck_clean (s : State) (x : QuadNo) (o : ParityObs) (pos : Nat) (p : Pkt) (h1 : parityAny o = false)
    (h2 : (s.isl (xqIsl x)).armedFor 0x0301 (p.cells.getD o.inCell 0) = false) : s.poolCheck x o pos p = (o, s) := by
  unfold parityAny at h1
  simp only [Bool.or_eq_false_iff, bne_eq_false_iff_eq, Bool.not_eq_false', List.isEmpty_iff] at h1
  obtain ⟨⟨⟨a, b⟩, c⟩, d⟩ := h1
  have hj : (if pos < p.words.length then s.inject (xqIsl x) 0x0301 (p.cells.getD o.inCell 0) else (false, s)) = (false, s) := by
    unfold State.inject
    rw [h2]
    simp
  unfold State.poolCheck
  simp only [hj, Bool.false_eq_true, if_false]
  have he (n : Nat) (j : Bool) : parityEvents o (p.cells.getD o.inCell 0) n j = [] := by simp [parityEvents, a, c, d]
  rw [he]

/-- A word read without a failure carries the poison it carried. -/
theorem parityApply_nil (o : ParityObs) (l : List PWord) (h : o.words = []) : parityApply o l = l := by
  have go (l : List PWord) (n : Nat) : (l.zipIdx n).map (fun e => if o.words.contains e.2 then { e.1 with poison := true } else e.1) = l := by
    induction l generalizing n with
    | nil => rfl
    | cons a r ih => rw [List.zipIdx_cons, List.map_cons, ih]; simp [h]
  exact go l 0

/-- The consumer reads a packet with which nothing is wrong: it gets it as it stands, and the queue is without it (R33, R35, R39). -/
theorem readPacket_clean {s : State} {x : QuadNo} {q : Nat} {o : ParityObs} {p : Pkt} {r : List Pkt} (h : ReadsClean x o p s)
    (hp : ((s.quad x).queue q).packets = p :: r) :
    s.readPacket x q o = (if p.abandoned then none else some p, s.onQuad x fun d => (d.setQueue q ((d.queue q).pop o)).settle) := by
  obtain ⟨h1, h2, h3⟩ := h
  have hc := poolCheck_clean s x o (firstWordOf o) p h1 h2
  unfold parityAny at h1
  simp only [Bool.or_eq_false_iff, bne_eq_false_iff_eq, Bool.not_eq_false', List.isEmpty_iff] at h1
  obtain ⟨⟨⟨a, b⟩, c⟩, d⟩ := h1
  unfold State.readPacket
  simp only [hp, hc, lengthTaken_clean o p a b c, parityApply_nil o p.words d, a, h3, List.take_length]
  simp

/-- What the pop of a queue leaves in it. -/
theorem CQueue.pop_packets (c : CQueue) (o : ParityObs) : (c.pop o).packets = c.packets.tail := by
  unfold CQueue.pop; split <;> simp_all

/-- The next word of a record with which nothing is wrong passes its check (R33, R36). -/
theorem wordCheck_clean {s : State} {q : Nat} {o : ParityObs} {p : Pkt} {r : List Pkt} (h : ReadsClean 0 o p s)
    (hp : ((s.quad 0).queue q).packets = p :: r) : s.wordCheck q o = (false, s) := by
  obtain ⟨h1, h2, h3⟩ := h
  unfold parityAny at h1
  simp only [Bool.or_eq_false_iff, bne_eq_false_iff_eq, Bool.not_eq_false', List.isEmpty_iff] at h1
  obtain ⟨⟨⟨a, b⟩, c⟩, d⟩ := h1
  have hw (k : Nat) : wordObs o k = o := by unfold wordObs; cases o; simp_all
  have hc (k : Nat) : s.poolCheck 0 o k p = (o, s) := poolCheck_clean s 0 o k p (by unfold parityAny; simp [a, b, c, d]) h2
  unfold State.wordCheck
  simp only [hp, hw, hc, lengthTaken_clean o p a b c, d]
  simp

end Sys2Proof.Machine
end

