-- ==== Sys2Proof/Laws/Updates.lean ====
section
/-! SUPPORT. What the updates of one command, one queue, one answer, one request and one slot leave as it was, and which fields the operations
that send and that inject change at all. -/

namespace Sys2Proof.Machine

@[simp] theorem State.onRun_por (s : State) (id : Nat) (f : CmdRun → CmdRun) : (s.onRun id f).por = s.por := rfl
@[simp] theorem State.onRun_islands (s : State) (id : Nat) (f : CmdRun → CmdRun) : (s.onRun id f).islands = s.islands := rfl
@[simp] theorem State.onRun_quads (s : State) (id : Nat) (f : CmdRun → CmdRun) : (s.onRun id f).quads = s.quads := rfl
@[simp] theorem State.onRun_slices (s : State) (id : Nat) (f : CmdRun → CmdRun) : (s.onRun id f).slices = s.slices := rfl
@[simp] theorem State.onRun_groups (s : State) (id : Nat) (f : CmdRun → CmdRun) : (s.onRun id f).groups = s.groups := rfl
@[simp] theorem State.onRun_cfg (s : State) (id : Nat) (f : CmdRun → CmdRun) : (s.onRun id f).cfg = s.cfg := rfl
@[simp] theorem State.onRun_cp (s : State) (id : Nat) (f : CmdRun → CmdRun) : (s.onRun id f).cp = s.cp := rfl
@[simp] theorem State.onRun_eph (s : State) (id : Nat) (f : CmdRun → CmdRun) : (s.onRun id f).eph = s.eph := rfl
@[simp] theorem State.onRun_spg (s : State) (id : Nat) (f : CmdRun → CmdRun) : (s.onRun id f).spg = s.spg := rfl
@[simp] theorem State.onRun_svy (s : State) (id : Nat) (f : CmdRun → CmdRun) : (s.onRun id f).svy = s.svy := rfl
@[simp] theorem State.onRun_log (s : State) (id : Nat) (f : CmdRun → CmdRun) : (s.onRun id f).log = s.log := rfl
@[simp] theorem State.onRun_inj (s : State) (id : Nat) (f : CmdRun → CmdRun) : (s.onRun id f).inj = s.inj := rfl
@[simp] theorem State.onRun_test (s : State) (id : Nat) (f : CmdRun → CmdRun) : (s.onRun id f).test = s.test := rfl
@[simp] theorem State.onRun_reqs (s : State) (id : Nat) (f : CmdRun → CmdRun) : (s.onRun id f).reqs = s.reqs := rfl
@[simp] theorem State.onRun_freeIdx (s : State) (id : Nat) (f : CmdRun → CmdRun) : (s.onRun id f).freeIdx = s.freeIdx := rfl
@[simp] theorem State.onRun_nextId (s : State) (id : Nat) (f : CmdRun → CmdRun) : (s.onRun id f).nextId = s.nextId := rfl
@[simp] theorem State.onRun_tickNo (s : State) (id : Nat) (f : CmdRun → CmdRun) : (s.onRun id f).tickNo = s.tickNo := rfl
@[simp] theorem State.onRun_pending (s : State) (id : Nat) (f : CmdRun → CmdRun) : (s.onRun id f).pending = s.pending := rfl
@[simp] theorem State.onRun_isl (s : State) (id : Nat) (f : CmdRun → CmdRun) (j : IslandNo) : (s.onRun id f).isl j = s.isl j := rfl
@[simp] theorem State.onRun_quad (s : State) (id : Nat) (f : CmdRun → CmdRun) (j : QuadNo) : (s.onRun id f).quad j = s.quad j := rfl
@[simp] theorem State.onRun_slice (s : State) (id : Nat) (f : CmdRun → CmdRun) (j : SliceNo) : (s.onRun id f).slice j = s.slice j := rfl
@[simp] theorem State.onRun_group (s : State) (id : Nat) (f : CmdRun → CmdRun) (j : GroupNo) : (s.onRun id f).group j = s.group j := rfl

@[simp] theorem State.onCq_por (s : State) (q : Fin 64) (f : CmdQ → CmdQ) : (s.onCq q f).por = s.por := rfl
@[simp] theorem State.onCq_islands (s : State) (q : Fin 64) (f : CmdQ → CmdQ) : (s.onCq q f).islands = s.islands := rfl
@[simp] theorem State.onCq_quads (s : State) (q : Fin 64) (f : CmdQ → CmdQ) : (s.onCq q f).quads = s.quads := rfl
@[simp] theorem State.onCq_slices (s : State) (q : Fin 64) (f : CmdQ → CmdQ) : (s.onCq q f).slices = s.slices := rfl
@[simp] theorem State.onCq_groups (s : State) (q : Fin 64) (f : CmdQ → CmdQ) : (s.onCq q f).groups = s.groups := rfl
@[simp] theorem State.onCq_cfg (s : State) (q : Fin 64) (f : CmdQ → CmdQ) : (s.onCq q f).cfg = s.cfg := rfl
@[simp] theorem State.onCq_cp (s : State) (q : Fin 64) (f : CmdQ → CmdQ) : (s.onCq q f).cp = s.cp := rfl
@[simp] theorem State.onCq_eph (s : State) (q : Fin 64) (f : CmdQ → CmdQ) : (s.onCq q f).eph = s.eph := rfl
@[simp] theorem State.onCq_spg (s : State) (q : Fin 64) (f : CmdQ → CmdQ) : (s.onCq q f).spg = s.spg := rfl
@[simp] theorem State.onCq_svy (s : State) (q : Fin 64) (f : CmdQ → CmdQ) : (s.onCq q f).svy = s.svy := rfl
@[simp] theorem State.onCq_log (s : State) (q : Fin 64) (f : CmdQ → CmdQ) : (s.onCq q f).log = s.log := rfl
@[simp] theorem State.onCq_inj (s : State) (q : Fin 64) (f : CmdQ → CmdQ) : (s.onCq q f).inj = s.inj := rfl
@[simp] theorem State.onCq_test (s : State) (q : Fin 64) (f : CmdQ → CmdQ) : (s.onCq q f).test = s.test := rfl
@[simp] theorem State.onCq_reqs (s : State) (q : Fin 64) (f : CmdQ → CmdQ) : (s.onCq q f).reqs = s.reqs := rfl
@[simp] theorem State.onCq_freeIdx (s : State) (q : Fin 64) (f : CmdQ → CmdQ) : (s.onCq q f).freeIdx = s.freeIdx := rfl
@[simp] theorem State.onCq_nextId (s : State) (q : Fin 64) (f : CmdQ → CmdQ) : (s.onCq q f).nextId = s.nextId := rfl
@[simp] theorem State.onCq_tickNo (s : State) (q : Fin 64) (f : CmdQ → CmdQ) : (s.onCq q f).tickNo = s.tickNo := rfl
@[simp] theorem State.onCq_pending (s : State) (q : Fin 64) (f : CmdQ → CmdQ) : (s.onCq q f).pending = s.pending := rfl
@[simp] theorem State.onCq_isl (s : State) (q : Fin 64) (f : CmdQ → CmdQ) (j : IslandNo) : (s.onCq q f).isl j = s.isl j := rfl
@[simp] theorem State.onCq_quad (s : State) (q : Fin 64) (f : CmdQ → CmdQ) (j : QuadNo) : (s.onCq q f).quad j = s.quad j := rfl
@[simp] theorem State.onCq_slice (s : State) (q : Fin 64) (f : CmdQ → CmdQ) (j : SliceNo) : (s.onCq q f).slice j = s.slice j := rfl
@[simp] theorem State.onCq_group (s : State) (q : Fin 64) (f : CmdQ → CmdQ) (j : GroupNo) : (s.onCq q f).group j = s.group j := rfl

@[simp] theorem State.answer_por (s : State) (tag : BitVec 4) (code : BitVec 2) (d : W64) : (s.answer tag code d).por = s.por := rfl
@[simp] theorem State.answer_islands (s : State) (tag : BitVec 4) (code : BitVec 2) (d : W64) : (s.answer tag code d).islands = s.islands := rfl
@[simp] theorem State.answer_quads (s : State) (tag : BitVec 4) (code : BitVec 2) (d : W64) : (s.answer tag code d).quads = s.quads := rfl
@[simp] theorem State.answer_slices (s : State) (tag : BitVec 4) (code : BitVec 2) (d : W64) : (s.answer tag code d).slices = s.slices := rfl
@[simp] theorem State.answer_groups (s : State) (tag : BitVec 4) (code : BitVec 2) (d : W64) : (s.answer tag code d).groups = s.groups := rfl
@[simp] theorem State.answer_cfg (s : State) (tag : BitVec 4) (code : BitVec 2) (d : W64) : (s.answer tag code d).cfg = s.cfg := rfl
@[simp] theorem State.answer_cmd (s : State) (tag : BitVec 4) (code : BitVec 2) (d : W64) : (s.answer tag code d).cmd = s.cmd := rfl
@[simp] theorem State.answer_eph (s : State) (tag : BitVec 4) (code : BitVec 2) (d : W64) : (s.answer tag code d).eph = s.eph := rfl
@[simp] theorem State.answer_spg (s : State) (tag : BitVec 4) (code : BitVec 2) (d : W64) : (s.answer tag code d).spg = s.spg := rfl
@[simp] theorem State.answer_svy (s : State) (tag : BitVec 4) (code : BitVec 2) (d : W64) : (s.answer tag code d).svy = s.svy := rfl
@[simp] theorem State.answer_log (s : State) (tag : BitVec 4) (code : BitVec 2) (d : W64) : (s.answer tag code d).log = s.log := rfl
@[simp] theorem State.answer_inj (s : State) (tag : BitVec 4) (code : BitVec 2) (d : W64) : (s.answer tag code d).inj = s.inj := rfl
@[simp] theorem State.answer_test (s : State) (tag : BitVec 4) (code : BitVec 2) (d : W64) : (s.answer tag code d).test = s.test := rfl
@[simp] theorem State.answer_reqs (s : State) (tag : BitVec 4) (code : BitVec 2) (d : W64) : (s.answer tag code d).reqs = s.reqs := rfl
@[simp] theorem State.answer_freeIdx (s : State) (tag : BitVec 4) (code : BitVec 2) (d : W64) : (s.answer tag code d).freeIdx = s.freeIdx := rfl
@[simp] theorem State.answer_nextId (s : State) (tag : BitVec 4) (code : BitVec 2) (d : W64) : (s.answer tag code d).nextId = s.nextId := rfl
@[simp] theorem State.answer_tickNo (s : State) (tag : BitVec 4) (code : BitVec 2) (d : W64) : (s.answer tag code d).tickNo = s.tickNo := rfl
@[simp] theorem State.answer_pending (s : State) (tag : BitVec 4) (code : BitVec 2) (d : W64) : (s.answer tag code d).pending = s.pending := rfl
@[simp] theorem State.answer_isl (s : State) (tag : BitVec 4) (code : BitVec 2) (d : W64) (j : IslandNo) : (s.answer tag code d).isl j = s.isl j := rfl
@[simp] theorem State.answer_quad (s : State) (tag : BitVec 4) (code : BitVec 2) (d : W64) (j : QuadNo) : (s.answer tag code d).quad j = s.quad j := rfl
@[simp] theorem State.answer_slice (s : State) (tag : BitVec 4) (code : BitVec 2) (d : W64) (j : SliceNo) : (s.answer tag code d).slice j = s.slice j := rfl
@[simp] theorem State.answer_group (s : State) (tag : BitVec 4) (code : BitVec 2) (d : W64) (j : GroupNo) : (s.answer tag code d).group j = s.group j := rfl

@[simp] theorem State.dropReq_por (s : State) (u : BitVec 6) (tid : BitVec 16) : (s.dropReq u tid).por = s.por := rfl
@[simp] theorem State.dropReq_islands (s : State) (u : BitVec 6) (tid : BitVec 16) : (s.dropReq u tid).islands = s.islands := rfl
@[simp] theorem State.dropReq_quads (s : State) (u : BitVec 6) (tid : BitVec 16) : (s.dropReq u tid).quads = s.quads := rfl
@[simp] theorem State.dropReq_slices (s : State) (u : BitVec 6) (tid : BitVec 16) : (s.dropReq u tid).slices = s.slices := rfl
@[simp] theorem State.dropReq_groups (s : State) (u : BitVec 6) (tid : BitVec 16) : (s.dropReq u tid).groups = s.groups := rfl
@[simp] theorem State.dropReq_cfg (s : State) (u : BitVec 6) (tid : BitVec 16) : (s.dropReq u tid).cfg = s.cfg := rfl
@[simp] theorem State.dropReq_cp (s : State) (u : BitVec 6) (tid : BitVec 16) : (s.dropReq u tid).cp = s.cp := rfl
@[simp] theorem State.dropReq_cmd (s : State) (u : BitVec 6) (tid : BitVec 16) : (s.dropReq u tid).cmd = s.cmd := rfl
@[simp] theorem State.dropReq_eph (s : State) (u : BitVec 6) (tid : BitVec 16) : (s.dropReq u tid).eph = s.eph := rfl
@[simp] theorem State.dropReq_spg (s : State) (u : BitVec 6) (tid : BitVec 16) : (s.dropReq u tid).spg = s.spg := rfl
@[simp] theorem State.dropReq_svy (s : State) (u : BitVec 6) (tid : BitVec 16) : (s.dropReq u tid).svy = s.svy := rfl
@[simp] theorem State.dropReq_log (s : State) (u : BitVec 6) (tid : BitVec 16) : (s.dropReq u tid).log = s.log := rfl
@[simp] theorem State.dropReq_inj (s : State) (u : BitVec 6) (tid : BitVec 16) : (s.dropReq u tid).inj = s.inj := rfl
@[simp] theorem State.dropReq_test (s : State) (u : BitVec 6) (tid : BitVec 16) : (s.dropReq u tid).test = s.test := rfl
@[simp] theorem State.dropReq_freeIdx (s : State) (u : BitVec 6) (tid : BitVec 16) : (s.dropReq u tid).freeIdx = s.freeIdx := rfl
@[simp] theorem State.dropReq_nextId (s : State) (u : BitVec 6) (tid : BitVec 16) : (s.dropReq u tid).nextId = s.nextId := rfl
@[simp] theorem State.dropReq_tickNo (s : State) (u : BitVec 6) (tid : BitVec 16) : (s.dropReq u tid).tickNo = s.tickNo := rfl
@[simp] theorem State.dropReq_pending (s : State) (u : BitVec 6) (tid : BitVec 16) : (s.dropReq u tid).pending = s.pending := rfl
@[simp] theorem State.dropReq_isl (s : State) (u : BitVec 6) (tid : BitVec 16) (j : IslandNo) : (s.dropReq u tid).isl j = s.isl j := rfl
@[simp] theorem State.dropReq_quad (s : State) (u : BitVec 6) (tid : BitVec 16) (j : QuadNo) : (s.dropReq u tid).quad j = s.quad j := rfl
@[simp] theorem State.dropReq_slice (s : State) (u : BitVec 6) (tid : BitVec 16) (j : SliceNo) : (s.dropReq u tid).slice j = s.slice j := rfl
@[simp] theorem State.dropReq_group (s : State) (u : BitVec 6) (tid : BitVec 16) (j : GroupNo) : (s.dropReq u tid).group j = s.group j := rfl

@[simp] theorem State.onSlot_por (s : State) (n : Fin 64) (f : SpgSlot → SpgSlot) : (s.onSlot n f).por = s.por := rfl
@[simp] theorem State.onSlot_islands (s : State) (n : Fin 64) (f : SpgSlot → SpgSlot) : (s.onSlot n f).islands = s.islands := rfl
@[simp] theorem State.onSlot_quads (s : State) (n : Fin 64) (f : SpgSlot → SpgSlot) : (s.onSlot n f).quads = s.quads := rfl
@[simp] theorem State.onSlot_slices (s : State) (n : Fin 64) (f : SpgSlot → SpgSlot) : (s.onSlot n f).slices = s.slices := rfl
@[simp] theorem State.onSlot_groups (s : State) (n : Fin 64) (f : SpgSlot → SpgSlot) : (s.onSlot n f).groups = s.groups := rfl
@[simp] theorem State.onSlot_cfg (s : State) (n : Fin 64) (f : SpgSlot → SpgSlot) : (s.onSlot n f).cfg = s.cfg := rfl
@[simp] theorem State.onSlot_cp (s : State) (n : Fin 64) (f : SpgSlot → SpgSlot) : (s.onSlot n f).cp = s.cp := rfl
@[simp] theorem State.onSlot_cmd (s : State) (n : Fin 64) (f : SpgSlot → SpgSlot) : (s.onSlot n f).cmd = s.cmd := rfl
@[simp] theorem State.onSlot_eph (s : State) (n : Fin 64) (f : SpgSlot → SpgSlot) : (s.onSlot n f).eph = s.eph := rfl
@[simp] theorem State.onSlot_svy (s : State) (n : Fin 64) (f : SpgSlot → SpgSlot) : (s.onSlot n f).svy = s.svy := rfl
@[simp] theorem State.onSlot_log (s : State) (n : Fin 64) (f : SpgSlot → SpgSlot) : (s.onSlot n f).log = s.log := rfl
@[simp] theorem State.onSlot_inj (s : State) (n : Fin 64) (f : SpgSlot → SpgSlot) : (s.onSlot n f).inj = s.inj := rfl
@[simp] theorem State.onSlot_test (s : State) (n : Fin 64) (f : SpgSlot → SpgSlot) : (s.onSlot n f).test = s.test := rfl
@[simp] theorem State.onSlot_reqs (s : State) (n : Fin 64) (f : SpgSlot → SpgSlot) : (s.onSlot n f).reqs = s.reqs := rfl
@[simp] theorem State.onSlot_freeIdx (s : State) (n : Fin 64) (f : SpgSlot → SpgSlot) : (s.onSlot n f).freeIdx = s.freeIdx := rfl
@[simp] theorem State.onSlot_nextId (s : State) (n : Fin 64) (f : SpgSlot → SpgSlot) : (s.onSlot n f).nextId = s.nextId := rfl
@[simp] theorem State.onSlot_tickNo (s : State) (n : Fin 64) (f : SpgSlot → SpgSlot) : (s.onSlot n f).tickNo = s.tickNo := rfl
@[simp] theorem State.onSlot_pending (s : State) (n : Fin 64) (f : SpgSlot → SpgSlot) : (s.onSlot n f).pending = s.pending := rfl
@[simp] theorem State.onSlot_isl (s : State) (n : Fin 64) (f : SpgSlot → SpgSlot) (j : IslandNo) : (s.onSlot n f).isl j = s.isl j := rfl
@[simp] theorem State.onSlot_quad (s : State) (n : Fin 64) (f : SpgSlot → SpgSlot) (j : QuadNo) : (s.onSlot n f).quad j = s.quad j := rfl
@[simp] theorem State.onSlot_slice (s : State) (n : Fin 64) (f : SpgSlot → SpgSlot) (j : SliceNo) : (s.onSlot n f).slice j = s.slice j := rfl
@[simp] theorem State.onSlot_group (s : State) (n : Fin 64) (f : SpgSlot → SpgSlot) (j : GroupNo) : (s.onSlot n f).group j = s.group j := rfl

@[simp] theorem State.failRun_por (s : State) (r : Option Nat) (st : BitVec 8) : (s.failRun r st).por = s.por := by cases r <;> rfl
@[simp] theorem State.failRun_islands (s : State) (r : Option Nat) (st : BitVec 8) : (s.failRun r st).islands = s.islands := by cases r <;> rfl
@[simp] theorem State.failRun_quads (s : State) (r : Option Nat) (st : BitVec 8) : (s.failRun r st).quads = s.quads := by cases r <;> rfl
@[simp] theorem State.failRun_slices (s : State) (r : Option Nat) (st : BitVec 8) : (s.failRun r st).slices = s.slices := by cases r <;> rfl
@[simp] theorem State.failRun_groups (s : State) (r : Option Nat) (st : BitVec 8) : (s.failRun r st).groups = s.groups := by cases r <;> rfl
@[simp] theorem State.failRun_cfg (s : State) (r : Option Nat) (st : BitVec 8) : (s.failRun r st).cfg = s.cfg := by cases r <;> rfl
@[simp] theorem State.failRun_cp (s : State) (r : Option Nat) (st : BitVec 8) : (s.failRun r st).cp = s.cp := by cases r <;> rfl
@[simp] theorem State.failRun_eph (s : State) (r : Option Nat) (st : BitVec 8) : (s.failRun r st).eph = s.eph := by cases r <;> rfl
@[simp] theorem State.failRun_spg (s : State) (r : Option Nat) (st : BitVec 8) : (s.failRun r st).spg = s.spg := by cases r <;> rfl
@[simp] theorem State.failRun_svy (s : State) (r : Option Nat) (st : BitVec 8) : (s.failRun r st).svy = s.svy := by cases r <;> rfl
@[simp] theorem State.failRun_log (s : State) (r : Option Nat) (st : BitVec 8) : (s.failRun r st).log = s.log := by cases r <;> rfl
@[simp] theorem State.failRun_inj (s : State) (r : Option Nat) (st : BitVec 8) : (s.failRun r st).inj = s.inj := by cases r <;> rfl
@[simp] theorem State.failRun_reqs (s : State) (r : Option Nat) (st : BitVec 8) : (s.failRun r st).reqs = s.reqs := by cases r <;> rfl
@[simp] theorem State.failRun_freeIdx (s : State) (r : Option Nat) (st : BitVec 8) : (s.failRun r st).freeIdx = s.freeIdx := by cases r <;> rfl
@[simp] theorem State.failRun_nextId (s : State) (r : Option Nat) (st : BitVec 8) : (s.failRun r st).nextId = s.nextId := by cases r <;> rfl
@[simp] theorem State.failRun_tickNo (s : State) (r : Option Nat) (st : BitVec 8) : (s.failRun r st).tickNo = s.tickNo := by cases r <;> rfl
@[simp] theorem State.failRun_pending (s : State) (r : Option Nat) (st : BitVec 8) : (s.failRun r st).pending = s.pending := by cases r <;> rfl
@[simp] theorem State.failRun_isl (s : State) (r : Option Nat) (st : BitVec 8) (j : IslandNo) : (s.failRun r st).isl j = s.isl j := by cases r <;> rfl
@[simp] theorem State.failRun_quad (s : State) (r : Option Nat) (st : BitVec 8) (j : QuadNo) : (s.failRun r st).quad j = s.quad j := by cases r <;> rfl
@[simp] theorem State.failRun_slice (s : State) (r : Option Nat) (st : BitVec 8) (j : SliceNo) : (s.failRun r st).slice j = s.slice j := by cases r <;> rfl
@[simp] theorem State.failRun_group (s : State) (r : Option Nat) (st : BitVec 8) (j : GroupNo) : (s.failRun r st).group j = s.group j := by cases r <;> rfl

@[simp] theorem State.bump_por (s : State) (k : IslandNo) (off n : Nat) : (s.bump k off n).por = s.por := rfl
@[simp] theorem State.bump_quads (s : State) (k : IslandNo) (off n : Nat) : (s.bump k off n).quads = s.quads := rfl
@[simp] theorem State.bump_slices (s : State) (k : IslandNo) (off n : Nat) : (s.bump k off n).slices = s.slices := rfl
@[simp] theorem State.bump_groups (s : State) (k : IslandNo) (off n : Nat) : (s.bump k off n).groups = s.groups := rfl
@[simp] theorem State.bump_cfg (s : State) (k : IslandNo) (off n : Nat) : (s.bump k off n).cfg = s.cfg := rfl
@[simp] theorem State.bump_cp (s : State) (k : IslandNo) (off n : Nat) : (s.bump k off n).cp = s.cp := rfl
@[simp] theorem State.bump_cmd (s : State) (k : IslandNo) (off n : Nat) : (s.bump k off n).cmd = s.cmd := rfl
@[simp] theorem State.bump_eph (s : State) (k : IslandNo) (off n : Nat) : (s.bump k off n).eph = s.eph := rfl
@[simp] theorem State.bump_spg (s : State) (k : IslandNo) (off n : Nat) : (s.bump k off n).spg = s.spg := rfl
@[simp] theorem State.bump_svy (s : State) (k : IslandNo) (off n : Nat) : (s.bump k off n).svy = s.svy := rfl
@[simp] theorem State.bump_log (s : State) (k : IslandNo) (off n : Nat) : (s.bump k off n).log = s.log := rfl
@[simp] theorem State.bump_inj (s : State) (k : IslandNo) (off n : Nat) : (s.bump k off n).inj = s.inj := rfl
@[simp] theorem State.bump_test (s : State) (k : IslandNo) (off n : Nat) : (s.bump k off n).test = s.test := rfl
@[simp] theorem State.bump_reqs (s : State) (k : IslandNo) (off n : Nat) : (s.bump k off n).reqs = s.reqs := rfl
@[simp] theorem State.bump_freeIdx (s : State) (k : IslandNo) (off n : Nat) : (s.bump k off n).freeIdx = s.freeIdx := rfl
@[simp] theorem State.bump_nextId (s : State) (k : IslandNo) (off n : Nat) : (s.bump k off n).nextId = s.nextId := rfl
@[simp] theorem State.bump_tickNo (s : State) (k : IslandNo) (off n : Nat) : (s.bump k off n).tickNo = s.tickNo := rfl
@[simp] theorem State.bump_pending (s : State) (k : IslandNo) (off n : Nat) : (s.bump k off n).pending = s.pending := rfl
@[simp] theorem State.bump_quad (s : State) (k : IslandNo) (off n : Nat) (j : QuadNo) : (s.bump k off n).quad j = s.quad j := rfl
@[simp] theorem State.bump_slice (s : State) (k : IslandNo) (off n : Nat) (j : SliceNo) : (s.bump k off n).slice j = s.slice j := rfl
@[simp] theorem State.bump_group (s : State) (k : IslandNo) (off n : Nat) (j : GroupNo) : (s.bump k off n).group j = s.group j := rfl

@[simp] theorem State.emit_por (s : State) (k : IslandNo) (n : Note) : (s.emit k n).por = s.por := rfl
@[simp] theorem State.emit_quads (s : State) (k : IslandNo) (n : Note) : (s.emit k n).quads = s.quads := rfl
@[simp] theorem State.emit_slices (s : State) (k : IslandNo) (n : Note) : (s.emit k n).slices = s.slices := rfl
@[simp] theorem State.emit_groups (s : State) (k : IslandNo) (n : Note) : (s.emit k n).groups = s.groups := rfl
@[simp] theorem State.emit_cfg (s : State) (k : IslandNo) (n : Note) : (s.emit k n).cfg = s.cfg := rfl
@[simp] theorem State.emit_cp (s : State) (k : IslandNo) (n : Note) : (s.emit k n).cp = s.cp := rfl
@[simp] theorem State.emit_cmd (s : State) (k : IslandNo) (n : Note) : (s.emit k n).cmd = s.cmd := rfl
@[simp] theorem State.emit_eph (s : State) (k : IslandNo) (n : Note) : (s.emit k n).eph = s.eph := rfl
@[simp] theorem State.emit_spg (s : State) (k : IslandNo) (n : Note) : (s.emit k n).spg = s.spg := rfl
@[simp] theorem State.emit_svy (s : State) (k : IslandNo) (n : Note) : (s.emit k n).svy = s.svy := rfl
@[simp] theorem State.emit_log (s : State) (k : IslandNo) (n : Note) : (s.emit k n).log = s.log := rfl
@[simp] theorem State.emit_inj (s : State) (k : IslandNo) (n : Note) : (s.emit k n).inj = s.inj := rfl
@[simp] theorem State.emit_test (s : State) (k : IslandNo) (n : Note) : (s.emit k n).test = s.test := rfl
@[simp] theorem State.emit_reqs (s : State) (k : IslandNo) (n : Note) : (s.emit k n).reqs = s.reqs := rfl
@[simp] theorem State.emit_freeIdx (s : State) (k : IslandNo) (n : Note) : (s.emit k n).freeIdx = s.freeIdx := rfl
@[simp] theorem State.emit_nextId (s : State) (k : IslandNo) (n : Note) : (s.emit k n).nextId = s.nextId := rfl
@[simp] theorem State.emit_tickNo (s : State) (k : IslandNo) (n : Note) : (s.emit k n).tickNo = s.tickNo := rfl
@[simp] theorem State.emit_pending (s : State) (k : IslandNo) (n : Note) : (s.emit k n).pending = s.pending := rfl
@[simp] theorem State.emit_quad (s : State) (k : IslandNo) (n : Note) (j : QuadNo) : (s.emit k n).quad j = s.quad j := rfl
@[simp] theorem State.emit_slice (s : State) (k : IslandNo) (n : Note) (j : SliceNo) : (s.emit k n).slice j = s.slice j := rfl
@[simp] theorem State.emit_group (s : State) (k : IslandNo) (n : Note) (j : GroupNo) : (s.emit k n).group j = s.group j := rfl

@[simp] theorem State.event_por (s : State) (k : IslandNo) (e : DetEvent) : (s.event k e).por = s.por := rfl
@[simp] theorem State.event_quads (s : State) (k : IslandNo) (e : DetEvent) : (s.event k e).quads = s.quads := rfl
@[simp] theorem State.event_slices (s : State) (k : IslandNo) (e : DetEvent) : (s.event k e).slices = s.slices := rfl
@[simp] theorem State.event_groups (s : State) (k : IslandNo) (e : DetEvent) : (s.event k e).groups = s.groups := rfl
@[simp] theorem State.event_cfg (s : State) (k : IslandNo) (e : DetEvent) : (s.event k e).cfg = s.cfg := rfl
@[simp] theorem State.event_cp (s : State) (k : IslandNo) (e : DetEvent) : (s.event k e).cp = s.cp := rfl
@[simp] theorem State.event_cmd (s : State) (k : IslandNo) (e : DetEvent) : (s.event k e).cmd = s.cmd := rfl
@[simp] theorem State.event_eph (s : State) (k : IslandNo) (e : DetEvent) : (s.event k e).eph = s.eph := rfl
@[simp] theorem State.event_spg (s : State) (k : IslandNo) (e : DetEvent) : (s.event k e).spg = s.spg := rfl
@[simp] theorem State.event_svy (s : State) (k : IslandNo) (e : DetEvent) : (s.event k e).svy = s.svy := rfl
@[simp] theorem State.event_log (s : State) (k : IslandNo) (e : DetEvent) : (s.event k e).log = s.log := rfl
@[simp] theorem State.event_inj (s : State) (k : IslandNo) (e : DetEvent) : (s.event k e).inj = s.inj := rfl
@[simp] theorem State.event_test (s : State) (k : IslandNo) (e : DetEvent) : (s.event k e).test = s.test := rfl
@[simp] theorem State.event_reqs (s : State) (k : IslandNo) (e : DetEvent) : (s.event k e).reqs = s.reqs := rfl
@[simp] theorem State.event_freeIdx (s : State) (k : IslandNo) (e : DetEvent) : (s.event k e).freeIdx = s.freeIdx := rfl
@[simp] theorem State.event_nextId (s : State) (k : IslandNo) (e : DetEvent) : (s.event k e).nextId = s.nextId := rfl
@[simp] theorem State.event_tickNo (s : State) (k : IslandNo) (e : DetEvent) : (s.event k e).tickNo = s.tickNo := rfl
@[simp] theorem State.event_pending (s : State) (k : IslandNo) (e : DetEvent) : (s.event k e).pending = s.pending := rfl
@[simp] theorem State.event_quad (s : State) (k : IslandNo) (e : DetEvent) (j : QuadNo) : (s.event k e).quad j = s.quad j := rfl
@[simp] theorem State.event_slice (s : State) (k : IslandNo) (e : DetEvent) (j : SliceNo) : (s.event k e).slice j = s.slice j := rfl
@[simp] theorem State.event_group (s : State) (k : IslandNo) (e : DetEvent) (j : GroupNo) : (s.event k e).group j = s.group j := rfl

@[simp] theorem State.send_por (s : State) (k : IslandNo) (p : OutPkt) : (s.send k p).por = s.por := rfl
@[simp] theorem State.send_quads (s : State) (k : IslandNo) (p : OutPkt) : (s.send k p).quads = s.quads := rfl
@[simp] theorem State.send_slices (s : State) (k : IslandNo) (p : OutPkt) : (s.send k p).slices = s.slices := rfl
@[simp] theorem State.send_groups (s : State) (k : IslandNo) (p : OutPkt) : (s.send k p).groups = s.groups := rfl
@[simp] theorem State.send_cfg (s : State) (k : IslandNo) (p : OutPkt) : (s.send k p).cfg = s.cfg := rfl
@[simp] theorem State.send_cp (s : State) (k : IslandNo) (p : OutPkt) : (s.send k p).cp = s.cp := rfl
@[simp] theorem State.send_cmd (s : State) (k : IslandNo) (p : OutPkt) : (s.send k p).cmd = s.cmd := rfl
@[simp] theorem State.send_eph (s : State) (k : IslandNo) (p : OutPkt) : (s.send k p).eph = s.eph := rfl
@[simp] theorem State.send_spg (s : State) (k : IslandNo) (p : OutPkt) : (s.send k p).spg = s.spg := rfl
@[simp] theorem State.send_svy (s : State) (k : IslandNo) (p : OutPkt) : (s.send k p).svy = s.svy := rfl
@[simp] theorem State.send_log (s : State) (k : IslandNo) (p : OutPkt) : (s.send k p).log = s.log := rfl
@[simp] theorem State.send_inj (s : State) (k : IslandNo) (p : OutPkt) : (s.send k p).inj = s.inj := rfl
@[simp] theorem State.send_test (s : State) (k : IslandNo) (p : OutPkt) : (s.send k p).test = s.test := rfl
@[simp] theorem State.send_reqs (s : State) (k : IslandNo) (p : OutPkt) : (s.send k p).reqs = s.reqs := rfl
@[simp] theorem State.send_freeIdx (s : State) (k : IslandNo) (p : OutPkt) : (s.send k p).freeIdx = s.freeIdx := rfl
@[simp] theorem State.send_nextId (s : State) (k : IslandNo) (p : OutPkt) : (s.send k p).nextId = s.nextId := rfl
@[simp] theorem State.send_tickNo (s : State) (k : IslandNo) (p : OutPkt) : (s.send k p).tickNo = s.tickNo := rfl
@[simp] theorem State.send_pending (s : State) (k : IslandNo) (p : OutPkt) : (s.send k p).pending = s.pending := rfl
@[simp] theorem State.send_quad (s : State) (k : IslandNo) (p : OutPkt) (j : QuadNo) : (s.send k p).quad j = s.quad j := rfl
@[simp] theorem State.send_slice (s : State) (k : IslandNo) (p : OutPkt) (j : SliceNo) : (s.send k p).slice j = s.slice j := rfl
@[simp] theorem State.send_group (s : State) (k : IslandNo) (p : OutPkt) (j : GroupNo) : (s.send k p).group j = s.group j := rfl

/-- Using an injection changes the islands and the injector only. -/
theorem State.useInjection_eq (s : State) (k : IslandNo) :
    s.useInjection k = { s with islands := (s.useInjection k).islands, inj := (s.useInjection k).inj } := by
  unfold State.useInjection
  split
  · rfl
  · simp only [State.bump, State.onIsl]; split <;> rfl

/-- Asking for an injection changes the islands and the injector only. -/
theorem State.inject_eq (s : State) (k : IslandNo) (c i : Nat) :
    (s.inject k c i).2 = { s with islands := (s.inject k c i).2.islands, inj := (s.inject k c i).2.inj } := by
  unfold State.inject
  split
  · exact useInjection_eq ..
  · rfl

/-- Making a fabric packet changes the islands only: it waits in its maker's outgoing packets. -/
theorem State.sendFabric_eq (s : State) (k : IslandNo) (c : Nat) (ws : List W64) (b : Bool) :
    s.sendFabric k c ws b = { s with islands := (s.sendFabric k c ws b).islands } := by
  unfold State.sendFabric; dsimp only; split <;> rfl

/-- A packet for another unit or block is handed to an island's outgoing packets: only islands change. -/
theorem State.post_eq (s : State) (u : BitVec 6) (pt : Nat) (ws : List W64) (b : Bool) :
    s.post u pt ws b = { s with islands := (s.post u pt ws b).islands } := by
  unfold State.post
  split
  · exact sendFabric_eq ..
  · rfl

/-- So for a packet with a plate's data. -/
theorem State.postData_eq (s : State) (dest : BitVec 12) (u : BitVec 6) (pt : Nat) (tr : W64) (rest : List W64)
    (d : PlateWords) : s.postData dest u pt tr rest d = { s with islands := (s.postData dest u pt tr rest d).islands } := by
  unfold State.postData
  dsimp only
  split
  · exact post_eq ..
  · rw [post_eq]
    generalize (State.post (s.post _ _ _ _) _ _ _ _).islands = x
    rw [post_eq s]

/-- So for an acknowledgement. -/
theorem State.ackTo_eq (s : State) (r : Requester) (u : BitVec 6) (st : BitVec 4) (oid : BitVec 40) (idx : BitVec 24) (h : HomeWord) (n : Nat)
    (a : BitVec 32) : s.ackTo r u st oid idx h n a = { s with islands := (s.ackTo r u st oid idx h n a).islands } := by
  unfold State.ackTo; exact post_eq ..

/-- A request of this block changes the islands, the requests not answered, and the count of free values. -/
theorem State.request_eq (s : State) (r : FabReq) :
    s.request r = { s with islands := (s.request r).islands, reqs := (s.request r).reqs, freeIdx := (s.request r).freeIdx } := by
  unfold State.request
  dsimp only
  rw [postData_eq]; rfl

end Sys2Proof.Machine
end

