-- ==== Sys2Proof/WellFormed.lean ====
section
/-! DEFINITION. When a command is well formed: its operands have the widths and lengths that the rule of its row gives what it carries. -/

namespace Sys2Proof

open Machine

/-- The words of a plate that travels: at most the 65,568 bytes of a ZFC plate of F32 fields with its header, and the
512 scale bytes of a P4 or P8 plate (R154). -/
def PlateWords.wf (p : PlateWords) : Bool := decide (p.body.length ≤ 65568 ∧ p.scale.length ≤ 512)

/-- What a parity check reports names words of the packet and a cell of the pool (R33, R35). -/
def ParityObs.wf (o : ParityObs) : Bool := (o.words.all fun i => i < 65536) && decide (o.inCell < 1024)

/-- An event names a detector of the table, and an instance that the detector has (R448). -/
def DetEvent.wf (e : DetEvent) : Bool := detTable.any fun r => r.code == e.code.toNat && e.inst.toNat < r.insts

/-- Words received on the used lanes: 4, 8 or 12 lanes, as many words on each, at most a frame's (R95, R382, R383). -/
def frameWf (lanes : List (List (BitVec 128))) : Bool :=
  (lanes.length == 4 || lanes.length == 8 || lanes.length == 12) &&
    lanes.all fun l => l.length == (lanes.headD []).length && decide (l.length ≤ 32)

/-- The checks, command by command. -/
def Instr.wf : Instr → Bool
  | .porAssert | .porRelease | .checkWindowClose => true
  | .islandResetAssert _ | .islandResetRelease _ => true
  | .packetOpen x q n ws => queueExists x q.toNat && decide (ws.length ≤ n.toNat)
  | .packetClose x q more _ _ => queueExists x q.toNat && decide (more.length < 65536)
  | .packetVisible x q | .queueWriteFull x q _ => queueExists x q.toNat
  | .packetConsume x q o | .quadrantForward x q _ o => queueExists x q.toNat && o.wf
  | .fabricPacketArrive _ _ _ o | .peerQueueDispatch _ _ o | .cqRead _ _ o | .logRead _ o => o.wf
  | .flitSend _ l => l.all ParityObs.wf
  | .mpReadResponse _ _ data _ _ => data.length == 512
  | .importBeat _ _ _ fmt data scale _ _ => data.length == 256 && scale.length == scalesPerBeat fmt
  | .nwReadBeat _ data _ _ => data.length == 64
  | .frameReceive _ lanes => frameWf lanes
  | .rdRsp _ _ _ _ plate => plate.wf
  | .wrReq _ _ _ _ data => data.wf
  | .mvData _ _ _ _ _ _ data => data.wf
  | .redData _ _ _ _ _ data _ => decide (data.length ≤ 65536)
  | .lookupRsp _ _ o v => o.length == 8 && v.length == 8
  | .cmdx _ _ ws => ws.length == 7
  | .mirror _ es => decide (es.length ≤ 2) && es.all fun ws => ws.length == 8
  | .join _ _ _ islice _ => islice.length == 32
  | .occ _ fx _ => fx.length == 32
  | .detectorEvent _ e => e.wf
  | .detectorWindowStart _ code inst => DetEvent.wf { code := code, inst := inst }
  | .mpUpRise _ | .mpUpStable _ | .mpUpFall _ | .mpNotReady _ | .mpDownForced _ | .mpRequestIssue .. | .mpWriteDataBeat ..
  | .mpWriteResponse .. | .mpTagTimeout .. | .mpHeldRequestTimeout .. => true
  | .exportBeat _ | .exportAbandon _ | .importStreamOpen _ | .importPlateTimeout .. | .importStreamIdleTimeout .. => true
  | .registerWrite .. | .broadcastWrite .. | .registerResponseTimeout .. | .doorbell .. => true
  | .nwPathUpRise | .nwPathUpStable | .nwPathDown | .nwRequestIssue _ | .nwWriteDataBeat | .nwWriteAck .. | .nwTagTimeout _ => true
  | .pmaRxLockFall .. | .attnCauseClear _ | .actUpExpire _ | .bistNetworkStart _ => true
  | .streamWord _ | .streamTruncated | .streamResyncEnd | .quiesceRequest _ | .islandQuiesced _ | .quiesceRelease _ | .keyCommit _ => true
  | .guardLineFill .. | .guardWritebackTimer .. | .frcEncode _ | .plateWrite _ | .storePlate _ | .frameClaim .. | .indexWrite ..
  | .spanSwing .. | .frameFree .. | .deferredSwings _ => true
  | .histogramSend _ | .tableBuild | .slotLive _ | .slotDrainedReport .. | .slotDrainComplete _ | .slotHoldTimeout _ => true
  | .plateAdmissible .. | .contextSwitch .. | .laneAssign _ | .substreamEnd .. | .substreamDecodeTimeout .. | .tableCacheFill .. => true
  | .rowBlockLoad _ | .passStart _ | .activationRowIssue .. | .outputFinal _ | .accumulatorDrain _ => true
  | .pairJoin _ | .pairSeparate _ | .portEndReadyNotice _ | .twinTakeUp _ => true
  | .engineChoice _ | .chunkQueue _ | .taskRun .. | .workSteal .. | .spillRecordWrite _ | .groupEnd _ | .drainRound _ => true
  | .entryFetch _ | .staleRefetch _ | .nop _ | .plateMatmul _ | .exportCmd _ | .importCmd _ | .compress _ | .recode _ | .move _ | .copy _
  | .prefetch _ | .evict _ | .pin _ | .unpin _ | .reduce _ | .hostRead _ | .hostWrite _ | .signal _ | .wait _ | .waitRelease _
  | .fence _ | .tableLoad _ | .tableRetire _ | .scrub _ => true
  | .commandComplete _ | .cqRecordHeldWrite _ | .hostCompletionWrite _ | .queueConfigWrite .. | .queueReset .. | .queueHalt ..
  | .queueResume _ => true
  | .markerReceive .. | .replayTimeout _ | .trainingTimeout _ | .linkRetrain _ | .linkRestart _ => true
  | .requestTimeout .. | .rdReq .. | .lookup .. | .register .. | .objReq .. | .objRsp .. => true
  | .spanMoveStart _ | .mvStart .. | .copyDone .. | .commit .. | .commitAck .. | .cmdxResult .. | .fabricAck .. | .free .. | .pinSet ..
  | .evictReq .. | .occSend | .sig .. => true
  | .healStart | .healEnd .. | .haltSet _ | .patrolBurst | .auditCompare _ | .mirrorBeat => true
  | .reportSend .. | .logReportTake | .stagedAppend | .logCodeSeenClear | .injArm .. | .injCancel | .islandSnap ..
  | .prauxSnap _ => true
  | .islandBist .. | .linkBringupBound _ | .mgrStepBound | .joinResend | .cmdEnable | .readySet | .readyClear | .pmaTxRdyChange ..
  | .markerMissing .. | .islandClockStart _ | .islandClockStop _ | .cfgSelfTestEnd _ | .ephReloadEnd | .freeRunOverflowMerge => true

end Sys2Proof
end

