-- ==== Sys2Proof/Tests/Slice0.lean ====
section
/-! SUPPORT. Tests: ill-formed commands that the checks refuse, worked examples of the spec, and for every statement a
state and operands that meet its hypotheses. -/

set_option linter.unusedVariables false

namespace Sys2Proof.Tests
open Sys2Proof Sys2Proof.Machine

/-! Ill-formed commands. -/

def obs0 : ParityObs := {}
theorem test_open_bad_queue : Instr.wf (.packetOpen 1 0x2110 1 []) = false := by decide
theorem test_open_too_long : Instr.wf (.packetOpen 0 0x2000 1 [{ w := 1 }, { w := 2 }]) = false := by decide
theorem test_open_good : Instr.wf (.packetOpen 0 0x2000 1 [{ w := 1 }]) = true := by decide
theorem test_close_bad_queue : Instr.wf (.packetClose 1 0x2080 [] 0 false) = false := by decide
theorem test_visible_bad_queue : Instr.wf (.packetVisible 0 0x2111) = false := by decide
theorem test_full_write_bad_queue : Instr.wf (.queueWriteFull 0 0x2111 0) = false := by decide
theorem test_forward_bad_queue : Instr.wf (.quadrantForward 3 0x2090 53 obs0) = false := by decide
theorem test_consume_bad_queue : Instr.wf (.packetConsume 3 0x2090 obs0) = false := by decide
theorem test_consume_bad_word : Instr.wf (.packetConsume 0 0x2000 { obs0 with words := [65536] }) = false := by decide
theorem test_read_response_short : Instr.wf (.mpReadResponse 0 0 [0] false 0) = false := by decide
theorem test_import_beat_short : Instr.wf (.importBeat 0 0 0 .h16 [0] [] false false) = false := by decide
theorem test_read_beat_short : Instr.wf (.nwReadBeat 0 [0] false 0) = false := by decide
theorem test_frame_five_lanes : Instr.wf (.frameReceive 0 (List.replicate 5 [])) = false := by decide
theorem test_frame_three : Instr.wf (.frameReceive 0 (List.replicate 3 [])) = false := by decide
theorem test_rd_rsp_scale : Instr.wf (.rdRsp 0 0 0 { valid := false, slice := 0, block := 0 } {
    body := [], scale := List.replicate 513 0 }) = false := by
  simp only [Instr.wf, PlateWords.wf, List.length_replicate]
  decide
theorem test_wr_req_scale : Instr.wf (.wrReq 0 { block := 1, unit := 0, tid := 0 } 1 0 {
    body := [], scale := List.replicate 513 0 }) = false := by
  simp only [Instr.wf, PlateWords.wf, List.length_replicate]
  decide
theorem test_mv_data_scale : Instr.wf (.mvData 0 { block := 1, unit := 0, tid := 0 } 1 0 0 0 {
    body := [], scale := List.replicate 513 0 }) = false := by
  simp only [Instr.wf, PlateWords.wf, List.length_replicate]
  decide
theorem test_red_data_long : Instr.wf (.redData 0 { block := 1, unit := 0, tid := 0 } 1 0 0 (List.replicate 65537 0) false) = false := by
  unfold Instr.wf
  simp only [List.length_replicate]
  decide
theorem test_lookup_rsp_short : Instr.wf (.lookupRsp 0 0 [0] []) = false := by decide
theorem test_cmdx_short : Instr.wf (.cmdx { block := 1, unit := 0, tid := 0 } 6 []) = false := by decide
theorem test_detector_event_unknown : Instr.wf (.detectorEvent 0 { code := 0x0999, inst := 0 }) = false := by decide
theorem test_detector_window_instance : Instr.wf (.detectorWindowStart 0 0x0101 1) = false := by decide
theorem test_mirror_three : Instr.wf (.mirror { block := 1, unit := 0, tid := 0 } [[], [], []]) = false := by decide
theorem test_mirror_short : Instr.wf (.mirror { block := 1, unit := 0, tid := 0 } [[0]]) = false := by decide
theorem test_join_short : Instr.wf (.join { block := 1, unit := 0, tid := 0 } 0 1 [0] 0) = false := by decide
theorem test_occ_short : Instr.wf (.occ { block := 1, unit := 0, tid := 0 } [0] 0) = false := by decide

/-! Worked examples of the spec. -/

/-- The table gives no row any bits. -/
theorem test_no_table_bits : decodeTableWord 16 0x1234 = none := by decide

/-- The SIGNAL entry that R330's example encodes passes the check at its ring index, and at no other. -/
theorem test_signal_entry : entryFits 0x123 [0x0F01232000 * 0x1000000 + 0xAE, 0x0000000700000001, 0, 0, 0, 0, 0, 0] = true ∧
    entryFits 0x124 [0x0F01232000 * 0x1000000 + 0xAE, 0x0000000700000001, 0, 0, 0, 0, 0, 0] = false := by decide

/-- The addresses of 17_register_index.md: DET_STAT of LG11, CMD_Q_STAT of queue 5. -/
theorem test_register_addresses : addrIsland 0x158003 = some 43 ∧ regByte 0x158003 = 0xAC0018 ∧
    addrIsland (BitVec.ofNat 21 (0xD44158 / 8)) = some 53 := by decide

/-- The worked example of 05: home slice, frame size, places in the frame and tweak of plate 2,631 of a rate-5 object. -/
def frcExample : ObjRec := {
  oid := 0x1234567890, code := 1, fmt := 2, rate := 4, key := 0, prows := 100, pcols := 100, edgeR := 128, edgeC := 128 }
theorem test_frc_frame : spanOf 2631 = 41 ∧ posOf 2631 = 7 ∧ defaultSlice (List.range 32) 32 frcExample.oid 41 = 25 ∧
    frameExtents frcExample 64 0 = 81 ∧ 0x00314C00 + segLine frcExample 64 .body 7 = 0x00314C94 ∧ guardOf 0x00314C94 = 25241 := by decide
theorem test_tweak : xtsTweak 0x1234567890 2631 0 3 = 0x00000000001234567890000A47000003 := by decide

/-- The worked example of 06: the canonical codes and the indices of the group's first eight elements. -/
def groupExample : Codebook := {
  levels := [0xBFC00000, 0xBF400000, 0xBE800000, 0x3E800000, 0x3F400000, 0x3FC00000], lens := [3, 3, 2, 2, 3, 3] }
theorem test_canonical : canonical groupExample.lens = [(3, 4), (3, 5), (2, 0), (2, 1), (3, 6), (3, 7)] := by decide
theorem test_quant : quant groupExample 0x3E4CCCCD = 3 ∧ quant groupExample 0xBEF5C28F = 2 ∧ quant groupExample 0x3F99999A = 5 ∧
    quant groupExample 0 = 2 ∧ quant groupExample 0xBF4CCCCD = 1 ∧ quant groupExample 0x3F2E147B = 4 := by decide

/-- The bin of y = 0.75 (R222). -/
theorem test_bin : binOf 0x3F400000 = 2002 := by decide +kernel

/-- The worked example of 08: lines of plates, the frame, the worst-case claim. -/
def zfcExample : ObjRec := {
  oid := 1, code := 2, fmt := 1, rate := 0, key := 0, prows := 64, pcols := 8, edgeR := 0, edgeC := 0 }
theorem test_zfc_frame : zfcLines .p8 111 false = 14 ∧ zfcLines .p8 200 false = 26 ∧ zfcLines .p8 256 false = 33 ∧
    frameExtents zfcExample 64 782 = 54 ∧ worstExtents zfcExample 64 = 137 ∧ segStart zfcExample 64 .packed = 70 := by decide

/-- The examples of 09: the row blocks of 16 plate rows, and the bound that the accumulators set. -/
theorem test_row_blocks : blockSizes 16 5 = [4, 4, 4, 4] ∧ pmaxAcc 32 4 5 = 4 := by decide

/-! Single steps. -/

/-- The state of the outcome, or s where the outcome is none. -/
def nextOf (s : State) : Host.Outcome State Fault Refusal → State
  | .next t => t
  | _ => s

/-- On an empty queue the block in reset idles. -/
theorem test_idle : (nextOf State.reset (step State.reset)).por = true := by decide +kernel
/-- A released island counts its release (R21) and leaves reset; with por_n low, or its clock stopped, it does neither. -/
def released : State := { State.reset with por := false, islands := Vector.replicate 60 { clkSeen := true, clkRun := true } }
theorem test_release : ((nextOf released (exec (.islandResetRelease 59) released)).isl 59).resets = 1 ∧
    ((nextOf released (exec (.islandResetRelease 59) released)).isl 59).inReset = false := by decide
theorem test_release_under_por :
    ((nextOf State.reset (exec (.islandResetRelease 59) State.reset)).isl 59).inReset = true := by decide

/-! States for the witnesses. -/

/-- A configuration of block 5: every slice enabled, every queue below 0x7FFE with a cap of 4,096 cells. -/
def conf0 : Conf := { streamId := 7, recs := [{ type := 1, inst := 0, words := [0x00500000FFFFFFFF] }] ++
  ((List.range 4).map fun x => { type := 7, inst := x, words := [0x0000FFFC00001000, 0x3FFFFFFC00001000] }) }

/-- The same with key slot 0 a link key that may be written in RUN. -/
def keyConf : Conf := { conf0 with recs := conf0.recs ++ [{ type := 12, inst := 0, words := [0x2200000000000000] }] }

def isl0 : Island := { inReset := false, state := .run, resets := 1, clkSeen := true, clkRun := true, conf := some conf0 }

def run0 : State := { State.reset with
  por := false, islands := Vector.replicate 60 isl0, cfg := { store := some conf0, selfTest := some true } }

/-- The same after n cycles of every clock. -/
def late (n : Nat) : State := { run0 with islands := Vector.replicate 60 { isl0 with cycle := BitVec.ofNat 48 n } }

def portUp : State := run0.onSlice 0 fun x => { x with mp := { x.mp with en := true, upPin := true, up := true }, keys := x.keys.set 0 (some []) }
def withGuard : State := portUp.onMp 0 fun m => { m with cache := [{ line := 0, filled := true }] }
def guardRead : MemReq := { wr := false, addr := 9, why := .guardFill 0 }
def dataWrite : MemReq := { wr := true, addr := 1, why := .write 1 }
def readTag : TagUse := { tag := 3, req := guardRead, at_ := 0 }
def writeTag : TagUse := { tag := 3, req := dataWrite, at_ := 0 }
def txPlate : TxPlate := { run := 1, stream := 5, seq := 0, fmt := .h16, rows := [], scales := [] }
def nopEntry : Entry := { idx := 0, words := [0] }
def aRun : CmdRun := { id := 1, q := 3, entry := nopEntry }
def impStream : ImpStream := { run := 1, stream := 5, fmt := .h16, count := 1, at_ := 0 }
def fetchAcc : NwAcc := { why := .fetch 3 0, wr := false, win := 0, addr := 0x1000, len := 64, queue := some (3, 0) }
def hostUp (a : NwAcc) : State := { run0 with cmd := {
  pathPin := true, pathUp := true, nwWaiting := [a]
  wins := Vector.replicate 16 { en := true, base := 1, limit := 1 } } }

def hostArmed (a : NwAcc) : State :=
  ({ hostUp a with cmd := { (hostUp a).cmd with pathUp := true } } : State).onCq 3 fun c => { c with en := true, armed := true, host := true }

def consConf : Conf := { conf0 with recs := conf0.recs ++ [{ type := 9, inst := 0, words := [0x1000000000000000] }] }
def slowImage : List Byte := List.replicate 64 0 ++ [0x0C]
theorem some_of {α : Type} (o : Option α) (d : α) (h : o.isSome = true) : o = some (o.getD d) := by
  cases o with
  | none => cases h
  | some a => rfl

def rec1 : RecWords := { w0 := 0x1000000, w1 := 0x0001000100000000 }
def obj1 : ObjRec := ObjRec.ofWords rec1
def objOf (code : Nat) : ObjRec := { obj1 with code := code }
def map1 : MapObj := { obj := rec1, cblock := 5, icount := 1, islice := [0] }
def dir1 : DirEnt := { obj := obj1, kind := .span 0 0 16, extents := 1, icount := 1, islice := [0] }
def far : Requester := { block := 9, unit := 0, tid := 1 }
def withEph (h : EphS) : State := { run0 with eph := h }
def commit1 (st : CommitState) (code : Nat) : Commit :=
  { id := 1, run := none, obj := objOf code, span := 0, st := st, closed := true }
def withCommit (m : Commit) : State := run0.onSlice 0 fun x => { x with store := { commits := [m] } }
def storeIn (code : Nat) (run : Option Nat) : StoreIn := { run := run, obj := objOf code, plate := 0, data := Plate.zeros .h16 }
def masterIn : StoreIn := { storeIn 1 (some 1) with master := 1 }
def withStore (e : StoreIn) : State := run0.onSlice 0 fun x => { x with store := { queue := [e] } }
def matJob : MatJob := {
  run := 1, a := obj1, b := obj1, cfmt := .h16, xposeA := false, xposeB := false, row0 := 0, rows := 1, col0 := 0, cols := 1
  kps := 1, dest := 0, np := 1, spill := obj1 }
def withDpe (d : Dpe) : State := run0.onSlice 0 fun x => { x with dpe := d }
def withSme (m : Sme) : State := run0.onSlice 0 fun x => { x with dpe := { job := some matJob }, sme := m }
def want1 (u : Use) : Want := { id := 4, obj := objOf 1, plate := 0, use := u, fmt := none }
def stream1 (u : Use) : EStream := { id := 3, run := 1, wants := [], asked := [want1 u] }
def withEye (e : Eye) : State := run0.onSlice 0 fun x => { x with eye := e }
def out1 : OutPlate := { i := 0, n := 0, row0 := 0, p := 1, at_ := 0, rows := [], poison := false }
def archConf : Conf := { conf0 with recs := { type := 1, inst := 0, words := [0x00501000FFFFFFFF] } :: conf0.recs }
def okImage : List Byte :=
  (List.replicate 16 (List.replicate 124 0 ++ leBytes 4 (crc32c (List.replicate 124 0)).toNat)).flatten
def hdr1 : FrcHdr := {
  slot := 2, gen := 0, rate := 0, fmt := 0, floor := 0, nonfinite := false, poisoned := false, masterOid := 0, masterPlate := 0
  bodyCrc := 0, used := [] }
def flight1 (subs : List Nat) : InFlight :=
  { run := 1, stream := 3, want := want1 .hist, arr := { id := 4, body := [] }, hdr := hdr1, subs := subs }
def eyeLane : Eye := {
  streams := [stream1 .hist], flight := [flight1 []], tcache := [2], lanes := (Vector.replicate 128 none).set 0 (some (4, 0)) }
def matEntry (w0 : W64) : Entry := { idx := 0, words := [w0] }
def queued (e : Entry) : State := { run0.onCq 3 fun c => { c with en := true, accepted := [e] } with eph := { step7 := true } }
def withRun (r : CmdRun) : State := { run0 with cmd := { runs := [r] } }
def taintRun : CmdRun := { aRun with entry := matEntry 0x0700000000000000, sram := true, poisoned := true, dests := [(1, 0)], stored := [(1, 0)] }
def withGroup (f : LinkGrp → LinkGrp) : State := run0.onGroup 0 f
def fabReq (unit : BitVec 6) (ptype : Nat) (why : ReqWhy) : FabReq :=
  { unit := unit, tid := 1, ptype := ptype, dest := 9, dunit := 0, oid := 1, why := why }
def withReq (r : FabReq) : State := { run0 with reqs := [r] }
def move1 : SpanMove := { no := 1, oid := 1, span := 0, why := .move, toHome := { block := 9, slice := 1 } }
def src1 : MvSrc := { oid := 1, span := 0, no := 1, toHome := { block := 9, slice := 1 }, record := true }
def dst1 : MvDst := { obj := obj1, span := 0, slice := 0, src := far, base := 16, extents := 1 }
def report1 : Report := { code := 0x0101, island := 0, sev := 0 }
def slowFlight : InFlight :=
  { flight1 [] with arr := { id := 4, body := List.replicate 1024 0 }, hdr := { hdr1 with rate := 6 } }
def slowEye : State := run0.onSlice 0 fun x => {
  x with eye := { eyeLane with flight := [slowFlight] }, slots := x.slots.set 2 { st := .live, image := slowImage } }
def claimState : State := { withCommit (commit1 .claiming 0) with eph := { free := Vector.replicate 32 [{ first := 16, count := 8 }] } }
def confState (r : List Rec) : State :=
  { run0 with islands := Vector.replicate 60 { isl0 with conf := some { conf0 with recs := conf0.recs ++ r } } }
def denseState : State := run0.onSlice 0 fun x => {
  x with
  dpe := { job := some matJob, blkP := 1, chosen := true, steps := [{ n := 0, kp := 0 }], acts := [(0, 0, Plate.zeros .h16, 0)] }
  eye := { outs := [{ run := 1, want := want1 (.weight 0 0), plate := Plate.zeros .h16 }] } }
def rowDpe : Dpe := {
  job := some matJob, blkP := 1, pass := [{ arr := 0, step := { n := 0, kp := 0 }, plate := Plate.zeros .h16 }]
  acts := [(0, 0, Plate.zeros .h16, 0)] }
def pairUp : State := confState [{ type := 2, inst := 0, words := [1] }]
def spillRec : HEnt := { k := 0, f := 0, v := [] }
def spillJob : MatJob := { matJob with spillPlates := 1 }
def spillState : State := (withEph { dir := [dir1] }).onSlice 0 fun x => { x with dpe := { job := some spillJob }, sme := { spill := [spillRec] } }
def fetchUp : State := { run0 with cmd := { pathUp := true, wins := Vector.replicate 16 { en := true, base := 1, limit := 1 } } }
def hostRun : CmdRun := { aRun with entry := matEntry 0x4000000000, done := true, hrec := .due }
def linkUp : State := confState [{ type := 5, inst := 0, words := [0x100100000000] }]
def peerPkt : Pkt := { words := [{ w := 1 }], length := 1, cells := [0], visible := true }
def peerState : State := { (confState [{ type := 6, inst := 0, words := [0, 0, 0, 0, 0x90000000] }]).onQuad 0 (fun x => x.setQueue 16 { packets := [peerPkt] }) with
  groups := Vector.replicate 16 { st := .up } }
def near : Requester := { block := 5, unit := 0, tid := 1 }
def mapWords : List W64 := [0x1000000, 0x0001000100000000, 0x10009, 0, 0, 0, 0, 0x0100000000000000]
def newHome1 : HomeWord := { valid := true, slice := 1, block := 9 }
def ev1 : DetEvent := { code := 0x0101, inst := 0 }
def healState : State := { withEph { dir := [dir1] } with svy := { heals := [{ oid := 1, plate := 0, slice := 0, obj := some (objOf 1) }] } }
def armTarget : W64 := 0x0000010100000000

def keyedWrite : State := { (withEph { dir := [dir1] }).onSlice 0 (fun x => { x with home := { inq := [{ obj := obj1, plate := 0, body := [] }] } }) with
  slices := Vector.replicate 32 { keys := Vector.replicate 16 (some []), home := { inq := [{ obj := obj1, plate := 0, body := [] }] } } }
def shutInj : State := ({ confState [{ type := 11, inst := 0, words := [0x8000000000000000] }] with inj := { target := armTarget } } : State).onIsl injIsl
  fun i => { i with state := .shut }
def tightConf : Conf := { streamId := 7, recs := [{ type := 7, inst := 0, words := [0x0000FFFC00000001] }] }
def fullState : State := ({ run0 with islands := Vector.replicate 60 { isl0 with conf := some tightConf } } : State).onQuad 0
  fun x => x.setQueue 0x2000 { packets := [{ words := [], length := 1, cells := [0] }] }

/-! For every clause of a statement that has hypotheses, a state and operands that meet them. -/

theorem witness_StepRunsFrontCommand_0 : ∃ (c : Instr) (s : State) (rest : List Instr),
    s.pending = c :: rest :=
  ⟨(.haltSet 0), ({ run0 with pending := [.haltSet 0, .injCancel] } : State), [.injCancel], by decide⟩

theorem witness_ResetCountOnlyByReleaseOrPower_1 : ∃ (s : State) (t : State) (k : IslandNo),
    s.pending = [] ∧ step s = .next t :=
  ⟨State.reset, (tick State.reset), 52, by decide, rfl⟩

theorem witness_PowerOnResetClearsTheBlock_1 : ∃ (s : State),
    s.por = true :=
  ⟨State.reset, by decide⟩

theorem witness_IslandResetsAndClocks_0 : ∃ (k : IslandNo) (s : State),
    (s.isl k).inReset = false :=
  ⟨53, run0, by decide⟩

theorem witness_IslandResetsAndClocks_1 : ∃ (k : IslandNo) (s : State),
    s.por = false ∧ (s.isl k).inReset = true ∧ (s.isl k).clkRun = true :=
  ⟨59, (run0.onIsl 59 fun i => { i with inReset := true, state := .reset }), by decide⟩

theorem witness_IslandResetsAndClocks_2 : ∃ (k : IslandNo) (s : State),
    (s.isl k).clkRun = false :=
  ⟨0, State.reset, by decide⟩

theorem witness_IslandResetsAndClocks_3 : ∃ (k : IslandNo) (s : State),
    (s.isl k).clkRun = true :=
  ⟨59, (run0.onIsl 59 fun i => { i with inReset := true, state := .reset }), by decide⟩

theorem witness_CfgWatchesTheIslands_0 : ∃ (s : State),
    s.chanUp = true ∧ 4096 ≤ elapsed (s.now cfgIsl) s.cfg.winAt :=
  ⟨(late (4096)), by decide⟩

theorem witness_CfgWatchesTheIslands_1 : ∃ (s : State),
    s.chanUp = true ∧ s.cfg.ready = false ∧ (∀ k ∈ [cmdIsl, ephIsl, xqIsl 0, xqIsl 1, xqIsl 2, xqIsl 3], s.running k = true) :=
  ⟨run0, by decide⟩

theorem witness_CfgWatchesTheIslands_2 : ∃ (s : State) (k : IslandNo),
    s.chanUp = true ∧ s.cfg.ready = true ∧ k ∈ [cmdIsl, ephIsl, xqIsl 0, xqIsl 1, xqIsl 2, xqIsl 3] ∧
      ((s.isl k).inReset = true ∨ (s.isl k).state = .config ∨ (s.isl k).state = .shut) :=
  ⟨({ run0.onIsl 51 (fun i => { i with state := .shut }) with cfg := { run0.cfg with ready := true } } : State), 51, by decide⟩

theorem witness_StartUpSteps_0 : ∃ (pass : Bool) (s : State),
    (s.isl cfgIsl).live = true ∧ s.cfg.selfTest = none :=
  ⟨false, ({ run0 with cfg := {} } : State), by decide⟩

theorem witness_StartUpSteps_1 : ∃ (s : State),
    (s.isl cmdIsl).live = true ∧ (s.isl cmdIsl).state = .config ∧ (s.isl cmdIsl).bist = some true ∧ s.portsSettled = true ∧
      s.eph.step7 = true ∧ s.startStopped = false :=
  ⟨({ run0.onIsl 53 (fun i => { i with state := .config, bist := some true }) with eph := { run0.eph with step7 := true } }), by decide⟩

theorem witness_StartUpSteps_2 : ∃ (g : GroupNo) (s : State) (t0 : Ctr),
    (s.group g).step6At = some t0 ∧ (s.isl (lgIsl g)).live = true ∧ (s.group g).step6 = false ∧ 2 ^ 22 ≤ elapsed (s.now (lgIsl g)) t0 :=
  ⟨15, (late (2 ^ 22)).onGroup 15 fun q => { q with step6At := some 0 }, 0, by decide⟩

theorem witness_StartUpSteps_3 : ∃ (s : State) (t0 : Ctr),
    s.eph.step7At = some t0 ∧ (s.isl ephIsl).live = true ∧ s.eph.step7 = false ∧ 2 ^ 22 ≤ elapsed (s.now ephIsl) t0 :=
  ⟨({ late (2 ^ 22) with eph := { step7At := some 0 } }), 0, by decide⟩

theorem witness_StartUpSteps_4 : ∃ (k : IslandNo) (pass : Bool) (s : State),
    (s.isl k).live = true ∧ k ≠ cfgIsl ∧ (s.isl k).state = .config ∧ (s.isl k).conf.isSome = true ∧ (s.isl k).bist = none :=
  ⟨53, true, (run0.onIsl 53 fun i => { i with state := .config }), by decide⟩

theorem witness_SmallServiceRows_0 : ∃ (k : IslandNo) (s : State),
    (s.isl k).inReset = false :=
  ⟨0, run0, by decide⟩

theorem witness_SmallServiceRows_1 : ∃ (k : IslandNo) (s : State),
    (s.isl k).inReset = true :=
  ⟨0, State.reset, by decide⟩

theorem witness_SmallServiceRows_2 : ∃ (p : SliceNo) (s : State),
    (s.isl (psIsl p)).live = true ∧ (s.slice p).actUp = true ∧ 1024 ≤ elapsed (s.now (psIsl p)) (s.slice p).actAt :=
  ⟨31, (late 1024).onSlice 31 fun x => { x with actUp := true }, by decide⟩

theorem witness_SmallServiceRows_3 : ∃ (m : BitVec 16) (s : State),
    (s.isl logIsl).live = true :=
  ⟨0xFFFF, run0, by decide⟩

theorem witness_SmallServiceRows_4 : ∃ (s : State),
    (s.isl ephIsl).live = true ∧ s.eph.reloading = true :=
  ⟨({ run0 with eph := { reloading := true } }), by decide⟩

theorem witness_SmallServiceRows_5 : ∃ (s : State),
    s.ephLive = true ∧ s.eph.step7At.isSome = true ∧ 2 ^ 16 ≤ elapsed (s.now ephIsl) s.eph.joinAt :=
  ⟨({ late (2 ^ 16) with eph := { step7At := some 0 } }), by decide⟩

theorem witness_PacketsAreWritten_0 : ∃ (x : QuadNo) (q : BitVec 16) (n : BitVec 16) (ws : List PWord) (s : State),
    (¬ (0x2020 ≤ q.toNat ∧ q.toNat < 0x2060 ∧ 8 ≤ q.toNat % 16)) ∧ s.canOpen x q.toNat (cellsFor n.toNat) = true ∧ ws.length ≤ n.toNat :=
  ⟨0, 0x2000, 1, ([{ w := 9 }]), run0, by decide⟩

theorem witness_PacketsAreWritten_1 : ∃ (g : GroupNo) (v : Fin 8) (n : BitVec 16) (ws : List PWord) (s : State),
    s.awake (lgIsl g) = true :=
  ⟨15, 7, 1, ([{ w := 9 }]), run0, by decide⟩

theorem witness_PacketsAreWritten_2 : ∃ (x : QuadNo) (q : BitVec 16) (more : List PWord) (tag : BitVec 24) (poison : Bool) (s : State) (o : OpenPkt),
    ((s.quad x).queue q.toNat).openPkt = some o ∧ s.awake (queueProducer x q.toNat) = true ∧ s.awake (xqIsl x) = true ∧
      1 ≤ (o.words ++ more).length ∧ (o.words ++ more).length ≤ 65535 ∧ cellsFor (o.words ++ more).length ≤ o.cells.length :=
  ⟨0, 0x2000, ([{ w := 8 }]), 0, false, (run0.onQuad 0 fun x => x.setQueue 0x2000 { openPkt := some { cells := [0], words := [] } }),
      ({ cells := [0], words := [] }), by decide⟩

theorem witness_PacketsAreWritten_3 : ∃ (x : QuadNo) (q : BitVec 16) (s : State) (l : List Pkt) (r : List Pkt) (p : Pkt),
    s.awake (xqIsl x) = true ∧ ((s.quad x).queue q.toNat).packets = l ++ p :: r ∧ (∀ a ∈ l, a.visible = true) ∧ p.visible = false :=
  ⟨0, 0x2000, (run0.onQuad 0 fun x => x.setQueue 0x2000 { packets := [{ words := [], length := 1, visible := true }, { words := [], length := 2 }] }), ([{ words := [], length := 1, visible := true }]), [], ({ words := [], length := 2 }), by decide⟩

theorem witness_PacketsAreRead_0 : ∃ (x : QuadNo) (q : BitVec 16) (o : ParityObs) (s : State) (p : Pkt) (r : List Pkt),
    ReadsClean x o p s ∧ ((s.quad x).queue q.toNat).packets = p :: r ∧ takesFor (queueOwner x q.toNat) q.toNat = true ∧
      s.canTake p = true ∧ s.awake (queueOwner x q.toNat) = true ∧ s.awake (xqIsl x) = true ∧ p.visible = true ∧
      ((s.quad x).queue q.toNat).wedged = false :=
  ⟨0, 0x2002, {}, (run0.onQuad 0 fun x => x.setQueue 0x2002 { packets := [{ words := [{ w := 1 }], length := 1, cells := [0], visible := true }] }), ({ words := [{ w := 1 }], length := 1, cells := [0], visible := true }), [], by decide⟩

theorem witness_PacketsAreRead_1 : ∃ (k : IslandNo) (q : BitVec 16) (s : State) (p : Pkt) (r : Report),
    p.cargo = .report r :=
  ⟨59, 0x2000, run0, ({ words := [], length := 1, cargo := .report report1 }), report1, by decide⟩

theorem witness_PacketsAreRead_2 : ∃ (x : QuadNo) (q : BitVec 16) (o : ParityObs) (s : State) (p : Pkt) (r : List Pkt),
    (s.isl (xqIsl x)).armedFor 0x0301 (p.cells.getD o.inCell 0) = false ∧ ((s.quad x).queue q.toNat).packets = p :: r ∧
      takesFor (queueOwner x q.toNat) q.toNat = true ∧ p.cargo = .words ∧ p.length.toNat = p.words.length ∧
      s.awake (queueOwner x q.toNat) = true ∧ s.awake (xqIsl x) = true ∧ p.visible = true ∧ ((s.quad x).queue q.toNat).wedged = false :=
  ⟨0, 0x2002, ({ words := [0] }),
      (run0.onQuad 0 fun x => x.setQueue 0x2002 { packets := [{ words := [{ w := 1 }], length := 1, cells := [0], visible := true }] }),
      ({ words := [{ w := 1 }], length := 1, cells := [0], visible := true }), [], by decide⟩

theorem witness_PacketsAreRead_3 : ∃ (x : QuadNo) (q : BitVec 16) (w : W64) (s : State),
    queueExists x q.toNat = true ∧ s.awake (xqIsl x) = true ∧ ((s.quad x).queue q.toNat).openPkt = none ∧
      (s.quad x).admits (s.poolOf x) q.toNat 1 = false :=
  ⟨0, 0x2000, 5, fullState, by decide⟩

theorem witness_RingTakesTheOneRoute_0 : ∃ (x : QuadNo) (y : QuadNo) (d : QuadNo) (q : BitVec 16) (ch : Nat) (other : IslandNo) (o : ParityObs) (s : State) (p : Pkt) (r : List Pkt),
    (((∀ c, p.cargo ≠ .fabric c) ∧ d = quadOf (p.cargo.dest other) ∧ ch = channelOf q.toNat) ∨ (∃ c k, p.cargo = .fabric c ∧
      (pktHead p.words).dest = s.block ∧ ((pktHead p.words).ptype = ptScale ∨ (classOf (pktHead p.words).ptype).isSome = true) ∧
      s.takerOf (pktHead p.words).dunit c = some k ∧ d = quadOf k ∧ ch = pktChannel q.toNat p ∧ ch < 8) ∨ (∃ c, p.cargo = .fabric c ∧
      (pktHead p.words).dest ≠ s.block ∧ rtValid (s.routeOf x (pktHead p.words).dest) = true ∧ d = peerQuad (pktHead p.words).dest ∧
      ch = 2 * c + rtDir (s.routeOf x (pktHead p.words).dest) ∧ ch < 8)) ∧ d ≠ x ∧ (y = (if d = x + 1 ∨ d = x + 3 then d else x + 1)) ∧
      ReadsClean x o p s ∧ ((s.quad x).queue q.toNat).packets = p :: r ∧ s.begins (xqIsl x) = true ∧ s.awake (xqIsl y) = true ∧
      0x2000 ≤ q.toNat ∧ ((q.toNat < 0x2020 ∨ 0x2060 ≤ q.toNat)) ∧ queueOwner x q.toNat = xqIsl x ∧ p.visible = true ∧
      p.abandoned = false ∧ ((s.quad x).queue q.toNat).wedged = false ∧ ((other.val < 48 ∨ 52 ≤ other.val)) ∧
      ((s.quad y).queue (ringQueue x y ch)).wedged = false ∧ ((s.quad y).queue (ringQueue x y ch)).openPkt = none ∧
      (s.quad y).admits (s.poolOf y) (ringQueue x y ch) p.cells.length = true :=
  ⟨0, 1, 2, 0x2060, 0, 57, {},
      (run0.onQuad 0 fun x => x.setQueue 0x2060 { packets := [{ words := [{ w := 1 }], length := 1, cells := [0], visible := true }] }),
      ({ words := [{ w := 1 }], length := 1, cells := [0], visible := true }), [], .inl ⟨by intro c; nofun, by decide, by decide⟩,
      by decide, by decide, by decide, by decide, by decide, by decide, by decide, by decide, by decide, by decide, by decide, by decide,
      by decide, by decide, by decide, by decide⟩

theorem witness_PortLevelRows_0 : ∃ (p : SliceNo) (s : State),
    (s.slice p).mp.upPin = false :=
  ⟨0, run0, by decide⟩

theorem witness_PortLevelRows_1 : ∃ (p : SliceNo) (s : State),
    s.portLive p = true ∧ (s.slice p).mp.upPin = true ∧ (s.slice p).mp.up = false ∧ 16 ≤ elapsed (s.now (psIsl p)) (s.slice p).mp.upAt ∧
      16 ≤ elapsed (s.now (psIsl p)) (s.slice p).mp.enAt :=
  ⟨0, (late 16).onMp 0 fun m => { m with en := true, upPin := true }, by decide⟩

theorem witness_PortLevelRows_2 : ∃ (p : SliceNo) (s : State),
    (s.slice p).mp.upPin = true :=
  ⟨0, (run0.onMp 0 fun m => { m with upPin := true }), by decide⟩

theorem witness_PortLevelRows_3 : ∃ (p : SliceNo) (s : State),
    s.portLive p = true ∧ (s.slice p).mp.step5 = false ∧ (s.slice p).mp.up = false ∧
      2 ^ 24 ≤ elapsed (s.now (psIsl p)) (s.slice p).mp.enAt :=
  ⟨0, (late (2 ^ 24)).onMp 0 fun m => { m with en := true }, by decide⟩

theorem witness_PortLevelRows_4 : ∃ (p : SliceNo) (s : State),
    s.portLive p = true ∧ (s.slice p).mp.upPin = false ∧ (s.slice p).mp.downForced = false ∧
      2 ^ 20 ≤ elapsed (s.now (psIsl p)) (s.slice p).mp.upAt :=
  ⟨0, (late (2 ^ 20)).onMp 0 fun m => { m with en := true }, by decide⟩

theorem witness_PortIssuesRequests_0 : ∃ (p : SliceNo) (t : BitVec 8) (s : State) (i : Nat) (r : MemReq),
    s.portLive p = true ∧ (s.slice p).mp.up = true ∧ (s.slice p).devShut = false ∧ (s.slice p).mp.downForced = false ∧
      (s.slice p).mp.tagFree t = true ∧ s.issuable p false = some i ∧ (s.slice p).mp.waiting[i]? = some r :=
  ⟨0, 0, (portUp.onMp 0 fun m => { m with waiting := [guardRead] }), 0, guardRead, by decide⟩

theorem witness_PortIssuesRequests_1 : ∃ (p : SliceNo) (t : BitVec 8) (s : State) (i : Nat) (r : MemReq),
    s.portLive p = true ∧ (s.slice p).mp.up = true ∧ (s.slice p).devShut = false ∧ (s.slice p).mp.downForced = false ∧
      (s.slice p).mp.tagFree t = true ∧ s.issuable p true = some i ∧ (s.slice p).mp.ahead = [] ∧ (s.slice p).mp.waiting[i]? = some r ∧
      r.isData = true ∧ r.why ≠ .refresh :=
  ⟨0, 255, (withGuard.onMp 0 fun m => { m with waiting := [dataWrite] }), 0, dataWrite, by decide⟩

theorem witness_PortIssuesRequests_2 : ∃ (p : SliceNo) (a : BitVec 8) (b : BitVec 8) (s : State) (i : Nat) (j : Nat),
    s.portLive p = true ∧ (s.slice p).mp.up = true ∧ (s.slice p).devShut = false ∧ (s.slice p).mp.downForced = false ∧
      (s.slice p).mp.tagFree a = true ∧ (s.slice p).mp.tagFree b = true ∧ a ≠ b ∧ (s.slice p).mp.ahead = [] ∧
      s.issuable p false = some i ∧ (s.issuable p true).isSome = true ∧ (s.issue p i a).issuable p true = some j :=
  ⟨0, 0, 1, (withGuard.onMp 0 fun m => { m with waiting := [guardRead, dataWrite] }), 0, 0, by decide⟩

theorem witness_PortIssuesRequests_3 : ∃ (p : SliceNo) (s : State) (u : TagUse) (rest : List TagUse),
    s.portLive p = true ∧ (s.slice p).mp.up = true ∧ (s.slice p).devShut = false ∧ (s.slice p).mp.downForced = false ∧
      (s.slice p).mp.ahead = u :: rest :=
  ⟨0, (portUp.onMp 0 fun m => { m with ahead := [writeTag] }), writeTag, [], by decide⟩

theorem witness_PortIssuesRequests_4 : ∃ (p : SliceNo) (rd : Option (BitVec 8)) (wr : Option (BitVec 8)) (s : State) (r : MemReq) (rest : List MemReq),
    s.portLive p = true ∧ ((s.slice p).devShut = true ∨ (s.slice p).mp.downForced = true) ∧ (s.slice p).mp.ahead = [] ∧
      (s.slice p).mp.waiting = r :: rest :=
  ⟨0, none, none, (portUp.onSlice 0 fun x => { x with devShut := true, mp := { x.mp with waiting := [guardRead] } }), guardRead, [],
      by decide⟩

theorem witness_PortIssuesRequests_5 : ∃ (p : SliceNo) (s : State) (b : BitVec 8 × List Byte) (rest : List (BitVec 8 × List Byte)),
    s.portLive p = true ∧ (s.slice p).mp.wdata = b :: rest :=
  ⟨0, (portUp.onMp 0 fun m => { m with wdata := [(3, [])] }), (3, []), [], by decide⟩

theorem witness_PortIssuesRequests_6 : ∃ (p : SliceNo) (t : BitVec 8) (s : State) (i : Nat) (r : MemReq),
    s.portLive p = true ∧ (s.slice p).mp.up = true ∧ (s.slice p).devShut = false ∧ (s.slice p).mp.tagFree t = true ∧
      (s.slice p).mp.wdata = [] ∧ s.issuable p true = some i ∧ (s.slice p).mp.waiting[i]? = some r :=
  ⟨0, 255, (withGuard.onMp 0 fun m => { m with waiting := [dataWrite] }), 0, dataWrite, by decide⟩

theorem witness_UnexpectedResponses_0 : ∃ (p : SliceNo) (tag : BitVec 8) (data : List Byte) (poison : Bool) (err : BitVec 4) (s : State),
    s.portLive p = true ∧ ((∀ t, (s.slice p).mp.tags.find? (fun t => t.tag == tag) = some t → t.req.wr = true)) :=
  ⟨0, 3, [], false, 0, portUp, by decide⟩

theorem witness_UnexpectedResponses_1 : ∃ (p : SliceNo) (tag : BitVec 8) (err : BitVec 4) (s : State),
    s.portLive p = true ∧ ((∀ t, (s.slice p).mp.tags.find? (fun t => t.tag == tag) = some t → t.req.wr = false)) :=
  ⟨0, 3, 0, (portUp.onMp 0 fun m => { m with tags := [readTag] }), by decide⟩

theorem witness_ResponsesAreTaken_0 : ∃ (p : SliceNo) (tag : BitVec 8) (data : List Byte) (poison : Bool) (err : BitVec 4) (s : State) (t : TagUse),
    s.portLive p = true ∧ (s.slice p).mp.tags.find? (fun t => t.tag == tag) = some t ∧ t.timedOut = true :=
  ⟨0, 3, [], false, 0, (portUp.onMp 0 fun m => { m with tags := [{ readTag with timedOut := true }] }),
      ({ readTag with timedOut := true }), by decide⟩

theorem witness_ResponsesAreTaken_1 : ∃ (p : SliceNo) (tag : BitVec 8) (data : List Byte) (s : State) (t : TagUse),
    s.portLive p = true ∧ (s.isl (psIsl p)).armed = none ∧ (s.slice p).mp.tags.find? (fun t => t.tag == tag) = some t ∧
      t.req.wr = false ∧ t.timedOut = false ∧ t.injTimeout = false :=
  ⟨0, 3, [], (portUp.onMp 0 fun m => { m with tags := [readTag] }), readTag, by decide⟩

theorem witness_ResponsesAreTaken_2 : ∃ (p : SliceNo) (tag : BitVec 8) (s : State) (t : TagUse),
    s.portLive p = true ∧ (s.slice p).mp.tags.find? (fun t => t.tag == tag) = some t ∧ t.req.wr = true ∧ t.timedOut = false :=
  ⟨0, 3, (portUp.onMp 0 fun m => { m with tags := [writeTag] }), writeTag, by decide⟩

theorem witness_ResponsesAreTaken_3 : ∃ (p : SliceNo) (tag : BitVec 8) (s : State) (t : TagUse),
    s.portLive p = true ∧ (s.slice p).mp.tags.find? (fun t => t.tag == tag) = some t ∧ t.timedOut = false ∧
      2 ^ 20 ≤ elapsed (s.now (psIsl p)) t.at_ :=
  ⟨0, 3, (late (2 ^ 20)).onMp 0 fun m => { m with en := true, tags := [readTag] }, readTag, by decide⟩

theorem witness_ResponsesAreTaken_4 : ∃ (p : SliceNo) (n : Nat) (s : State) (r : MemReq) (t : TagUse),
    s.portLive p = true ∧ (s.slice p).mp.waiting[n]? = some r ∧ 2 ^ 20 ≤ elapsed (s.now (psIsl p)) r.since ∧ t ∈ (s.slice p).mp.tags ∧
      t.timedOut = true ∧ t.req.addr = r.addr ∧ ((t.req.wr = true ∨ r.wr = true)) ∧ 2 ^ 21 ≤ elapsed (s.now (psIsl p)) t.at_ :=
  ⟨0, 0, (late (2 ^ 21)).onMp 0 fun m => { m with en := true, waiting := [guardRead], tags := [{ writeTag with timedOut := true, req := { guardRead with wr := true } }] }, guardRead, ({ writeTag with timedOut := true, req := { guardRead with wr := true } }), by decide⟩

theorem witness_ExportPortRows_0 : ∃ (p : SliceNo) (s : State) (i : Nat) (e : TxPlate),
    s.pathLive p = true ∧ s.txNext p = some i ∧ (s.slice p).xp.tx[i]? = some e :=
  ⟨0, (run0.onXp 0 fun x => { x with tx := [txPlate] }), 0, txPlate, by decide⟩

theorem witness_ExportPortRows_1 : ∃ (p : SliceNo) (s : State) (i : Nat) (e : TxPlate) (r : CmdRun),
    s.pathLive p = true ∧ s.txNext p = some i ∧ (s.slice p).xp.tx[i]? = some e ∧ 2 ^ 20 ≤ elapsed (s.now (psIsl p)) (s.slice p).xp.txAt ∧
      s.findRun e.run = some r :=
  ⟨0, ({ (late (2 ^ 20)).onXp 0 (fun x => { x with tx := [txPlate] }) with cmd := { runs := [aRun] } }), 0, txPlate, aRun, by decide⟩

theorem witness_ImportPortRows_0 : ∃ (p : SliceNo) (s : State) (w : Nat × BitVec 8 × Fmt × Nat),
    s.pathLive p = true ∧ s.begins (psIsl p) = true ∧ (s.slice p).xp.streams.length < 4 ∧
      (s.slice p).xp.waiting.find? (fun w => !((s.slice p).xp.streams.any fun t => t.stream == w.2.1) && (s.slice p).takesRun w.1) = some w :=
  ⟨0, (run0.onXp 0 fun x => { x with waiting := [(1, 5, .h16, 2)] }), (1, 5, .h16, 2), by decide⟩

theorem witness_ImportPortRows_1 : ∃ (p : SliceNo) (stream : BitVec 8) (beat : BitVec 8) (fmt : Fmt) (data : List Byte) (scale : List Byte) (last : Bool) (poison : Bool) (s : State),
    s.pathLive p = true ∧ ((s.importDrain p).slice p).xp.buf.length < 256 ∧ (∀ t ∈ (s.slice p).xp.streams, t.stream ≠ stream) :=
  ⟨0, 4, 0, .h16, [], [], false, false, (run0.onXp 0 fun x => { x with streams := [impStream] }), by decide⟩

theorem witness_ImportPortRows_2 : ∃ (p : SliceNo) (stream : BitVec 8) (data : List Byte) (scale : List Byte) (poison : Bool) (s : State) (t : ImpStream),
    s.pathLive p = true ∧ ((s.importDrain p).slice p).xp.buf.length < 256 ∧
      (s.slice p).xp.streams.find? (fun t => t.stream == stream) = some t ∧ t.discarding = false ∧ t.beats < 256 ∧
      t.beats + 1 ≠ beatsPerPlate t.fmt :=
  ⟨0, 5, [], [], false, (run0.onXp 0 fun x => { x with streams := [impStream] }), impStream, by decide⟩

theorem witness_ImportPortRows_3 : ∃ (p : SliceNo) (stream : BitVec 8) (beat : BitVec 8) (fmt : Fmt) (data : List Byte) (scale : List Byte) (poison : Bool) (s : State) (t : ImpStream),
    s.pathLive p = true ∧ ((s.importDrain p).slice p).xp.buf.length < 256 ∧
      (s.slice p).xp.streams.find? (fun t => t.stream == stream) = some t ∧ (beat.toNat ≠ t.beats ∨ fmt ≠ t.fmt) :=
  ⟨0, 5, 1, .h16, [], [], false, (run0.onXp 0 fun x => { x with streams := [impStream] }), impStream, by decide⟩

theorem witness_ImportPortRows_4 : ∃ (p : SliceNo) (stream : BitVec 8) (s : State) (t : ImpStream),
    s.pathLive p = true ∧ (s.slice p).xp.streams.find? (fun t => t.stream == stream) = some t ∧ (t.beats ≠ 0 ∨ t.discarding = true) ∧
      2 ^ 20 ≤ elapsed (s.now (psIsl p)) t.at_ :=
  ⟨0, 5, (late (2 ^ 20)).onXp 0 fun x => { x with streams := [{ impStream with beats := 1 }] }, ({ impStream with beats := 1 }), by decide⟩

theorem witness_ImportPortRows_5 : ∃ (p : SliceNo) (stream : BitVec 8) (s : State) (t : ImpStream),
    s.pathLive p = true ∧ (s.slice p).xp.streams.find? (fun t => t.stream == stream) = some t ∧ t.beats = 0 ∧ t.discarding = false ∧
      2 ^ 24 ≤ elapsed (s.now (psIsl p)) t.at_ :=
  ⟨0, 5, (late (2 ^ 24)).onXp 0 fun x => { x with streams := [impStream] }, impStream, by decide⟩

theorem witness_DeadIslandsReadZero_0 : ∃ (k : IslandNo) (addr : BitVec 21) (s : State),
    addrIsland addr = some k ∧ (s.isl k).live = false :=
  ⟨59, 0x1D8000, State.reset, by decide⟩

theorem witness_DeadIslandsReadZero_1 : ∃ (k : IslandNo) (tag : BitVec 4) (ask : RegAsk) (hold : Bool) (via : List (IslandNo × Crossing)) (s : State),
    ask.wr = true ∧ addrIsland ask.addr = some k ∧ (s.isl k).live = false ∧ (∀ r ∈ s.cp.out, r.tag ≠ tag) :=
  ⟨59, 0, ({ wr := true, addr := 0x1D8000, data := 1 }), false, [], State.reset, by decide⟩

theorem witness_DeadIslandsReadZero_2 : ∃ (k : IslandNo) (tag : BitVec 4) (ask : RegAsk) (via : List (IslandNo × Crossing)) (s : State),
    ask.wr = false ∧ addrIsland ask.addr = some k ∧ (s.isl k).live = false ∧ s.reqReady tag = true ∧ s.cp.first tag ask = true :=
  ⟨59, 0, ({ wr := false, addr := 0x1D8000, data := 0 }), [], (run0.onIsl 59 fun i => { i with inReset := true }), by decide⟩

theorem witness_DeadIslandsReadZero_3 : ∃ (k : IslandNo) (s : State),
    s.chanUp = true ∧ 4096 ≤ elapsed (s.now cfgIsl) s.cfg.winAt ∧ ((s.isl k).inReset = true ∨ (s.isl k).cycle = (s.isl k).winCycle) :=
  ⟨59, (late 4096).onIsl 59 fun i => { i with inReset := true }, by decide⟩

theorem witness_RegisterRequestsAreAnswered_0 : ∃ (k : IslandNo) (tag : BitVec 4) (ask : RegAsk) (via : List (IslandNo × Crossing)) (s : State),
    s.chanUp = true ∧ s.cfg.selfTest ≠ some false ∧ (∀ r ∈ s.cp.out, r.tag ≠ tag) ∧ s.cp.first tag ask = true ∧
      addrIsland ask.addr = some k ∧ (s.isl k).live = true :=
  ⟨53, 0, ({ wr := true, addr := 0x1A8000, data := 1 }), ([(53, .request)]), run0, by decide⟩

theorem witness_RegisterRequestsAreAnswered_1 : ∃ (tag : BitVec 4) (ask : RegAsk) (via : List (IslandNo × Crossing)) (s : State),
    s.chanUp = true ∧ (∀ r ∈ s.cp.out, r.tag ≠ tag) :=
  ⟨15, ({ wr := false, addr := 0x1A8000, data := 1 }), [], run0, by decide⟩

theorem witness_RegisterRequestsAreAnswered_2 : ∃ (tag : BitVec 4) (ask : RegAsk) (via : List (IslandNo × Crossing)) (s : State) (r : CpReq),
    s.chanUp = true ∧ s.cp.out.find? (fun r => r.tag == tag) = some r ∧ s.cp.first tag r.ask = true :=
  ⟨0, ({ wr := true, addr := 0x1A8000, data := 1 }), [],
      ({ run0 with cp := { out := [{ tag := 0, ask := { wr := true, addr := 0x1A8000, data := 1 }, at_ := 0 }] } }),
      ({ tag := 0, ask := { wr := true, addr := 0x1A8000, data := 1 }, at_ := 0 }), by decide⟩

theorem witness_RegisterRequestsAreAnswered_3 : ∃ (n : Fin 256) (tag : BitVec 4) (data : W64) (s : State),
    s.chanUp = true ∧ s.cfg.selfTest ≠ some false ∧ s.cp.out = [] ∧ (s.isl cmdIsl).live = true :=
  ⟨255, 0, 1, run0, by decide⟩

theorem witness_RegisterRequestsAreAnswered_4 : ∃ (tag : BitVec 4) (addr : BitVec 21) (data : W64) (via : List (IslandNo × Crossing)) (s : State),
    s.reqReady tag = true ∧ s.cfg.selfTest ≠ some false ∧ 61 ≤ regByte addr / 0x40000 :=
  ⟨0, 0x1E8000, 1, ([(0, .answer)]), run0, by decide⟩

theorem witness_RegisterRequestsAreAnswered_5 : ∃ (k : IslandNo) (tag : BitVec 4) (s : State) (r : CpReq),
    s.chanUp = true ∧ s.cp.out.find? (fun q => q.tag == tag && q.ask == r.ask) = some r ∧ 8192 ≤ elapsed (s.now cfgIsl) r.at_ ∧
      r.ask.wr = true ∧ addrIsland r.ask.addr = some k :=
  ⟨53, 0, ({ late 8192 with cp := { out := [{ tag := 0, ask := { wr := true, addr := 0x1A8000, data := 1 }, at_ := 0 }] } }),
      ({ tag := 0, ask := { wr := true, addr := 0x1A8000, data := 1 }, at_ := 0 }), by decide⟩

theorem witness_RegisterRequestsAreAnswered_6 : ∃ (data : W64) (s : State) (c : Conf),
    s.chanUp = true ∧ s.cfg.store = some c ∧ s.keyDenied (fld data 3 0) = false :=
  ⟨0, ({ run0 with cfg := { run0.cfg with store := some keyConf } }), keyConf, by decide⟩

theorem witness_RegisterRequestsAreAnswered_7 : ∃ (data : W64) (s : State),
    s.chanUp = true ∧ (s.cfg.store = none ∨ s.keyDenied (fld data 3 0) = true) :=
  ⟨0, run0, by decide⟩

theorem witness_QueueRegistersAndReads_0 : ∃ (q : Fin 64) (tag : BitVec 4) (data : W64) (s : State),
    s.reqReady tag = true ∧ s.answers cmdIsl = true ∧ (s.cq q).en = false :=
  ⟨63, 0, 0, run0, by decide⟩

theorem witness_QueueRegistersAndReads_1 : ∃ (q : Fin 64) (tag : BitVec 4) (data : W64) (s : State),
    s.reqReady tag = true ∧ s.answers cmdIsl = true ∧ (s.cq q).en = true ∧ (s.cq q).ring ≠ bits 52 data 12 :=
  ⟨63, 0, 0x1000, (run0.onCq 63 fun c => { c with en := true }), by decide⟩

theorem witness_QueueRegistersAndReads_2 : ∃ (cq : Fin 16) (tag : BitVec 4) (o : ParityObs) (s : State),
    s.reqReady tag = true ∧ s.answers cmdIsl = true ∧ ((s.quad 0).queue (0x2100 + cq.val)).isEmpty = true :=
  ⟨15, 0, {}, run0, by decide⟩

theorem witness_QueueRegistersAndReads_3 : ∃ (cq : Fin 16) (tag : BitVec 4) (o : ParityObs) (s : State) (p : Pkt) (r : List Pkt) (w : PWord) (ws : List PWord),
    ReadsClean 0 o p s ∧ s.reqReady tag = true ∧ s.answers cmdIsl = true ∧ ((s.quad 0).queue (0x2100 + cq.val)).packets = p :: r ∧
      p.visible = true ∧ p.abandoned = false ∧ ((s.quad 0).queue (0x2100 + cq.val)).wedged = false ∧
      ((s.quad 0).queue (0x2100 + cq.val)).readPos = 0 ∧ p.words = w :: ws ∧ w.poison = false :=
  ⟨0, 0, {}, (run0.onQuad 0 fun x => x.setQueue 0x2100 { packets := [{ words := [{ w := 7 }], length := 1, cells := [0], visible := true }] }), ({ words := [{ w := 7 }], length := 1, cells := [0], visible := true }), [], ({ w := 7 }), [], by decide⟩

theorem witness_QueueRegistersAndReads_4 : ∃ (tag : BitVec 4) (o : ParityObs) (s : State) (p : Pkt) (r : List Pkt) (w : PWord) (ws : List PWord),
    ReadsClean 0 o p s ∧ s.reqReady tag = true ∧ s.answers logIsl = true ∧ ((s.quad 0).queue 0x2110).packets = p :: r ∧
      p.visible = true ∧ p.abandoned = false ∧ ((s.quad 0).queue 0x2110).wedged = false ∧ ((s.quad 0).queue 0x2110).readPos = 0 ∧
      p.words = w :: ws ∧ w.poison = false :=
  ⟨0, {}, (run0.onQuad 0 fun x => x.setQueue 0x2110 { packets := [{ words := [{ w := 7 }], length := 1, cells := [0], visible := true }] }), ({ words := [{ w := 7 }], length := 1, cells := [0], visible := true }), [], ({ w := 7 }), [], by decide⟩

theorem witness_DoorbellsMoveTheTail_0 : ∃ (data : W64) (s : State) (q : Fin 64) (d : Nat),
    s.cmdActive = true ∧ (s.isl cmdIsl).live = true ∧ s.cmd.doorbells = [] ∧ fld data 63 58 = q.val ∧ fld data 32 0 = 0 ∧
      (s.cq q).en = true ∧ ((s.cq q).host = false ∨ ((s.cq q).armed = true ∧ bits 8 data 34 = (s.cq q).epoch)) ∧ d < (s.cq q).size ∧
      d < 65536 ∧ fld data 57 42 = ((s.cq q).head.toNat + d) % 65536 :=
  ⟨0xFC001C0000000000, (run0.onCq 63 fun c => { c with en := true }), 63, 7, by decide⟩

theorem witness_DoorbellsMoveTheTail_1 : ∃ (data : W64) (s : State) (q : Fin 64),
    s.cmdActive = true ∧ (s.isl cmdIsl).live = true ∧ s.cmd.doorbells = [] ∧ fld data 63 58 = q.val ∧
      ((s.cq q).en = false ∨ fld data 32 0 ≠ 0 ∨ (((s.cq q).host = false ∨ (s.cq q).armed = true ∨ bits 8 data 34 ≠ (s.cq q).epoch + 1 ∨ bitAt data 33 = false) ∧ (s.cq q).size ≤ (fld data 57 42 + 65536 - (s.cq q).head.toNat % 65536) % 65536)) :=
  ⟨0xFC00200000000000, (run0.onCq 63 fun c => { c with en := true }), 63, by decide⟩

theorem witness_DoorbellsMoveTheTail_2 : ∃ (data : W64) (s : State) (q : Fin 64) (d : Nat),
    s.cmdActive = true ∧ (s.isl cmdIsl).live = true ∧ s.cmd.doorbells = [] ∧ fld data 63 58 = q.val ∧ fld data 32 0 = 0 ∧
      (s.cq q).en = true ∧ (s.cq q).host = true ∧ (((s.cq q).armed = true → bits 8 data 34 ≠ (s.cq q).epoch)) ∧
      (((s.cq q).armed = false → bits 8 data 34 ≠ (s.cq q).epoch + 1)) ∧ d < (s.cq q).size ∧
      fld data 57 42 = ((s.cq q).head.toNat + d) % 65536 ∧ d < 65536 :=
  ⟨0xFC001C0800000000, (run0.onCq 63 fun c => { c with en := true, host := true, armed := true }), 63, 7, by decide⟩

theorem witness_DoorbellsMoveTheTail_3 : ∃ (data : W64) (s : State) (q : Fin 64) (d : Nat),
    s.cmdActive = true ∧ (s.isl cmdIsl).live = true ∧ s.cmd.doorbells = [] ∧ fld data 63 58 = q.val ∧ fld data 32 0 = 0 ∧
      (s.cq q).en = true ∧ (s.cq q).host = true ∧ (s.cq q).armed = false ∧ bits 8 data 34 = (s.cq q).epoch + 1 ∧ d < 65536 ∧
      fld data 57 42 = ((s.cq q).head.toNat + d) % 65536 :=
  ⟨0xFC001C0400000000, (run0.onCq 63 fun c => { c with en := true, host := true }), 63, 7, by decide⟩

theorem witness_DoorbellsMoveTheTail_4 : ∃ (data : W64) (s : State),
    (s.isl cmdIsl).live = true ∧ s.cmdActive = true ∧ s.cmd.doorbells.length < 64 :=
  ⟨0, run0, by decide⟩

theorem witness_DoorbellsMoveTheTail_5 : ∃ (bell : Bell) (s : State),
    (s.isl cmdIsl).live = true ∧ s.cmdActive = false :=
  ⟨(⟨0, true⟩), (run0.onIsl 53 fun i => { i with state := .config }), by decide⟩

theorem witness_HostPathRows_0 : ∃ (s : State),
    s.cmd.pathPin = false :=
  ⟨run0, by decide⟩

theorem witness_HostPathRows_1 : ∃ (s : State),
    (s.isl cmdIsl).live = true ∧ s.cmd.pathPin = true ∧ s.cmd.pathUp = false ∧ 16 ≤ elapsed (s.now cmdIsl) s.cmd.pathAt :=
  ⟨({ late 16 with cmd := { pathPin := true } }), by decide⟩

theorem witness_HostPathRows_2 : ∃ (s : State),
    (s.isl cmdIsl).live = false ∧ s.cmd.pathPin = true :=
  ⟨({ State.reset with cmd := { pathPin := true } }), by decide⟩

theorem witness_HostPathRows_3 : ∃ (s : State),
    (s.isl cmdIsl).live = true ∧ s.cmd.pathPin = true ∧ (∀ q : Fin 64, (s.cq q).host = false) ∧ (∀ t ∈ s.cmd.nwTags, t.timedOut = true) ∧
      s.cmd.nwAhead = [] :=
  ⟨({ run0 with cmd := { pathPin := true } }), by decide⟩

theorem witness_HostPathRows_4 : ∃ (s : State) (q : Fin 64),
    (s.isl cmdIsl).live = true ∧ s.cmd.pathPin = true ∧ (s.cq q).host = true ∧ (∀ t ∈ s.cmd.nwTags, t.timedOut = true) ∧
      s.cmd.nwAhead = [] :=
  ⟨({ run0 with cmd := { pathPin := true } } : State).onCq 3 fun c => { c with host := true, accepted := [nopEntry] }, 3, by decide⟩

theorem witness_HostPathRows_5 : ∃ (s : State) (q : Fin 64) (id : Nat) (t : NwTag),
    (s.isl cmdIsl).live = true ∧ s.cmd.pathPin = true ∧ s.cmd.nwTags = [t] ∧ t.timedOut = false ∧ s.cmd.nwAhead = [] ∧
      t.acc.why = .fetch q id ∧ ((∀ f, (s.cq q).fetch = some f → f.id = id)) ∧ (∀ q : Fin 64, (s.cq q).host = false) :=
  ⟨({ run0 with cmd := { pathPin := true, nwTags := [{ tag := 0, acc := fetchAcc, at_ := 0 }] } }), 3, 0,
      ({ tag := 0, acc := fetchAcc, at_ := 0 }), by decide, by decide, by decide, by decide, by decide, by decide, nofun, by decide⟩

theorem witness_HostAccessesRun_0 : ∃ (tag : BitVec 8) (s : State) (a : NwAcc) (rest : List NwAcc),
    s.awake cmdIsl = true ∧ s.cmd.nwAhead = [] ∧ s.cmd.nwWaiting = a :: rest ∧ s.accDead a = false ∧ s.cmd.mayIssue a = true ∧
      s.cmd.winAdmits a.win a.addr a.len = true ∧ s.cmd.tagFree tag = true :=
  ⟨255, (hostArmed fetchAcc), fetchAcc, [], by decide⟩

theorem witness_HostAccessesRun_1 : ∃ (s : State) (u : NwTag) (rest : List NwTag),
    s.awake cmdIsl = true ∧ s.cmd.nwAhead = u :: rest :=
  ⟨({ run0 with cmd := { nwAhead := [{ tag := 0, acc := { fetchAcc with wr := true }, at_ := 0 }] } }),
      ({ tag := 0, acc := { fetchAcc with wr := true }, at_ := 0 }), [], by decide⟩

theorem witness_HostAccessesRun_2 : ∃ (tag : BitVec 8) (s : State) (a : NwAcc) (rest : List NwAcc),
    s.awake cmdIsl = true ∧ s.cmd.nwAhead = [] ∧ s.cmd.nwWaiting = a :: rest ∧ s.accDead a = false :=
  ⟨255, (hostArmed { fetchAcc with addr := 0x20000 }), ({ fetchAcc with addr := 0x20000 }), [], by decide⟩

theorem witness_HostAccessesRun_3 : ∃ (s : State) (t : BitVec 8) (b : List Byte) (rest : List (BitVec 8 × List Byte)),
    (s.isl cmdIsl).live = true ∧ s.cmd.nwData = (t, b) :: rest :=
  ⟨({ run0 with cmd := { nwData := [(1, [2])] } }), 1, [2], [], by decide⟩

theorem witness_HostAccessesRun_4 : ∃ (s : State) (t : BitVec 8) (a : NwAcc) (rest : List NwAcc),
    s.awake cmdIsl = true ∧ s.cmd.nwData = [] ∧ s.cmd.nwWaiting = a :: rest ∧ a.wr = true ∧ s.accDead a = false ∧
      s.cmd.mayIssue a = true ∧ s.cmd.winAdmits a.win a.addr a.len = true ∧ s.cmd.tagFree t = true :=
  ⟨(hostArmed { fetchAcc with wr := true }), 255, ({ fetchAcc with wr := true }), [], by decide⟩

theorem witness_HostAccessesRun_5 : ∃ (tag : BitVec 8) (data : List Byte) (s : State) (t : NwTag),
    (s.isl cmdIsl).live = true ∧ s.cmd.pathPin = true ∧ s.cmd.nwTags.find? (fun t => t.tag == tag) = some t ∧ t.timedOut = false ∧
      t.acc.wr = false :=
  ⟨1, [], ({ run0 with cmd := { pathPin := true, nwTags := [{ tag := 1, acc := fetchAcc, at_ := 0 }] } }),
      ({ tag := 1, acc := fetchAcc, at_ := 0 }), by decide⟩

theorem witness_HostAccessesRun_6 : ∃ (tag : BitVec 8) (s : State) (t : NwTag),
    (s.isl cmdIsl).live = true ∧ s.cmd.pathPin = true ∧ s.cmd.nwTags.find? (fun t => t.tag == tag) = some t ∧ t.timedOut = false ∧
      t.acc.wr = true :=
  ⟨1, ({ run0 with cmd := { pathPin := true, nwTags := [{ tag := 1, acc := { fetchAcc with wr := true }, at_ := 0 }] } }),
      ({ tag := 1, acc := { fetchAcc with wr := true }, at_ := 0 }), by decide⟩

theorem witness_HostAccessesRun_7 : ∃ (tag : BitVec 8) (data : List Byte) (last : Bool) (err : BitVec 2) (s : State),
    (s.isl cmdIsl).live = true ∧ (s.cmd.pathPin = false ∨ (∀ t ∈ s.cmd.nwTags, t.tag = tag → t.timedOut = true ∨ t.acc.wr = true)) :=
  ⟨1, [], true, 0, ({ run0 with cmd := { pathPin := true, nwTags := [{ tag := 1, acc := { fetchAcc with wr := true }, at_ := 0 }] } }),
      by decide⟩

theorem witness_HostAccessesRun_8 : ∃ (tag : BitVec 8) (err : BitVec 2) (s : State),
    (s.isl cmdIsl).live = true ∧ (s.cmd.pathPin = false ∨ (∀ t ∈ s.cmd.nwTags, t.tag = tag → t.timedOut = true ∨ t.acc.wr = false)) :=
  ⟨1, 0, ({ run0 with cmd := { pathPin := true, nwTags := [{ tag := 1, acc := fetchAcc, at_ := 0 }] } }), by decide⟩

theorem witness_HostAccessesRun_9 : ∃ (tag : BitVec 8) (s : State) (t : NwTag),
    (s.isl cmdIsl).live = true ∧ s.cmd.nwTags.find? (fun t => t.tag == tag) = some t ∧ t.timedOut = false ∧
      2 ^ 22 ≤ elapsed (s.now cmdIsl) t.at_ :=
  ⟨1, ({ late (2 ^ 22) with cmd := { nwTags := [{ tag := 1, acc := fetchAcc, at_ := 0 }] } }), ({ tag := 1, acc := fetchAcc, at_ := 0 }),
      by decide⟩

theorem witness_FullStreamOnlyInConfig_0 : ∃ (w : W64) (s : State),
    (s.isl cfgIsl).live = true ∧ s.cfg.selfTest = some true ∧ s.cfg.resync = false ∧ s.cfg.recv = none ∧ fld w 63 32 = 0x50525853 ∧
      fld w 31 16 = 3 ∧ fld w 15 0 = 0 ∧ (s.isl cfgIsl).state = .config :=
  ⟨0x5052585300030000, (run0.onIsl 52 fun i => { i with state := .config }), by decide⟩

theorem witness_FullStreamOnlyInConfig_1 : ∃ (w : W64) (s : State),
    (s.isl cfgIsl).live = true ∧ s.cfg.selfTest = some true ∧ s.cfg.resync = false ∧ s.cfg.recv = none ∧ fld w 63 32 = 0x50525853 ∧
      fld w 31 16 = 3 ∧ fld w 15 0 = 0 ∧ ((s.isl cfgIsl).state = .run ∨ (s.isl cfgIsl).state = .quiesced) :=
  ⟨0x5052585300030000, run0, by decide⟩

theorem witness_StreamsEnd_1 : ∃ (s : State) (r : SsRecv),
    (s.isl cfgIsl).live = true ∧ s.cfg.recv = some r ∧ 2 ^ 20 ≤ elapsed (s.now cfgIsl) s.cfg.wordAt :=
  ⟨({ late (2 ^ 20) with cfg := { run0.cfg with recv := some {} } }), {}, by decide⟩

theorem witness_StreamsEnd_2 : ∃ (s : State),
    s.cfg.resync = true ∧ (s.isl cfgIsl).live = true ∧ 64 ≤ elapsed (s.now cfgIsl) s.cfg.wordAt :=
  ⟨({ late 64 with cfg := { run0.cfg with resync := true } }), by decide⟩

theorem witness_StreamsEnd_3 : ∃ (k : IslandNo) (s : State),
    s.chanUp = true ∧ (s.isl k).inReset = false ∧ (s.isl k).state ≠ .shut :=
  ⟨59, run0, by decide⟩

theorem witness_StreamsEnd_4 : ∃ (k : IslandNo) (s : State),
    s.chanUp = true ∧ ((s.isl k).inReset = true ∨ (s.isl k).state = .shut) :=
  ⟨59, (run0.onIsl 59 fun i => { i with state := .shut }), by decide⟩

theorem witness_StreamsEnd_5 : ∃ (k : IslandNo) (s : State),
    s.running k = true ∧ (s.isl k).quiesceAsk = true ∧ s.workEnded k = true ∧ s.holdsOpen k = false :=
  ⟨0, (run0.onIsl 0 fun i => { i with quiesceAsk := true }), by decide⟩

theorem witness_StreamsEnd_6 : ∃ (k : IslandNo) (s : State),
    s.chanUp = true ∧ (s.isl k).inReset = false ∧ (s.isl k).state = .quiesced :=
  ⟨0, (run0.onIsl 0 fun i => { i with state := .quiesced }), by decide⟩

theorem witness_LinesAreWritten_0 : ∃ (p : SliceNo) (line : BitVec 32) (s : State) (r : MemReq) (rest : List MemReq),
    s.portLive p = true ∧ (s.slice p).mp.waiting.filter (fun r => r.isData && guardOf r.addr.toNat == line.toNat) = r :: rest ∧
      (s.slice p).mp.guardEnt line.toNat = none ∧ (s.slice p).mp.cache.length < 64 :=
  ⟨0, 0, (portUp.onMp 0 fun m => { m with waiting := [dataWrite] }), dataWrite, [], by decide⟩

theorem witness_LinesAreWritten_1 : ∃ (p : SliceNo) (line : BitVec 32) (s : State) (e : GuardEnt),
    s.portLive p = true ∧ (s.slice p).mp.guardEnt line.toNat = some e ∧ e.dirty = true ∧ e.wb = false ∧
      ((65536 ≤ elapsed (s.now (psIsl p)) e.dirtyAt ∨ (s.isl (psIsl p)).quiesceAsk = true ∨ (s.slice p).dataShut = true)) ∧
      (s.slice p).mp.openWrites e.line = [] :=
  ⟨0, 0, (late (2 ^ 16)).onMp 0 fun m => { m with en := true, cache := [{ line := 0, dirty := true }] }, ({ line := 0, dirty := true }),
      by decide⟩

theorem witness_LinesAreWritten_2 : ∃ (p : SliceNo) (s : State) (t : State),
    s.homeLive p = true ∧ s.advanceAny p = some t :=
  ⟨0, (withCommit (commit1 .tables 0)), ((withCommit (commit1 .tables 0)).advanceAny 0).getD run0, by decide, some_of _ _ (by decide)⟩

theorem witness_LinesAreWritten_3 : ∃ (p : SliceNo) (s : State) (t : State),
    s.homeLive p = true ∧ s.advanceAny p = none ∧ s.refuseKeyless p = some t :=
  ⟨0, (withEph { dir := [dir1] }).onSlice 0 fun x => { x with home := { inq := [{ obj := obj1, plate := 0, body := [] }] } },
      (((withEph { dir := [dir1] }).onSlice 0 fun x => { x with home := { inq := [{ obj := obj1, plate := 0, body := [] }] } }).refuseKeyless 0).getD run0, by decide, by decide, some_of _ _ (by decide)⟩

theorem witness_LinesAreWritten_4 : ∃ (p : SliceNo) (s : State) (e : PWrite × Nat),
    s.homeLive p = true ∧ s.advanceAny p = none ∧ s.refuseKeyless p = none ∧
      (s.slice p).home.inq.zipIdx.find? (fun e => s.mayWrite p e.2 e.1) = some e :=
  ⟨0, keyedWrite, ({ obj := obj1, plate := 0, body := [] }, 0), by decide⟩

theorem witness_LinesAreWritten_5 : ∃ (p : SliceNo) (oid : BitVec 40) (span : BitVec 18) (base : Nat) (n : Nat) (s : State),
    s.awake ephIsl = true ∧
      s.eph.freeing.find? (fun f => f.1 == p && f.2.2.2.1 == oid && f.2.2.2.2 == span.toNat) = some (p, base, n, oid, span.toNat) ∧
      (∀ j ∈ (s.slice p).home.reads, j.obj.oid ≠ oid) ∧ s.isJoint p = false ∧ s.eph.runCount < 131072 ∧ 0 < n :=
  ⟨0, 1, 0, 16, 1, (withEph { freeing := [(0, 16, 1, 1, 0)] }), by decide⟩

theorem witness_PlatesAreStored_1 : ∃ (p : SliceNo) (s : State) (e : StoreIn) (q : StoreP),
    s.running (psIsl p) = true ∧ (s.slice p).dataShut = false ∧ ((s.importDrain p).slice p).storeNext = some (e, q) ∧ e.obj.code = 1 ∧
      (s.slice p).store.encoding < 8 ∧ s.storeLive e.run = true ∧ s.mustRegister e.run = false ∧
    let d := ((s.importDrain p).onSlice p fun x => { x with store := q }).hostReadsGo
    (((s.slice p).slots[e.slot]).st = .free ∨ ((s.slice p).slots[e.slot]).st = .retiring) ∧ e.heal = false ∧ s.masterStatus e = .good :=
  ⟨0, (withStore (storeIn 1 none)), (storeIn 1 none), {}, by decide, by decide, rfl, by decide, by decide, by decide, by decide,
      by decide, by decide, by decide⟩

theorem witness_PlatesAreStored_2 : ∃ (p : SliceNo) (s : State) (e : StoreIn) (q : StoreP) (st : BitVec 8),
    s.running (psIsl p) = true ∧ (s.slice p).dataShut = false ∧ ((s.importDrain p).slice p).storeNext = some (e, q) ∧ e.obj.code = 1 ∧
      (s.slice p).store.encoding < 8 ∧ s.storeLive e.run = true ∧ s.mustRegister e.run = false ∧
    let d := ((s.importDrain p).onSlice p fun x => { x with store := q }).hostReadsGo
    s.masterStatus e = .fails st :=
  ⟨0, ({ withStore masterIn with cmd := { runs := [{ aRun with masterOfSrc := true }] }, eph := { dir := [dir1] } }), masterIn, {},
      stMasterInvalid, by decide, by decide, rfl, by decide, by decide, by decide, by decide, by decide⟩

theorem witness_PlatesAreStored_3 : ∃ (p : SliceNo) (s : State) (e : StoreIn) (q : StoreP) (u : State),
    s.running (psIsl p) = true ∧ (s.slice p).dataShut = false ∧ ((s.importDrain p).slice p).storeNext = some (e, q) ∧ e.obj.code ≠ 1 ∧
      s.storeLive e.run = true ∧ s.mustRegister e.run = false ∧ e.run = none ∧
      (((s.importDrain p).onSlice p fun x => { x with store := q }).hostReadsGo).homeWrite p (storeForm e).1 = (true, u) :=
  ⟨0, ({ withStore (storeIn 0 none) with eph := { dir := [dir1] } }), (storeIn 0 none), {},
      ((((({ withStore (storeIn 0 none) with eph := { dir := [dir1] } } : State).importDrain 0).onSlice 0 fun x => { x with store := {} }).hostReadsGo).homeWrite 0 (storeForm (storeIn 0 none)).1).2, by decide, by decide, rfl, by decide, by decide, by decide, by decide, Prod.ext (by decide +kernel) rfl⟩

theorem witness_PlatesAreStored_4 : ∃ (p : SliceNo) (s : State) (e : StoreIn) (q : StoreP),
    s.running (psIsl p) = true ∧ (s.slice p).dataShut = false ∧ ((s.importDrain p).slice p).storeNext = some (e, q) ∧
      (s.slice p).store.encoding < 8 ∧ s.storeLive e.run = false :=
  ⟨0, (withStore (storeIn 0 (some 77))), (storeIn 0 (some 77)), {}, by decide, by decide, rfl, by decide, by decide⟩

theorem witness_SpansCommit_0 : ∃ (p : SliceNo) (oid : BitVec 40) (span : BitVec 18) (s : State) (u : State) (m : Commit) (b : Nat),
    s.awake ephIsl = true ∧ s.eph.reloading = false ∧
      (s.eph.places.find? fun q => q.obj.oid == oid && q.span == span.toNat && q.slice == p) = none ∧
      s.frameCommit p oid span.toNat = some m ∧ s.eph.gone.getLsbD p.val = false ∧ s.claim p (s.commitNeed m) none = (some b, u) :=
  ⟨0, 1, 0, claimState, (claimState.claim 0 (claimState.commitNeed (commit1 .claiming 0)) none).2, (commit1 .claiming 0),
      (claimState.claim 0 (claimState.commitNeed (commit1 .claiming 0)) none).1.getD 0, by decide, by decide, by decide, by decide,
      by decide, Prod.ext (some_of _ _ (by decide)) rfl⟩

theorem witness_SpansCommit_1 : ∃ (p : SliceNo) (oid : BitVec 40) (span : BitVec 18) (s : State) (m : Commit),
    s.homeLive p = true ∧
      (s.slice p).store.commits.find? (fun m => m.obj.oid == oid && m.span == span.toNat && m.st == .tables) = some m ∧ m.obj.code = 2 ∧
      m.closed = true ∧ m.left = 0 ∧ m.failed = false :=
  ⟨0, 1, 0, (withCommit (commit1 .tables 2)), (commit1 .tables 2), by decide⟩

theorem witness_SpansCommit_2 : ∃ (p : SliceNo) (oid : BitVec 40) (span : BitVec 18) (s : State) (m : Commit),
    s.awake ephIsl = true ∧
      (s.slice p).store.commits.find? (fun m => m.obj.oid == oid && m.span == span.toNat && m.st == .ready) = some m ∧
      s.defers m = false ∧ s.swingFits m = true ∧ m.target = p :=
  ⟨0, 1, 0, (withCommit { commit1 .ready 0 with target := 0 }), ({ commit1 .ready 0 with target := 0 }), by decide⟩

theorem witness_SpansCommit_3 : ∃ (run : Nat) (s : State) (r : CmdRun) (p : SliceNo) (m : Commit),
    s.awake ephIsl = true ∧ s.findRun run = some r ∧ s.consistent = true ∧ r.status = 0 ∧ r.stopped = false ∧ r.tainted = false ∧
      s.writesDone r = true ∧
      ((List.finRange 32).flatMap fun p => ((s.slice p).store.commits.filter fun m => m.run == some run && m.st == .ready).map fun m => (p, m)) = [(p, m)] :=
  ⟨1, ({ withCommit { commit1 .ready 0 with run := some 1 } with cmd := { runs := [aRun] }, cfg := { store := some consConf } }), aRun, 0,
      ({ commit1 .ready 0 with run := some 1 }), by decide⟩

theorem witness_TableSlotRows_0 : ∃ (p : SliceNo) (s : State) (run : Nat),
    s.awake (psIsl p) = true ∧ (s.slice p).hist.run = some run ∧ (s.slice p).hist.left = 0 :=
  ⟨0, (run0.onSlice 0 fun x => { x with hist := { run := some 1 } }), 1, by decide⟩

theorem witness_TableSlotRows_1 : ∃ (p : SliceNo) (s : State) (run : Nat) (h : Hist) (b : Build),
    s.buildOf run = some b :=
  ⟨0, ({ run0 with spg := { builds := [{ run := 1, slot := some 2, unsent := [], waiting := [0] }] } }), 1, Hist.empty,
      ({ run := 1, slot := some 2, unsent := [], waiting := [0] }), rfl⟩

theorem witness_TableSlotRows_2 : ∃ (s : State) (run : Nat) (rest : List Nat) (b : Build) (n : Fin 64) (c : CmdRun),
    s.running spgIsl = true ∧ s.spg.closed = run :: rest ∧ s.buildOf run = some b ∧ b.slot = some n ∧ (s.slot n).st = .loading ∧
      (s.slot n).built = false ∧ s.installing = false ∧ s.findRun run = some c ∧ bitAt (c.entry.words.getD 2 0) 15 = false :=
  ⟨({ withRun aRun with spg := { closed := [1], builds := [{ run := 1, slot := some 2, unsent := [], waiting := [] }] } } : State).onSlot 2 fun x => { x with st := .loading }, 1, [], ({ run := 1, slot := some 2, unsent := [], waiting := [] }), 2, aRun, by decide, by decide, rfl, by decide, by decide, by decide, by decide, by decide, by decide⟩

theorem witness_TableSlotRows_3 : ∃ (p : SliceNo) (n : Fin 64) (img : List Byte) (s : State),
    ((s.slice p).slots[n]).st = .loading ∧ crcsHold img = true :=
  ⟨0, 2, okImage, (run0.onSlice 0 fun x => { x with slots := x.slots.set 2 { st := .loading } }), by decide, by decide +kernel⟩

theorem witness_TableSlotRows_4 : ∃ (n : Fin 64) (s : State),
    s.awake spgIsl = true ∧ (s.slot n).st = .loading ∧ (s.slot n).built = true ∧ (s.slot n).cur = none ∧ (s.slot n).queue = [] ∧
      ((∀ p, s.takesImages p = true → ((s.slice p).slots[n]).image = (s.slot n).image)) :=
  ⟨2, (run0.onSlot 2 fun x => { x with st := .loading, built := true }), by decide, by decide, by decide, by decide, by decide,
      by intro p _; fin_cases p <;> rfl⟩

theorem witness_TableSlotRows_5 : ∃ (p : SliceNo) (n : Fin 64) (s : State),
    s.sliceIn p = true ∧ s.awake spgIsl = true ∧ ((s.slot n).st = .retiring ∨ ((s.slot n).st = .live ∧ (s.slot n).draining = true)) ∧
      (((s.slice p).slots[n]).st ≠ .live ∨ ((s.slice p).slots[n]).draining = true) ∧ ((s.slice p).slots[n]).inUse = 0 ∧
      ((s.slice p).slots[n]).reported = false :=
  ⟨0, 2, (run0.onSlice 0 fun x => { x with slots := x.slots.set 2 { st := .retiring } }).onSlot 2 fun x => { x with st := .retiring },
      by decide⟩

theorem witness_TableSlotRows_6 : ∃ (n : Fin 64) (s : State),
    s.awake spgIsl = true ∧ (s.slot n).st = .retiring ∧ (∀ p, s.drained p n = true) ∧ (s.slot n).cur = none :=
  ⟨2, ({ run0 with slices := Vector.replicate 32 { slots := Vector.replicate 64 { reported := true } } } : State).onSlot 2 fun x => { x with st := .retiring }, by decide⟩

theorem witness_TableSlotRows_7 : ∃ (n : Fin 64) (s : State) (c : SlotCmd),
    s.awake spgIsl = true ∧ (s.slot n).cur = some c ∧ (s.slot n).st = .live ∧ (s.slot n).draining = true ∧ s.consistent = false ∧
      2 ^ 20 ≤ elapsed (s.now spgIsl) (s.slot n).holdAt :=
  ⟨2, (late (2 ^ 20)).onSlot 2 fun x => { x with st := .live, draining := true, cur := some { run := 1, act := .retire } },
      ({ run := 1, act := .retire }), by decide⟩

theorem witness_EyepieceRows_0 : ∃ (p : SliceNo) (id : Nat) (s : State) (a : Arrived),
    s.pathLive p = true ∧ (s.slice p).eye.arrived.find? (fun a => a.id == id) = some a ∧ (s.slice p).eye.wantOf id = none :=
  ⟨0, 4, (withEye { arrived := [{ id := 4, body := [] }] }), ({ id := 4, body := [] }), by decide⟩

theorem witness_EyepieceRows_1 : ∃ (p : SliceNo) (id : Nat) (s : State) (a : Arrived) (t : EStream) (w : Want),
    s.pathLive p = true ∧ (s.slice p).eye.arrived.find? (fun a => a.id == id) = some a ∧ (s.slice p).eye.wantOf id = some (t, w) ∧
      s.parkFull = false ∧ (if w.use.stored then s.consumerFree p w.use = true else s.nextAdmit p = some id) ∧ a.unwritten = true ∧
      (∀ d, w.use ≠ .copy d) ∧ (∀ j, w.use ≠ .lines j) :=
  ⟨0, 4, (withEye { streams := [stream1 .hist], arrived := [{ id := 4, body := [], unwritten := true }] }),
      ({ id := 4, body := [], unwritten := true }), (stream1 .hist), (want1 .hist), by decide, by decide, by decide, by decide, by decide,
      by decide, nofun, nofun⟩

theorem witness_EyepieceRows_2 : ∃ (p : SliceNo) (c : Fin 16) (s : State) (t : EStream),
    s.pathLive p = true ∧ s.running (psIsl p) = true ∧ (s.slice p).ctxWaiting = some t ∧ (s.slice p).eye.ctxs[c] = none :=
  ⟨0, 0, (withEye { streams := [{ stream1 .hist with wants := [want1 .hist], asked := [] }] }),
      ({ stream1 .hist with wants := [want1 .hist], asked := [] }), by decide⟩

theorem witness_EyepieceRows_3 : ∃ (p : SliceNo) (s : State) (f : InFlight) (l : Fin 128),
    s.pathLive p = true ∧ (s.slice p).eye.flight.find? (fun f => !f.parked && !f.subs.isEmpty) = some f ∧
      (s.slice p).eye.tcache.contains (Fin.ofNat 64 f.hdr.slot) = true ∧ (s.slice p).eye.freeLane = some l :=
  ⟨0, (withEye { eyeLane with flight := [flight1 [0]], lanes := Vector.replicate 128 none }), (flight1 [0]), 0, by decide⟩

theorem witness_EyepieceRows_4 : ∃ (p : SliceNo) (n : Fin 64) (s : State),
    s.pathLive p = true ∧ (s.slice p).eye.tcache.contains n = false ∧ (s.slice p).eye.slotsUsed.contains n.val = true ∧
      (s.slice p).eye.tcache.length < 8 :=
  ⟨0, 2, (withEye { eyeLane with tcache := [] }), by decide⟩

theorem witness_EyepieceRows_5 : ∃ (p : SliceNo) (l : Fin 128) (s : State) (f : InFlight) (i : Nat),
    s.pathLive p = true ∧ (s.slice p).eye.laneHolds l = some (f, i) ∧ s.mayFinish p f = true ∧
    let tab := (s.slice p).tableFor f
    let bits := subBits f.hdr.rate f.arr.body i
    subTimesOut tab (f.hdr.floor.getLsbD i) bits = false ∧ (s.isl (psIsl p)).armed = none :=
  ⟨0, 0, (withEye eyeLane), (flight1 []), 0, by decide⟩

theorem witness_EyepieceRows_6 : ∃ (p : SliceNo) (l : Fin 128) (s : State) (f : InFlight) (i : Nat),
    s.pathLive p = true ∧ (s.slice p).eye.laneHolds l = some (f, i) ∧ s.mayFinish p f = true ∧
    let tab := (s.slice p).tableFor f
    let bits := subBits f.hdr.rate f.arr.body i
    subTimesOut tab (f.hdr.floor.getLsbD i) bits = true :=
  ⟨0, 0, slowEye, slowFlight, 0, by decide, rfl, by decide, by decide +kernel⟩

theorem witness_EyepieceRows_7 : ∃ (p : SliceNo) (l : Fin 128) (s : State) (f : InFlight) (i : Nat) (r : Option (List F32 × Nat)),
    s.pathLive p = true ∧ (s.slice p).eye.laneHolds l = some (f, i) ∧ s.mayFinish p f = true ∧
    let tab := (s.slice p).tableFor f
    let bits := subBits f.hdr.rate f.arr.body i
    (KMap.put f.done i (match r with | some v => v.1 | none => [])).length ≠ 16 :=
  ⟨0, 0, (withEye eyeLane), (flight1 []), 0, none, by decide⟩

theorem witness_DenseEngineRows_0 : ∃ (p : SliceNo) (s : State),
    s.pathLive p = true :=
  ⟨0, run0, by decide⟩

theorem witness_DenseEngineRows_1 : ∃ (p : SliceNo) (s : State) (j : MatJob) (j2 : Option MatJob) (rest : List (MatJob × Option MatJob)),
    s.pathLive p = true ∧
    let u := s.dpeAbsorb p
    (u.slice p).dpe.job = none ∧ (u.slice p).dpe.queue = (j, j2) :: rest ∧ u.blocksFree p = true ∧ u.begins (psIsl p) = true ∧
      (u.slice p).pair.joined = false ∧ j.join = false :=
  ⟨0, (withDpe { queue := [(matJob, none)] }), matJob, none, [], by decide, by decide, rfl, by decide, by decide, by decide, by decide⟩

theorem witness_DenseEngineRows_2 : ∃ (p : SliceNo) (s : State) (j : MatJob),
    s.pathLive p = true ∧
    let u := s.dpeAbsorb p
    let d := (u.slice p).dpe
    d.cur = some j ∧ d.blkP ≠ 0 ∧ d.chosen = true ∧ d.pass = [] ∧ d.nextPass (u.arrays p) ≠ [] ∧ u.abandoned j.run = false ∧
      u.passUses p j.run (d.nextPass (u.arrays p)) = none :=
  ⟨0, (withDpe { job := some matJob, blkP := 1, chosen := true, steps := [{ n := 0, kp := 0 }] }), matJob, by decide⟩

theorem witness_DenseEngineRows_3 : ∃ (p : SliceNo) (s : State) (j : MatJob) (us : List PassUse),
    s.pathLive p = true ∧
    let u := s.dpeAbsorb p
    let d := (u.slice p).dpe
    let l := d.nextPass (u.arrays p)
    d.cur = some j ∧ d.blkP ≠ 0 ∧ d.chosen = true ∧ d.pass = [] ∧ l ≠ [] ∧ u.abandoned j.run = false ∧ u.passUses p j.run l = some us ∧
      (∀ e ∈ l, ∀ i ∈ d.rows, (d.act i e.2.kp).isSome = true) ∧ u.accRoom p (d.newCols l) = true ∧ (∀ v ∈ us, v.plate.poison = false) :=
  ⟨0, denseState, matJob, ([{ arr := 0, step := { n := 0, kp := 0 }, plate := Plate.zeros .h16 }]), by decide, by decide, by decide,
      by decide, by decide, by decide, by decide, rfl, by decide, by decide, by decide⟩

theorem witness_DenseEngineRows_4 : ∃ (p : SliceNo) (s : State) (a : Acc),
    s.pathLive p = true ∧ (s.slice p).dpe.nextFinal (s.now (psIsl p)) = some a ∧ 48 ≤ elapsed (s.now (psIsl p)) (a.doneAt.getD 0) :=
  ⟨0, (late 48).onSlice 0 fun x => { x with dpe := { accs := [{ n := 0, row0 := 0, p := 1, at_ := 0, rows := [], doneAt := some 0 }] } },
      ({ n := 0, row0 := 0, p := 1, at_ := 0, rows := [], doneAt := some 0 }), by decide⟩

theorem witness_DenseEngineRows_5 : ∃ (q : SliceNo) (p : SliceNo) (s : State) (j : MatJob) (o : OutPlate),
    s.pathLive q = true ∧ s.drainFrom q = some (p, o) ∧ (if o.second then (s.slice p).dpe.job2 else (s.slice p).dpe.job) = some j ∧
      s.outRoom q j = true :=
  ⟨0, 0, (withDpe { job := some matJob, drain := [out1] }), matJob, out1, by decide⟩

theorem witness_DenseEngineRows_6 : ∃ (p : SliceNo) (s : State) (j : MatJob),
    s.pathLive p = true ∧
    let u := s.dpeAbsorb p
    let d := (u.slice p).dpe
    d.job = some j ∧ d.choiceRows ≠ [] ∧ j.engineOf = 0 ∧ d.mapsAsked = none :=
  ⟨0, (withDpe { job := some matJob, blkP := 1 }), matJob, by decide⟩

theorem witness_DenseEngineRows_7 : ∃ (p : SliceNo) (s : State) (j : MatJob) (asked : List (Bool × Nat)),
    s.pathLive p = true ∧
    let u := s.dpeAbsorb p
    let d := (u.slice p).dpe
    let given := (d.choiceRows.flatMap fun i => d.cols.map fun n => (i, n)).filter fun e => (u.chooseJob p j e.1 e.2).1
    d.job = some j ∧ d.choiceRows ≠ [] ∧ j.engineOf = 0 ∧ d.mapsAsked = some asked ∧ (∀ a ∈ asked, ∃ e ∈ d.maps, e.1 = a) :=
  ⟨0, (withDpe { job := some matJob, blkP := 1, mapsAsked := some [] }), matJob, [], by decide⟩

theorem witness_RowsAreIssued_0 : ∃ (p : SliceNo) (s : State) (j : MatJob) (u : PassUse) (a : Plate),
    s.pathLive p = true ∧ (s.slice p).dpe.cur = some j ∧ (s.slice p).dpe.pass = [u] ∧ u.step.row0 ≤ (s.slice p).dpe.row ∧
      (s.slice p).dpe.failed = [] ∧ s.rowFails p [] = [] ∧
    let d := (s.slice p).dpe
    let t := d.row
    d.act (d.blkRow + t / 128) u.step.kp = some a ∧ a.poison = false ∧ t + 1 ≠ 128 * d.blkP ∧ u.arr < 64 ∧ s.arraySlice p u.arr = p :=
  ⟨0, (withDpe rowDpe), matJob, ({ arr := 0, step := { n := 0, kp := 0 }, plate := Plate.zeros .h16 }), (Plate.zeros .h16), by decide,
      by decide, rfl, by decide, by decide, by decide, rfl, by decide, by decide, by decide, by decide⟩

theorem witness_RowsAreIssued_1 : ∃ (p : SliceNo) (failing : List (Fin 64)) (s : State) (j : MatJob),
    s.pathLive p = true ∧ (s.slice p).dpe.cur = some j ∧ (s.slice p).dpe.pass ≠ [] ∧ (s.slice p).dpe.failed = [] ∧
      s.rowFails p failing = [] ∧
    let d := (s.slice p).dpe
    let t := d.row
    let a (u : PassUse) : Plate := (d.act (d.blkRow + t / 128) u.step.kp).getD (Plate.zeros j.cfmt)
    (∀ u ∈ d.pass, (a u).poison = false) ∧ t + 1 ≠ 128 * d.blkP :=
  ⟨0, [], (withDpe rowDpe), matJob, by decide, rfl, by decide, by decide, by decide, by decide, by decide⟩

theorem witness_RowsAreIssued_2 : ∃ (p : SliceNo) (f : Fin 64) (s : State) (j : MatJob) (u : PassUse),
    s.pathLive p = true ∧ (s.slice p).dpe.cur = some j ∧ (s.slice p).dpe.pass = [u] ∧ u.arr = f.val ∧ u.step.row0 ≤ (s.slice p).dpe.row ∧
      (s.slice p).dpe.failed = [] ∧ (s.slice p).dpe.row + 1 ≠ 128 * (s.slice p).dpe.blkP ∧ s.arraySlice p u.arr = p :=
  ⟨0, 0, (withDpe rowDpe), matJob, ({ arr := 0, step := { n := 0, kp := 0 }, plate := Plate.zeros .h16 }), by decide, rfl, rfl, by decide,
      by decide, by decide, by decide, by decide⟩

theorem witness_PairRows_0 : ∃ (k : Fin 16) (s : State),
    (s.slice (pairLow k)).pair.joinWait = true ∧ s.pathLive (pairLow k) = true ∧ (s.slice (pairLow k)).pair.joined = false ∧
      s.joinDeclined (pairLow k) = false ∧ (s.slice (pairLow k)).noBlock = true ∧ (s.slice (pairHigh k)).noBlock = true :=
  ⟨0, (pairUp.onSlice 0 fun x => { x with pair := { joinWait := true } }), by decide⟩

theorem witness_PairRows_1 : ∃ (k : Fin 16) (s : State),
    (s.slice (pairLow k)).pair.lead = true ∧ (s.slice (pairLow k)).pair.joined = true ∧ (s.slice (pairLow k)).joinOver = true :=
  ⟨0, (run0.onSlice 0 fun x => { x with pair := { lead := true, joined := true } }), by decide⟩

theorem witness_PairRows_2 : ∃ (p : SliceNo) (s : State),
    (s.isl (psIsl p)).live = true ∧ (s.slice p).dataShut = true ∧ (s.slice p).pair.noticeSent = false ∧ s.twinServes p = true ∧
      (s.slice p).mp.settled = true :=
  ⟨0, (pairUp.onSlice 0 fun x => { x with dataShut := true }), by decide⟩

theorem witness_PairRows_3 : ∃ (p : SliceNo) (s : State),
    s.awake (psIsl p) = true ∧ (s.slice p).pair.serving = true ∧ (s.slice (twinOf p)).mp.bridged = false ∧
      (s.slice (twinOf p)).pair.noticeSent = true :=
  ⟨0, (run0.onSlice 0 fun x => { x with pair := { serving := true } }).onSlice 1 fun x => { x with pair := { noticeSent := true } },
      by decide⟩

theorem witness_SparseEngineRows_0 : ∃ (p : SliceNo) (s : State) (j : MatJob),
    s.pathLive p = true ∧ (s.slice p).dpe.job = some j ∧ (s.slice p).sme.draining = false ∧ s.abandoned j.run = false ∧ s.lanes p ≠ [] :=
  ⟨0, (withSme {}), matJob, by decide⟩

theorem witness_SparseEngineRows_1 : ∃ (p : SliceNo) (l : Fin 32) (s : State) (j : MatJob) (t : Task) (rest : List Task),
    s.pathLive p = true ∧ (s.slice p).dpe.job = some j ∧ (∀ w ∈ (s.slice p).sme.work, w.lane ≠ l.val) ∧
      (s.slice p).sme.queues[l] = t :: rest ∧ (s.lanes p).contains l.val = true ∧ s.abandoned j.run = false :=
  ⟨0, 3, (withSme { queues := (Vector.replicate 32 []).set 3 [{ i := 0, n := 0, c := 0, a := 0 }] }), matJob,
      ({ i := 0, n := 0, c := 0, a := 0 }), [], by decide⟩

theorem witness_SparseEngineRows_2 : ∃ (p : SliceNo) (l : Fin 32) (v : Fin 32) (s : State),
    s.pathLive p = true ∧ (s.lanes p).contains l.val = true ∧ (s.slice p).sme.queues[l] = [] ∧
      (∀ w ∈ (s.slice p).sme.work, w.lane ≠ l.val) ∧
      (s.slice p).sme.victim (if s.logical p then 32 else 16) (s.lanes p) l.val = some v.val :=
  ⟨0, 2, 3, (withSme { queues := (Vector.replicate 32 []).set 3 [{ i := 0, n := 0, c := 0, a := 0 }, { i := 0, n := 0, c := 0, a := 1 }] }), by decide⟩

theorem witness_SparseEngineRows_3 : ∃ (p : SliceNo) (s : State) (t : State) (j : MatJob) (r : HEnt) (rest : List HEnt),
    s.pathLive p = true ∧ (s.slice p).dpe.job = some j ∧ (s.slice p).sme.spill = r :: rest ∧
      (s.onSme p fun m => { m with spill := rest }).stripAdd p j [r] = some t ∧
      (s.stripKnown j (cdiv ((s.slice p).sme.strip.length + 1) 126)).1 = true :=
  ⟨0, spillState, ((spillState.onSme 0 fun m => { m with spill := [] }).stripAdd 0 spillJob [spillRec]).getD run0, spillJob, spillRec, [],
      by decide, by decide, by decide, some_of _ _ (by decide), by decide⟩

theorem witness_SparseEngineRows_4 : ∃ (p : SliceNo) (s : State) (j : MatJob),
    s.pathLive p = true ∧ (s.slice p).dpe.job = some j ∧ (s.slice p).sme.group ≠ [] ∧ (s.slice p).sme.draining = false ∧
      j.chunks ≤ (s.slice p).sme.chunk ∧ (s.slice p).sme.tasks = [] ∧ (s.slice p).sme.spill = [] ∧ (s.slice p).sme.undrained = [] ∧
      (s.stripKnown j 0).1 = true :=
  ⟨0, (withSme { group := [{ i := 0, n := 0 }], chunk := 1 }), matJob, by decide⟩

theorem witness_SparseEngineRows_5 : ∃ (p : SliceNo) (s : State) (j : MatJob),
    s.pathLive p = true ∧ (s.slice p).dpe.job = some j ∧ (s.slice p).sme.draining = true ∧ (s.slice p).sme.round = false :=
  ⟨0, (withSme { draining := true }), matJob, by decide⟩

theorem witness_EntriesAreFetched_0 : ∃ (q : Fin 64) (s : State),
    s.mayFetch q = true ∧ (s.cq q).stale = none ∧ (s.cq q).host = false :=
  ⟨3, (fetchUp.onCq 3 fun c => { c with en := true, tail := 1 }), by decide⟩

theorem witness_EntriesAreFetched_1 : ∃ (q : Fin 64) (s : State),
    s.mayFetch q = true ∧ (s.cq q).stale = none ∧ (s.cq q).host = true ∧
    let c := s.cq q
    let n := min (8 - c.head.toNat % 8) (min (c.tail - c.head).toNat (16 - c.accepted.length))
    let addr := c.ring.toNat * 4096 + 64 * (c.head.toNat % c.size)
    s.cmd.winAdmits c.win addr (64 * n) = true :=
  ⟨3, (fetchUp.onCq 3 fun c => { c with en := true, host := true, armed := true, tail := 1, ring := 1 }), by decide⟩

theorem witness_EntriesAreFetched_2 : ∃ (q : Fin 64) (s : State) (k : Nat) (t0 : Ctr),
    s.mayFetch q = true ∧ (s.cq q).stale = some (k, t0) ∧ (s.cq q).host = false ∧ 2 ^ k * 256 ≤ elapsed (s.now cmdIsl) t0 :=
  ⟨3, (fetchUp.onCq 3 fun c => { c with en := true, tail := 1, stale := some (0, 0) }).onIsl 53 fun i => { i with cycle := 256 }, 0, 0,
      by decide⟩

theorem witness_CommandsStart_0 : ∃ (q : Fin 64) (s : State) (op : Nat) (e : Entry),
    s.entryOf q op = some e ∧ e.isStage = false ∧ e.isSecond = false ∧ s.askFor e = [] :=
  ⟨3, (queued nopEntry), 0, nopEntry, by decide⟩

theorem witness_SignalWaitFence_0 : ∃ (q : Fin 64) (s : State) (r : CmdRun),
    r.second = none :=
  ⟨3, run0, aRun, by decide⟩

theorem witness_SignalWaitFence_1 : ∃ (r : CmdRun) (s : State),
    bitAt (r.entry.word 1) 51 = false :=
  ⟨aRun, run0, by decide⟩

theorem witness_SignalWaitFence_3 : ∃ (q : Fin 64) (s : State) (run : Nat) (c : Nat) (v : BitVec 32),
    s.awake cmdIsl = true ∧ (s.cq q).wait = some (run, c, v) ∧ ((s.cmd.sig[Fin.ofNat 256 c] : BitVec 32) - v).toNat < 2 ^ 31 :=
  ⟨3, (run0.onCq 3 fun c => { c with wait := some (1, 2, 0) }), 1, 2, 0, by decide⟩

theorem witness_CommandsComplete_0 : ∃ (run : Nat) (s : State) (r : CmdRun),
    s.awake cmdIsl = true ∧ s.findRun run = some r ∧ r.done = false ∧ r.stopped = false ∧ s.busy r = false ∧ r.tainted = false ∧
      s.retries r = false :=
  ⟨1, (withRun aRun), aRun, by decide⟩

theorem witness_CommandsComplete_1 : ∃ (run : Nat) (s : State) (r : CmdRun),
    s.awake cmdIsl = true ∧ s.findRun run = some r ∧ r.done = true ∧ (r.hrec = .acked ∨ r.hrec = .lost) :=
  ⟨1, (withRun { aRun with done := true, hrec := .acked }), ({ aRun with done := true, hrec := .acked }), by decide⟩

theorem witness_CommandsComplete_2 : ∃ (cq : Fin 16) (s : State) (h : HeldRec),
    s.awake cmdIsl = true ∧ s.cmd.held.find? (fun h => h.cq == cq) = some h ∧ s.canOpen 0 (0x2100 + cq.val) 1 = true :=
  ⟨0, ({ run0 with cmd := { held := [{ cq := 0, words := [] }] } }), ({ cq := 0, words := [] }), by decide⟩

theorem witness_CommandsComplete_3 : ∃ (run : Nat) (s : State) (r : CmdRun) (e : Entry),
    s.awake cmdIsl = true ∧ s.findRun run = some r ∧ r.done = true ∧ r.hrec = .due ∧ r.entries.filter Entry.hcq = [e] :=
  ⟨1, (withRun hostRun), hostRun, hostRun.entry, by decide⟩

theorem witness_CommandsComplete_4 : ∃ (q : Fin 64) (h : BitVec 17) (s : State),
    (s.isl cmdIsl).live = true ∧ (s.cq q).accepted = [] :=
  ⟨3, 0, run0, by decide⟩

theorem witness_CommandsComplete_5 : ∃ (q : Fin 64) (h : BitVec 17) (a : Bool) (b : Bool) (s : State),
    (s.isl cmdIsl).live = true :=
  ⟨3, 0, true, false, run0, by decide⟩

theorem witness_CommandsComplete_6 : ∃ (q : Fin 64) (s : State),
    (s.isl cmdIsl).live = true ∧ (s.cq q).halted = 0 :=
  ⟨3, run0, by decide⟩

theorem witness_CommandsComplete_7 : ∃ (q : Fin 64) (s : State),
    (s.isl cmdIsl).live = true ∧ (s.cq q).halted ≠ 0 :=
  ⟨3, (run0.onCq 3 fun c => { c with halted := 2 }), by decide⟩

theorem witness_CommandsComplete_8 : ∃ (run : Nat) (s : State) (r : CmdRun),
    s.awake cmdIsl = true ∧ s.findRun run = some r ∧ r.done = false ∧ s.consistent = true ∧ r.tainted = true ∧ s.writesDone r = true ∧
      (s.purge run (r.fail stStoreLost).status).busy (r.fail stStoreLost) = false ∧
      (s.purge run (r.fail stStoreLost).status).retries (r.fail stStoreLost) = true :=
  ⟨1, ({ withRun taintRun with cfg := { store := some consConf } }), taintRun, by decide, by decide, by decide, by decide, by decide,
      by decide +kernel, by decide +kernel, by decide +kernel⟩

theorem witness_LinkLaneRows_0 : ∃ (g : GroupNo) (l : Fin 12) (w : BitVec 128) (s : State),
    s.awake (lgIsl g) = true ∧ (s.linkLaneEn g).getLsbD l.val = true ∧ (s.group g).st ≠ .down :=
  ⟨0, 0, 0, (linkUp.onGroup 0 fun x => { x with st := .training }), by decide⟩

theorem witness_LinkLaneRows_1 : ∃ (g : GroupNo) (l : Fin 12) (s : State),
    (s.isl (lgIsl g)).live = true ∧ (s.linkLaneEn g).getLsbD l.val = true :=
  ⟨0, 0, linkUp, by decide⟩

theorem witness_LinkLaneRows_2 : ∃ (g : GroupNo) (l : Fin 12) (s : State),
    (s.group g).lanes[l].rxLock = true :=
  ⟨0, 0, (run0.onGroup 0 fun x => { x with lanes := x.lanes.set 0 { rxLock := true } }), by decide⟩

theorem witness_LinkRows_0 : ∃ (g : GroupNo) (words : List (List (BitVec 128))) (s : State),
    s.awake (lgIsl g) = true ∧ ((s.group g).st = .hello ∨ (s.group g).st = .up) ∧ (s.group g).rxN ≠ 0 ∧ words.length = (s.group g).n :=
  ⟨0, [[]], (run0.onGroup 0 fun x => { x with st := .up, rxN := 1, set := 1 }), by decide⟩

theorem witness_LinkRows_1 : ∃ (g : GroupNo) (o : List ParityObs) (s : State),
    s.awake (lgIsl g) = true ∧ ((s.group g).st = .hello ∨ (s.group g).st = .up) ∧ (s.group g).setReady = true :=
  ⟨0, [], (run0.onGroup 0 fun x => { x with st := .up }), by decide⟩

theorem witness_LinkRows_2 : ∃ (g : GroupNo) (s : State),
    s.awake (lgIsl g) = true ∧ (s.group g).st = .up ∧ (s.group g).replay ≠ [] ∧ (s.group g).replaying = [] ∧ (s.group g).replays < 7 ∧
      256 ≤ elapsed (s.now (lgIsl g)) (s.group g).ackAt :=
  ⟨0, (late 256).onGroup 0 fun x => { x with st := .up, replay := [{ seq := 0, vc := 0, payload := [] }] }, by decide⟩

theorem witness_LinkRows_3 : ∃ (g : GroupNo) (s : State),
    s.awake (lgIsl g) = true ∧ ((s.group g).st = .training ∨ (s.group g).st = .hello ∨ ((s.group g).st = .up ∧
      (s.group g).trainFails = true)) ∧ (s.group g).held.isSome = true ∧ 2 ^ 20 ≤ elapsed (s.now (lgIsl g)) (s.group g).trainAt ∧
      (s.isl (lgIsl g)).armedFor 0x0205 0 = false :=
  ⟨0, (late (2 ^ 20)).onGroup 0 fun x => { x with st := .training, held := some [] }, by decide⟩

theorem witness_LinkRows_4 : ∃ (g : GroupNo) (s : State),
    (s.isl (lgIsl g)).live = true ∧ (s.group g).st ≠ .down ∧ (s.isl (lgIsl g)).state ≠ .shut ∧
      (s.isl (lgIsl g)).armedFor 0x0205 0 = false :=
  ⟨0, (run0.onGroup 0 fun x => { x with st := .up }), by decide⟩

theorem witness_LinkRows_5 : ∃ (g : GroupNo) (s : State),
    (s.isl (lgIsl g)).live = true ∧ (s.group g).st ≠ .down ∧ (s.isl (lgIsl g)).state ≠ .shut ∧ (s.isl (lgIsl g)).armedFor 0x0205 0 = true :=
  ⟨0, (run0.onGroup 0 fun x => { x with st := .up }).onIsl (lgIsl 0) fun i => { i with armed := some { code := 0x0205, inst := 0, remaining := 1, spacing := 0 } }, by decide⟩

theorem witness_FabricCrossings_0 : ∃ (x : QuadNo) (j : Fin 4) (v : Fin 8) (o : ParityObs) (s : State) (p : Pkt) (r : List Pkt),
    ReadsClean x o p s ∧
    let q := 0x2028 + 16 * j.val + v.val
    let l := s.legIn x v p
    ((s.quad x).queue q).packets = p :: r ∧ p.visible = true ∧ ((s.quad x).queue q).wedged = false ∧ s.mayLeg x l = true ∧
      s.legOpen l p = true :=
  ⟨0, 0, 0, {}, (run0.onQuad 0 fun x => x.setQueue 0x2028 { packets := [{ words := [{ w := 1 }], length := 1, cells := [0], visible := true }] }), ({ words := [{ w := 1 }], length := 1, cells := [0], visible := true }), [], by decide⟩

theorem witness_FabricCrossings_1 : ∃ (x : QuadNo) (v : Fin 8) (o : ParityObs) (s : State) (q : Nat) (q' : Nat) (y : QuadNo) (g : GroupNo) (alt : Bool) (p : Pkt) (r : List Pkt),
    ReadsClean x o p s ∧ s.begins (xqIsl x) = true ∧ ((s.quad x).peersAfter v).find? (fun q => (s.peerNext x q).isSome) = some q ∧
      s.peerNext x q = some (g, alt, .queue y q') ∧ ((s.quad x).queue q).packets = p :: r ∧ p.abandoned = false :=
  ⟨0, 0, {}, peerState, 16, 0x2068, 1, 4, false, peerPkt, [], by decide⟩

theorem witness_FabricCrossings_2 : ∃ (unit : BitVec 6) (tid : BitVec 16) (s : State) (r : FabReq) (k : IslandNo),
    s.findReq unit tid = some r ∧ unitIsl unit = some k ∧ s.awake k = true ∧ r.ptype ≠ ptMirror ∧
      2 ^ 22 ≤ elapsed (s.unitNow unit) r.at_ ∧ toManager r.ptype = false ∧ reissues r.ptype = false :=
  ⟨unitEph, 1, ({ late (2 ^ 22) with reqs := [fabReq unitEph 3 .join] }), (fabReq unitEph 3 .join), ephIsl, by decide⟩

theorem witness_HomesServe_0 : ∃ (p : SliceNo) (src : Requester) (oid : BitVec 40) (plate : BitVec 24) (s : State),
    s.homeLive p = true ∧ s.ephLive = true ∧
    let h (b : Bool) : BitVec 4 × HomeWord := if b then (fsHalted, noHome) else (fsNotHome, s.newHome oid (spanOf plate.toNat))
    (s.isHalted (domainOf oid) = true ∨ s.eph.serves oid (spanOf plate.toNat) = .notHome) :=
  ⟨0, far, 1, 0, run0, by decide⟩

theorem witness_HomesServe_1 : ∃ (p : SliceNo) (src : Requester) (oid : BitVec 40) (plate : BitVec 24) (rcc : BitVec 2) (data : List Byte) (poison : Bool) (s : State) (c : Conf),
    s.homeLive p = true ∧ s.ephLive = true ∧ s.conf (psIsl p) = some c ∧ c.archive = true :=
  ⟨0, far, 1, 0, 0, [], false, ({ run0 with islands := Vector.replicate 60 { isl0 with conf := some archConf } }), archConf, by decide⟩

theorem witness_HomesServe_2 : ∃ (p : SliceNo) (q : SliceNo) (src : Requester) (oid : BitVec 40) (plate : BitVec 24) (s : State) (base : Nat) (e : DirEnt),
    s.homeLive p = true ∧ s.ephLive = true ∧ s.isHalted (domainOf oid) = false ∧ s.eph.serves oid (spanOf plate.toNat) = .at q base e :=
  ⟨0, 0, far, 1, 0, (withEph { dir := [dir1] }), 256, dir1, by decide⟩

theorem witness_HomesServe_3 : ∃ (p : SliceNo) (q : SliceNo) (tid : BitVec 16) (h : HomeWord) (plate : PlateWords) (s : State) (r : FabReq) (id : Nat) (t : EStream) (w : Want),
    s.awake (psIsl p) = true ∧ s.findReq (unitPs p) tid = some r ∧ r.why = .read q id ∧ (s.slice q).eye.wantOf id = some (t, w) :=
  ⟨0, 0, 1, ({ valid := false, slice := 0, block := 0 }), ({ body := [] }),
      ({ withEye { streams := [stream1 .hist] } with reqs := [fabReq 0 1 (.read 0 4)] }), (fabReq 0 1 (.read 0 4)), 4, (stream1 .hist),
      (want1 .hist), by decide⟩

theorem witness_HomeOfASpan_0 : ∃ (m : PMap) (oid : BitVec 40) (span : Nat) (o : MapObj),
    m.obj oid = some o ∧ 0 < o.icount ∧ (ObjRec.ofWords o.obj).oid = oid :=
  ⟨({ objs := [map1] }), 1, 0, map1, by decide⟩

theorem witness_ManagersAnswer_0 : ∃ (src : Requester) (oid : BitVec 40) (span : BitVec 18) (s : State),
    s.ephLive = true ∧ s.managerRefuses oid = none :=
  ⟨far, 1, 0, run0, by decide⟩

theorem witness_ManagersAnswer_1 : ∃ (src : Requester) (rec : RecWords) (s : State) (o : MapObj),
    s.ephLive = true ∧ s.managerRefuses (ObjRec.ofWords rec).oid = none ∧ s.ephConf.members.contains src.block = true ∧
      s.ephConf.members.contains (s.creatorOf src.block rec) = true ∧ s.eph.map.obj (ObjRec.ofWords rec).oid = some o :=
  ⟨near, rec1, (withEph { map := { objs := [map1] } }), map1, by decide⟩

theorem witness_ManagersAnswer_2 : ∃ (src : Requester) (rec : RecWords) (s : State),
    s.ephLive = true ∧ s.managerRefuses (ObjRec.ofWords rec).oid = none ∧ s.ephConf.members.contains src.block = true ∧
      s.ephConf.members.contains (s.creatorOf src.block rec) = true ∧ s.eph.map.obj (ObjRec.ofWords rec).oid = none ∧
      s.eph.map.size < 65536 :=
  ⟨near, rec1, run0, by decide⟩

theorem witness_ManagersAnswer_3 : ∃ (src : Requester) (oid : BitVec 40) (op : BitVec 8) (ws : List W64) (s : State) (st : _),
    s.ephLive = true ∧ bits 40 (ws.getD 0 0) 24 = oid ∧ s.managerRefuses oid = some st :=
  ⟨far, 0xF000000001, 1, [0xF000000001000000], run0, fsUnreachable, by decide⟩

theorem witness_ManagersAnswer_4 : ∃ (src : Requester) (oid : BitVec 40) (op : BitVec 8) (ws : List W64) (s : State),
    s.ephLive = true ∧ bits 40 (ws.getD 0 0) 24 = oid ∧ s.managerRefuses oid = none ∧ s.eph.map.obj oid = none :=
  ⟨far, 1, 1, [0x1000000], run0, by decide⟩

theorem witness_ManagersAnswer_5 : ∃ (src : Requester) (oid : BitVec 40) (op : BitVec 8) (ws : List W64) (s : State) (o : _),
    s.ephLive = true ∧ bits 40 (ws.getD 0 0) 24 = oid ∧ s.managerRefuses oid = none ∧ s.eph.map.obj oid = some o ∧ op = 6 ∧
      fld (ws.getD 1 0) 63 40 = 1 :=
  ⟨far, 1, 6, ([0x1000000, 0x10000000000]), (withEph { map := { objs := [map1] } }), map1, by decide⟩

theorem witness_AnswersAreTaken_0 : ∃ (tid : BitVec 16) (ob : List W64) (ov : List W64) (s : State) (r : FabReq) (a : HomeAt),
    s.ephLive = true ∧ s.findReq unitEph tid = some r ∧ r.why = .lookup ∧
    let u := (s.dropReq r.unit r.tid).onEph fun h => h.fillCache (mapObjOf ob) (mapOvrOf ov)
    u.eph.cache.home r.oid r.idx.toNat = some a ∧
      (a.block ≠ s.block ∨ (s.eph.serves r.oid r.idx.toNat).slice?.isSome = true ∨ (s.eph.movedTo r.oid r.idx.toNat).isSome = true) :=
  ⟨1, mapWords, [], (withReq (fabReq unitEph 1 .lookup)), (fabReq unitEph 1 .lookup), ({ block := 9, slice := 0 }), by decide⟩

theorem witness_AnswersAreTaken_1 : ∃ (tid : BitVec 16) (w : RecWords) (s : State) (r : FabReq) (n : Nat),
    s.ephLive = true ∧ s.findReq unitEph tid = some r ∧ r.why = .object n :=
  ⟨1, rec1, (withReq (fabReq unitEph 1 (.object 1))), (fabReq unitEph 1 (.object 1)), 1, by decide⟩

theorem witness_AnswersAreTaken_2 : ∃ (tid : BitVec 16) (n : BitVec 24) (s : State) (r : FabReq) (run : Nat),
    s.awake cmdIsl = true ∧ s.findReq unitCmd tid = some r ∧ r.why = .cmdx run :=
  ⟨1, 0, (withReq (fabReq unitCmd 1 (.cmdx 1))), (fabReq unitCmd 1 (.cmdx 1)), 1, by decide⟩

theorem witness_AnswersAreTaken_3 : ∃ (unit : BitVec 6) (tid : BitVec 16) (st : BitVec 4) (h : HomeWord) (n : BitVec 24) (s : State) (r : FabReq) (k : IslandNo),
    unitIsl unit = some k ∧ s.awake k = true ∧ s.findReq unit tid = some r ∧ st ≠ fsNotHome :=
  ⟨unitEph, 1, fsUnreachable, noHome, 0, (withReq (fabReq unitEph 1 .join)), (fabReq unitEph 1 .join), ephIsl, by decide⟩

theorem witness_AnswersAreTaken_4 : ∃ (unit : BitVec 6) (tid : BitVec 16) (s : State) (k : IslandNo) (st : BitVec 4) (h : HomeWord) (n : BitVec 24),
    unitIsl unit = some k ∧ s.awake k = true ∧ s.findReq unit tid = none :=
  ⟨unitCmd, 1, run0, cmdIsl, 0, noHome, 0, by decide⟩

theorem witness_AnswersAreTaken_5 : ∃ (unit : BitVec 6) (tid : BitVec 16) (s : State) (k : IslandNo) (st : BitVec 4) (a : List W64) (b : List W64) (w : RecWords),
    unitIsl unit = some k ∧ s.awake k = true ∧ s.findReq unit tid = none ∧ unit = unitEph ∧ s.ephLive = true :=
  ⟨unitEph, 1, run0, ephIsl, 0, [], [], rec1, by decide⟩

theorem witness_AnswersAreTaken_6 : ∃ (unit : BitVec 6) (tid : BitVec 16) (s : State) (k : IslandNo) (st : BitVec 4) (n : BitVec 24),
    unitIsl unit = some k ∧ s.awake k = true ∧ s.findReq unit tid = none ∧ unit = unitCmd :=
  ⟨unitCmd, 1, run0, cmdIsl, 0, 0, by decide⟩

theorem witness_AnswersAreTaken_7 : ∃ (unit : BitVec 6) (tid : BitVec 16) (s : State) (k : IslandNo) (p : SliceNo) (st : BitVec 4) (h : HomeWord) (d : PlateWords),
    unitIsl unit = some k ∧ s.awake k = true ∧ s.findReq unit tid = none ∧ unit = unitPs p ∧ k = psIsl p :=
  ⟨0, 1, run0, 0, 0, 0, noHome, ({ body := [] }), by decide⟩

theorem witness_SpansMove_0 : ∃ (n : Nat) (s : State) (m : SpanMove) (e : MapObj) (home : HomeAt) (toHome : HomeAt),
    s.ephLive = true ∧ s.eph.movesWait[n]? = some m ∧ s.actsFor (domainOf m.oid) = true ∧ s.eph.mayMove n m = true ∧
      s.eph.map.obj m.oid = some e ∧ s.eph.map.home m.oid m.span.toNat = some home ∧
      s.moveTarget m (ObjRec.ofWords e.obj) home.block = some toHome ∧ toHome ≠ home ∧ (s.eph.map.slot m.oid m.span.toNat).pinned = false :=
  ⟨0, (withEph { map := { objs := [map1] }, movesWait := [move1] }), move1, map1, ({ block := 5, slice := 0 }),
      ({ block := 9, slice := 1 }), by decide⟩

theorem witness_SpansMove_1 : ∃ (src : Requester) (oid : BitVec 40) (span : BitVec 18) (nh : HomeWord) (no : BitVec 32) (s : State) (p : SliceNo) (base : Nat) (e : DirEnt),
    s.ephLive = true ∧ s.isHalted (domainOf oid) = false ∧ (∀ m ∈ s.eph.srcs, ¬ (m.oid = oid ∧ m.span = span)) ∧
      s.eph.serves oid span.toNat = .at p base e ∧ e.lost = false :=
  ⟨far, 1, 0, noHome, 0, (withEph { dir := [dir1] }), 0, 256, dir1, by decide, by decide, nofun, by decide, by decide⟩

theorem witness_SpansMove_2 : ∃ (p : SliceNo) (src : Requester) (oid : BitVec 40) (plate : BitVec 24) (seg : BitVec 4) (line : BitVec 16) (data : PlateWords) (s : State) (d : MvDst),
    s.homeLive p = true ∧ s.ephLive = true ∧ s.eph.dsts.find? (fun d => d.obj.oid == oid && d.span.toNat == spanOf plate.toNat) = some d :=
  ⟨0, far, 1, 0, 0, 0, ({ body := [] }), (withEph { dsts := [dst1] }), dst1, by decide⟩

theorem witness_SpansMove_3 : ∃ (src : Requester) (oid : BitVec 40) (span : BitVec 18) (nh : HomeWord) (s : State) (m : MvSrc),
    s.ephLive = true ∧
      s.eph.srcs.find? (fun m => m.oid == oid && m.span == span && m.toHome.block == src.block && !m.committed) = some m ∧
      m.record = true ∧ nh.valid = true :=
  ⟨far, 1, 0, newHome1, (withEph { srcs := [src1] }), src1, by decide⟩

theorem witness_SpansMove_4 : ∃ (src : Requester) (oid : BitVec 40) (span : BitVec 18) (nh : HomeWord) (s : State) (m : SpanMove),
    s.ephLive = true ∧ s.managerRefuses oid = none ∧ s.eph.moves.find? (fun m => m.oid == oid && m.span == span) = some m ∧
      m.st ≠ .applied ∧
    let h : HomeAt := { block := nh.block, slice := Fin.ofNat 32 nh.slice.toNat }
    let u := s.onEph fun e => { e with moves := mapIf (fun k => k.no == m.no) (fun _ => { m with st := .applied, toHome := h, commitBy := some src }) e.moves }
    s.eph.map.slotFits oid span.toNat h = true :=
  ⟨far, 1, 0, newHome1, (withEph { map := { objs := [map1] }, moves := [{ move1 with st := .asked }] }), ({ move1 with st := .asked }),
      by decide⟩

theorem witness_SpansMove_5 : ∃ (oid : BitVec 40) (span : BitVec 18) (nh : HomeWord) (s : State) (m : MvSrc),
    s.ephLive = true ∧ (∀ r ∈ s.reqs, r.ptype ≠ ptCommit) ∧ s.eph.srcs.find? (fun m => m.oid == oid && m.span == span) = some m ∧
      (∀ d ∈ s.eph.dsts, ¬ (d.obj.oid = oid ∧ d.span = span)) ∧ s.ackFits oid span.toNat nh = true :=
  ⟨1, 0, newHome1, (withEph { srcs := [src1] }), src1, by decide, nofun, by decide, nofun, by decide⟩

theorem witness_ManagersServe_0 : ∃ (src : Requester) (es : List (List W64)) (s : State),
    s.awake mirIsl = true :=
  ⟨far, [], run0, by decide⟩

theorem witness_ManagersServe_1 : ∃ (src : Requester) (oid : BitVec 40) (span : BitVec 18) (s : State) (p : SliceNo) (base : Nat) (e : DirEnt),
    s.ephLive = true ∧ s.isHalted (domainOf oid) = false ∧ s.eph.objectEnt oid = none ∧ s.eph.serves oid span.toNat = .at p base e ∧
      e.noFrame = false ∧ s.eph.leaveFits oid span.toNat 0 = true :=
  ⟨far, 1, 0, (withEph { dir := [dir1] }), 0, 256, dir1, by decide⟩

theorem witness_ManagersServe_2 : ∃ (src : Requester) (oid : BitVec 40) (span : BitVec 18) (b : Bool) (s : State) (p : SliceNo) (base : Nat) (e : DirEnt),
    s.ephLive = true ∧ s.isHalted (domainOf oid) = false ∧ s.eph.serves oid span.toNat = .at p base e :=
  ⟨far, 1, 0, true, (withEph { dir := [dir1] }), 0, 256, dir1, by decide⟩

theorem witness_ManagersServe_3 : ∃ (src : Requester) (oid : BitVec 40) (span : BitVec 18) (tier : BitVec 2) (s : State) (h : HomeAt),
    s.ephLive = true ∧ s.managerRefuses oid = none ∧ s.eph.map.home oid span.toNat = some h ∧ h.block = src.block :=
  ⟨far, 1, 0, 0, (withEph { map := { objs := [{ map1 with cblock := 9 }] } }), ({ block := 9, slice := 0 }), by decide⟩

theorem witness_ManagersServe_4 : ∃ (s : State),
    s.ephLive = true ∧ s.hasMirror = true ∧ 2 ^ 15 ≤ elapsed (s.now ephIsl) s.eph.mirrorAt ∧ s.mirrorsOut.filter (·.again) = [] :=
  ⟨(confState [{ type := 8, inst := 0, words := [0x0100500900000000] }]).onIsl 54 fun i => { i with cycle := 0x8000 }, by decide⟩

theorem witness_MembersReport_0 : ∃ (src : Requester) (role : BitVec 4) (ic : BitVec 8) (il : List Byte) (fx : BitVec 64) (s : State),
    s.ephLive = true :=
  ⟨far, 0, 1, [0], 0, run0, by decide⟩

theorem witness_MembersReport_1 : ∃ (src : Requester) (fx : List (BitVec 64)) (n : BitVec 64) (s : State),
    s.ephLive = true ∧ (s.eph.occ.length < 256 ∨ (∃ o ∈ s.eph.occ, o.block = src.block)) :=
  ⟨far, [], 0, run0, by decide⟩

theorem witness_MembersReport_2 : ∃ (s : State) (m : BitVec 12),
    s.ephLive = true ∧ s.eph.joinAck ≠ [] ∧ 2 ^ 20 ≤ elapsed (s.now ephIsl) s.eph.occAt ∧ s.managerOf s.ephConf.domain.toNat = some m :=
  ⟨({ late (2 ^ 20) with eph := { joinAck := [9], mgr := Vector.replicate 16 { valid := true, manager := 9 } } }), 5, by decide⟩

theorem witness_MembersReport_3 : ∃ (src : Requester) (b : Bool) (n : BitVec 8) (v : BitVec 32) (s : State),
    s.awake cmdIsl = true :=
  ⟨far, true, 0, 0, run0, by decide⟩

theorem witness_DetectorsCount_0 : ∃ (k : IslandNo) (e : DetEvent) (s : State),
    (s.isl k).live = true ∧ s.hasDet k e.code e.inst = true ∧ (s.isl k).detQueue.contains e = true :=
  ⟨0, ev1, (run0.onIsl 0 fun i => { i with detQueue := [ev1] }), by decide⟩

theorem witness_DetectorsCount_1 : ∃ (k : IslandNo) (code : BitVec 16) (inst : BitVec 16) (s : State),
    (s.isl k).live = true ∧ s.hasDet k code inst = true ∧
      2 ^ (detWT (s.conf k) code.toNat).1 ≤ elapsed (s.now k) ((s.isl k).det code inst).winStart :=
  ⟨0, 0x0101, 0, (late (2 ^ 30)), by decide⟩

theorem witness_SurveyRows_0 : ∃ (s : State) (t : State),
    s.running svyIsl = true ∧ s.ephLive = true ∧ s.svy.heals.findSome? s.healStep = some t :=
  ⟨healState, (healState.svy.heals.findSome? healState.healStep).getD run0, by decide, by decide, some_of _ _ (by decide)⟩

theorem witness_SurveyRows_1 : ∃ (s : State) (d : Dark),
    s.begins svyIsl = true ∧ s.ephLive = true ∧ s.svy.heals = [] ∧ s.nextDark = some d :=
  ⟨(withEph { dark := [{ oid := 1, plate := 0, slice := 0 }] }), ({ oid := 1, plate := 0, slice := 0 }), by decide⟩

theorem witness_SurveyRows_2 : ∃ (oid : BitVec 40) (plate : BitVec 24) (s : State) (h : Heal),
    (s.isl svyIsl).live = true ∧ s.ephLive = true ∧
      s.svy.heals.find? (fun h => h.oid == oid && h.plate == plate && (h.st == .healed || h.st == .failed)) = some h ∧ h.st = .healed ∧
      s.eph.park = [] :=
  ⟨1, 0, ({ run0 with svy := { heals := [{ oid := 1, plate := 0, slice := 0, st := .healed }] } }),
      ({ oid := 1, plate := 0, slice := 0, st := .healed }), by decide⟩

theorem witness_SurveyRows_3 : ∃ (s : State),
    s.begins svyIsl = true ∧ s.ephLive = true ∧ s.svy.patrolEn = true ∧
      max 1 s.svy.patrolInterval.toNat ≤ elapsed (s.now svyIsl) s.svy.patrolAt :=
  ⟨({ late 4096 with svy := { patrolEn := true } }), by decide⟩

theorem witness_SurveyRows_4 : ∃ (b : Bool) (s : State) (e : DirEnt),
    s.begins svyIsl = true ∧ s.ephLive = true ∧ s.awake mirIsl = true ∧ (s.isl svyIsl).armed = none ∧
      256 ≤ elapsed (s.now svyIsl) s.svy.auditAt ∧ s.eph.dir[s.svy.auditPos % max 1 s.eph.dir.length]? = some e :=
  ⟨false, ({ late 256 with eph := { dir := [dir1] } }), dir1, by decide⟩

theorem witness_SurveyRows_5 : ∃ (m : BitVec 16) (s : State),
    (s.isl ephIsl).live = true :=
  ⟨1, run0, by decide⟩

theorem witness_SurveyRows_6 : ∃ (s : State),
    (s.isl ephIsl).live = true :=
  ⟨run0, by decide⟩

theorem witness_SurveyRows_7 : ∃ (s : State) (p : SliceNo) (r : FreeRun) (rest : List (SliceNo × FreeRun)),
    s.awake ephIsl = true ∧ s.eph.overflow = (p, r) :: rest ∧ s.eph.runCount < 131072 :=
  ⟨(withEph { overflow := [(0, { first := 0, count := 1 })] }), 0, ({ first := 0, count := 1 }), [], by decide⟩

theorem witness_LogbookRows_0 : ∃ (k : IslandNo) (poisoned : Bool) (s : State) (r : Report) (rest : List Report),
    (s.isl k).live = true ∧ (∀ p ∈ (s.isl k).outbox, p.isReport = false) ∧ (s.isl k).reports = r :: rest :=
  ⟨59, true, (run0.onIsl 59 fun i => { i with reports := [report1] }), report1, [], by decide⟩

theorem witness_LogbookRows_1 : ∃ (s : State) (r : Report) (rest : List Report),
    s.awake logIsl = true ∧ s.log.arriving = r :: rest ∧
    let w : State := { s with log := { s.log with arriving := rest } }
    let u := w.noteTaken r
    let v := w.flushStaged.noteTaken r
    r.sev = sevFatal :=
  ⟨({ run0 with log := { arriving := [{ report1 with sev := sevFatal }] } }), ({ report1 with sev := sevFatal }), [], by decide⟩

theorem witness_LogbookRows_2 : ∃ (s : State) (r : Report) (rest : List Report),
    s.awake logIsl = true ∧ s.log.arriving = r :: rest ∧
    let w : State := { s with log := { s.log with arriving := rest } }
    let u := w.noteTaken r
    let v := w.flushStaged.noteTaken r
    r.sev ≠ sevFatal ∧ s.log.staged = none :=
  ⟨({ run0 with log := { arriving := [report1] } }), report1, [], by decide⟩

theorem witness_LogbookRows_3 : ∃ (s : State) (r : Report) (rest : List Report) (b : Report) (t : Ctr),
    s.awake logIsl = true ∧ s.log.arriving = r :: rest ∧
    let w : State := { s with log := { s.log with arriving := rest } }
    let u := w.noteTaken r
    let v := w.flushStaged.noteTaken r
    r.sev ≠ sevFatal ∧ s.log.staged = some (b, t) :=
  ⟨({ run0 with log := { arriving := [report1], staged := some (report1, 0) } }), report1, [], report1, 0, by decide⟩

theorem witness_LogbookRows_4 : ∃ (s : State) (r : Report) (t : Ctr),
    s.awake logIsl = true ∧ s.log.staged = some (r, t) ∧ 256 ≤ elapsed (s.now logIsl) t :=
  ⟨({ late 256 with log := { staged := some (report1, 0) } }), report1, 0, by decide⟩

theorem witness_LogbookRows_5 : ∃ (s : State),
    (s.isl logIsl).live = true :=
  ⟨run0, by decide⟩

theorem witness_InjectionAndSnapshots_0 : ∃ (tag : BitVec 4) (n : BitVec 16) (sp : BitVec 32) (s : State),
    s.chanUp = true ∧ s.answers injIsl = true ∧ s.armRefused s.inj.target = false ∧ (s.isl injIsl).state ≠ .shut :=
  ⟨0, 1, 0, ({ confState [{ type := 11, inst := 0, words := [0x8000000000000000] }] with inj := { target := armTarget } }), by decide⟩

theorem witness_InjectionAndSnapshots_1 : ∃ (tag : BitVec 4) (n : BitVec 16) (sp : BitVec 32) (s : State),
    s.chanUp = true ∧ s.answers injIsl = true ∧ s.armRefused s.inj.target = false ∧ (s.isl injIsl).state = .shut :=
  ⟨0, 1, 0, shutInj, by decide⟩

theorem witness_InjectionAndSnapshots_2 : ∃ (tag : BitVec 4) (n : BitVec 16) (sp : BitVec 32) (s : State),
    s.chanUp = true ∧ s.answers injIsl = true ∧ s.armRefused s.inj.target = true :=
  ⟨0, 1, 0, run0, by decide⟩

theorem witness_InjectionAndSnapshots_3 : ∃ (s : State) (k : IslandNo),
    (s.isl injIsl).live = true ∧ s.inj.armedAt = some k :=
  ⟨({ run0 with inj := { armedAt := some 0 } }), 0, by decide⟩

theorem witness_InjectionAndSnapshots_4 : ∃ (k : IslandNo) (s : State),
    (s.isl k).live = true :=
  ⟨0, run0, by decide⟩

theorem witness_InjectionAndSnapshots_5 : ∃ (b : Bool) (s : State),
    s.chanUp = true :=
  ⟨true, run0, by decide⟩

/-! Witnesses written by hand: a command of each kind that a whole-block statement names, with what it does. -/

/-- A stream whose last word is the END record: the records are those of a block without links. -/
def ssRecs : List Rec := conf0.recs ++ [{ type := 4, inst := 0, words := [] }, { type := 9, inst := 0, words := [] },
  { type := 12, inst := 0, words := [] }]
def ssEnd : W64 := 0xFFFF000000000000
def ssGot : SsRecv := { count := 4, hdr := [0, 40, 0, 0], recs := ssRecs, prev := some (12, 0) }
def ssCrc : Nat := (leBytes 8 ssEnd.toNat).foldl crc32cByte ssGot.crc
def ssBefore : SsRecv := { ssGot with hdr := [0, 40, BitVec.ofNat 64 (ssCrc ^^^ 0xFFFFFFFF), 0] }
def ssAfter : SsRecv := { ssBefore with count := 5, crc := ssCrc, prev := some (0xFFFF, 0), ended := true }
def ssConf : Conf := { streamId := 0, recs := ssRecs }

theorem ss_pool : ∀ x : Fin 4, ssConf.pool x.val = [{ first := 0, count := 0x3FFF, step := 1, reserve := 0, cap := 0x1000 },
    { first := 0x3FFF, count := 0x3FFF, step := 1, reserve := 0, cap := 0x1000 }] := by decide

theorem ss_share (x : Fin 4) (q : Nat) (h : q < 0x2124) : ssConf.queueShare x.val q = (0, 0x1000) := by
  have hc : PoolEntry.covers { first := 0, count := 0x3FFF, step := 1, reserve := 0, cap := 0x1000 } q = true := by
    simp [PoolEntry.covers]; omega
  simp [Conf.queueShare, ss_pool, hc]

theorem min_cap_le (c : Conf) (x q : Nat) : minCap c x q ≤ 129 := by
  unfold minCap
  dsimp only
  split_ifs <;> omega

theorem ss_cross : crossErr ssConf = none := by
  rw [crossErr, Option.map_eq_none_iff, List.find?_eq_none]
  intro t ht
  rcases List.mem_append.mp ht with h | h
  · rcases List.mem_append.mp h with h | h
    · simp only [List.mem_cons, List.not_mem_nil, or_false] at h
      rcases h with rfl | rfl | rfl | rfl <;> decide
    · obtain ⟨x, hx, rfl⟩ := List.mem_map.mp h
      have hall : ((List.range 0x2124).all fun q =>
          !queueExists (Fin.ofNat 4 x) q || minCap ssConf x q ≤ (ssConf.queueShare x q).2) = true := by
        refine List.all_eq_true.mpr fun q hq => ?_
        have hs := ss_share ⟨x, List.mem_range.mp hx⟩ q (List.mem_range.mp hq)
        have hm := min_cap_le ssConf x q
        simp only [hs]
        simp; right; omega
      simp only [hall]
      decide
  · simp only [List.mem_cons, List.not_mem_nil, or_false] at h
    rcases h with rfl | rfl <;> decide

theorem ss_id : (bits 32 (ssAfter.hdr.getD 2 0) 32 : BitVec 32) = 0 := by decide +kernel
theorem ss_take : ssBefore.take ssEnd true false = .inl ssAfter := by decide +kernel
theorem ss_crc : (ssAfter.crc ^^^ 0xFFFFFFFF) = fld (ssAfter.hdr.getD 2 0) 31 0 := by decide +kernel
def ssState : State := { State.reset with
  por := false, islands := Vector.replicate 60 { isl0 with state := .config, conf := none }
  cfg := { recv := some ssBefore, selfTest := some true } }
theorem ss_conf : crossErr { streamId := bits 32 (ssAfter.hdr.getD 2 0) 32, recs := ssAfter.recs } = none := by
  rw [ss_id]
  exact ss_cross

theorem witness_StreamsEnd_0 : ∃ (w : W64) (s : State) (r r' : SsRecv), (s.isl cfgIsl).live = true ∧ s.cfg.selfTest = some true ∧
    s.cfg.resync = false ∧ s.cfg.recv = some r ∧ (s.isl cfgIsl).state = .config ∧ r.take w true false = .inl r' ∧ 4 ≤ r'.count ∧
    8 * r'.count = fld (r'.hdr.getD 1 0) 31 0 ∧ fld (r'.hdr.getD 0 0) 15 12 = 0 ∧ r'.ended = true ∧
    (r'.crc ^^^ 0xFFFFFFFF) = fld (r'.hdr.getD 2 0) 31 0 ∧
    crossErr { streamId := bits 32 (r'.hdr.getD 2 0) 32, recs := r'.recs } = none ∧ s.idsMatch (bits 32 (r'.hdr.getD 2 0) 32) = true :=
  ⟨ssEnd, ssState, ssBefore, ssAfter, by decide, rfl, rfl, rfl, by decide, ss_take, by decide, by decide, by decide, by decide, ss_crc,
    ss_conf, by decide +kernel⟩

/-- Island 59 is released: a state in which the invariant holds, one step on, and its count has risen. -/
theorem witness_StepKeepsInv : ∃ s t : State, s.Inv ∧ step s = .next t ∧ (t.isl 59).resets = 1 :=
  ⟨{ released with pending := [.islandResetRelease 59] }, nextOf State.reset (exec (.islandResetRelease 59) released),
    ⟨by decide, by decide, by decide, by decide⟩, rfl, by decide⟩

theorem witness_ResetCountOnlyByReleaseOrPower : ∃ (c : Instr) (s t : State) (k : IslandNo),
    exec c s = .next t ∧ (t.isl k).resets ≠ (s.isl k).resets :=
  ⟨.islandResetRelease 59, released, nextOf State.reset (exec (.islandResetRelease 59) released), 59, rfl, by decide⟩

theorem witness_ConfigurationOnlyByStreamOrReset : ∃ (c : Instr) (s t : State), exec c s = .next t ∧ t.cfg.store ≠ s.cfg.store :=
  ⟨.islandResetAssert 52, run0, nextOf State.reset (exec (.islandResetAssert 52) run0), rfl, by decide⟩

theorem witness_KeysOnlyByCommitStreamOrReset : ∃ (c : Instr) (s t : State), exec c s = .next t ∧ t.cfg.keys ≠ s.cfg.keys :=
  ⟨.keyCommit 0, { run0 with cfg := { run0.cfg with store := some keyConf } },
    nextOf State.reset (exec (.keyCommit 0) { run0 with cfg := { run0.cfg with store := some keyConf } }), rfl, by decide⟩

theorem witness_EntryStoreOnlyByRegisterWriteOrReset : ∃ (c : Instr) (s t : State), exec c s = .next t ∧ t.cmd.store ≠ s.cmd.store :=
  ⟨.islandResetAssert 53, { run0 with cmd := { store := [(8, 1)] } },
    nextOf State.reset (exec (.islandResetAssert 53) { run0 with cmd := { store := [(8, 1)] } }), rfl, by decide⟩

theorem witness_CyclesMoveOnlyInIdleTime : ∃ (c : Instr) (s t : State) (k : IslandNo),
    exec c s = .next t ∧ (t.isl k).cycle ≠ (s.isl k).cycle :=
  ⟨.islandResetAssert 59, late 7, nextOf State.reset (exec (.islandResetAssert 59) (late 7)), 59, rfl, by decide⟩

theorem witness_CommandsLeaveTheQueue : ∃ (c : Instr) (s t : State), exec c s = .next t ∧ t.pending = [.haltSet 0] :=
  ⟨.islandResetAssert 59, { run0 with pending := [.haltSet 0] },
    nextOf State.reset (exec (.islandResetAssert 59) { run0 with pending := [.haltSet 0] }), rfl, by decide⟩

theorem witness_ResetsAndClocksOnlyByTheirRows : ∃ (c : Instr) (s t : State) (k : IslandNo),
    exec c s = .next t ∧ (t.isl k).inReset ≠ (s.isl k).inReset :=
  ⟨.islandResetRelease 59, released, nextOf State.reset (exec (.islandResetRelease 59) released), 59, rfl, by decide⟩

/-! Witnesses for the cases within a clause. -/

/-- A block with an object of each kind, a memory key and a host window, with an entry at the front of queue 3. -/
def recOf4 (oid code rate : Nat) : RecWords := { w0 := BitVec.ofNat 64 (oid * 2 ^ 24 + code * 2 ^ 20 + 2 * 2 ^ 16 + rate * 2 ^ 12), w1 := 0x0001000100000000 }
def objects4 : List DirEnt := [(1, 0, 0), (2, 0, 0), (3, 0, 0), (4, 1, 1), (5, 3, 0)].map fun e => { dir1 with obj := ObjRec.ofWords (recOf4 e.1 e.2.1 e.2.2) }
def memConf : Conf := { conf0 with recs := conf0.recs ++ [{ type := 12, inst := 0, words := [0x1000000000000000] }] }
def starts (e : Entry) : State := { run0.onCq 3 fun c => { c with en := true, accepted := [e] } with
  islands := Vector.replicate 60 { isl0 with conf := some memConf }, eph := { step7 := true, dir := objects4 }
  cmd := { (run0.onCq 3 fun c => { c with en := true, accepted := [e] }).cmd with wins := Vector.replicate 16 { en := true, base := 1, limit := 0x100 } } }
def op4 (op : Nat) : Entry :=
  let o (n : Nat) : W64 := BitVec.ofNat 64 (n * 2 ^ 24)
  let one : W64 := 0x10000000000
  let ws : List W64 := match op with
    | 0x01 => [o 1, o 2 ||| 0x100, o 3, 0x100, 0]
    | 0x02 => [o 1, one]
    | 0x03 => [o 3, one]
    | 0x04 => [o 1, one, o 4]
    | 0x05 | 0x07 => [o 1, one, o 2]
    | 0x06 | 0x08 | 0x0A | 0x0B | 0x14 => [o 1, one]
    | 0x09 => [o 1, one ||| 0x4000000000]
    | 0x0C => [o 1, one, o 3]
    | 0x0D => [o 3, one, 0x1000]
    | 0x0E => [o 1, one, 0x1000]
    | 0x12 => [0, o 5]
    | _ => []
  { idx := 0, words := BitVec.ofNat 64 (op * 2 ^ 56) :: ws }
theorem witness_every_opcode : ∀ op : Fin 21, (starts (op4 op)).entryOf 3 op = some (op4 op) ∧ (op4 op).isStage = false ∧
    (op4 op).isSecond = false ∧ (starts (op4 op)).askFor (op4 op) = [] ∧ (starts (op4 op)).startStatus (op4 op) = stOk := by decide +kernel
/-- A PLATE_MATMUL whose plate ranges lie outside its objects (R333 order 1). -/
theorem witness_refused_opcode : (starts { op4 1 with words := (op4 1).words.set 4 0 }).startStatus { op4 1 with words := (op4 1).words.set 4 0 } =
    stBadDescriptor := by decide +kernel
/-- The two entries of a STAGE pair. -/
def stageA : Entry := { op4 1 with words := [0x0100000000000000, 0x1000008, 0x2000100, 0, 0x100, 0] }
def stageB : Entry := { op4 1 with words := [0x0100000000000000, 0, 0x2000100, 0x3000000, 0x100, 0] }
def stagePair : State := (starts stageA).onCq 3 fun c => { c with accepted := [stageA, stageB] }
theorem witness_CommandsStart_1 : stagePair.entryOf 3 opMatmul = some stageA ∧ stageA.isStage = true ∧
    ((stagePair.cq 3).accepted.drop 1).head? = some stageB ∧ stagePair.askFor stageA = [] ∧ stageB.isSecond = true ∧
    stagePair.askFor stageB = [] ∧ stagePair.pairStatus stageA stageB = stOk := by decide +kernel
theorem witness_CommandsStart_2 : (starts stageB).entryOf 3 opMatmul = some stageB ∧ stageB.isStage = false ∧ stageB.isSecond = true ∧
    (starts stageB).askFor stageB = [] := by decide +kernel
theorem witness_entry_fits : ∃ ws : List W64, entryFits 0x123 ws = true ∧ entryFits 0x124 ws = false :=
  ⟨[0x0F01232000 * 0x1000000 + 0xAE, 0x0000000700000001, 0, 0, 0, 0, 0, 0], by decide +kernel⟩
theorem witness_marker : ∃ g l, linkUp.awake (lgIsl g) = true ∧ (linkUp.linkLaneEn g).getLsbD l = true ∧ markerOk 0 = false :=
  ⟨0, 0, by decide⟩
theorem witness_home_keyed : ∃ s : State, (s.slice 0).keys[(0 : Fin 16)].isSome = true ∧ s.keyLoaded 0 0 = true ∧ s.parkFull = false :=
  ⟨{ (withEph { dir := [dir1] }) with slices := Vector.replicate 32 { keys := Vector.replicate 16 (some []) } }, by decide⟩
theorem witness_home_moved : ∃ (m : PMap) (v : MapOvr), m.obj 1 = some map1 ∧ m.ovr 1 0 = some v ∧ (v.slots[(0 : Fin 8)]).valid = true :=
  ⟨{ objs := [map1], ovrs := [{ oid := 1, group := 0, slots := Vector.replicate 8 { valid := true, slice := 3, block := 9 } }] },
    { oid := 1, group := 0, slots := Vector.replicate 8 { valid := true, slice := 3, block := 9 } }, by decide⟩
theorem witness_record_issued : ∃ a : NwAcc, (hostUp a).cmd.mayIssue { a with why := .record 1, wr := true, queue := none } = true :=
  ⟨{ fetchAcc with queue := none }, by decide⟩
theorem witness_audit_differs : ∃ (s : State) (e : DirEnt), s.eph.dir = [e] ∧ s.eph.mirDir.contains e = true :=
  ⟨{ late 256 with eph := { dir := [dir1], mirDir := [dir1] } }, dir1, by decide⟩
theorem witness_report_folds : report1.foldsWith report1 = true ∧ report1.foldsWith { report1 with code := 0x0999 } = false := by decide
theorem witness_guard_untouched : ∃ s : State, (s.slice 0).home.untouched 0 = true ∧ s.portLive 0 = true := ⟨portUp, by decide⟩
theorem witness_detector_lasting : ∃ (s : State) (e : DetEvent), (s.isl 0).live = true ∧ s.hasDet 0 e.code e.inst = true ∧
    let old := ((s.isl 0).det e.code e.inst).roll (detWT (s.conf 0) e.code.toNat).1 (s.isl 0).cycle
    (old.count1 (detWT (s.conf 0) e.code.toNat).2).lasting = true ∧ old.lasting = false :=
  ⟨run0.onIsl 0 fun i => { i with dets := [{ code := 0x0102, inst := 0, count := 63 }] }, { ev1 with code := 0x0102 }, by decide⟩
theorem witness_slot_live : ∃ s : State, (s.slice 0).slots[(0 : Fin 64)].st = .live ∧ (s.slice 0).slots[(0 : Fin 64)].draining = false ∧
    (s.slice 0).slots[(1 : Fin 64)].st = .free :=
  ⟨run0.onSlice 0 fun x => { x with slots := x.slots.set 0 { st := .live, gen := 1 } }, by decide⟩
theorem witness_poisoned_word : (({ withRun { aRun with entry := matEntry 0x0700000000000000 } with
    slices := Vector.replicate 32 { store := { queue := [{ storeIn 1 none with run := some 1 }] } } } : State).poisonWord 0
      (storeIn 1 none).obj.oid (storeIn 1 none).plate).cmd.runs.map (·.sram) = [true] := by decide +kernel
theorem witness_parity_failures : lengthTaken { words := [0] } peerPkt.lengthWord = some 1 ∧
    lengthTaken { lenBytes := 0x1, lenXor := 0xFF } peerPkt.lengthWord = some 1 ∧ lengthTaken { lenBytes := 0x21 } peerPkt.lengthWord = none ∧
    lengthTaken { lenXor := 2 } peerPkt.lengthWord = none := by decide
/-- An injection armed at a cell makes the word read from it fail, once (R494, R495). -/
theorem test_pool_injection : (((run0.onIsl (xqIsl 0) fun i => { i with armed := some { code := 0x0301, inst := 5, remaining := 1, spacing := 0 } }).poolCheck
    0 {} 0 { peerPkt with cells := [5] }).2.isl (xqIsl 0)).detQueue.map (·.injected) = [true] := by decide +kernel
/-- A lane of the set that loses marker lock retrains its group (R408). -/
theorem test_lane_event_retrains : (((linkUp.onGroup 0 fun q => { q with st := .up, set := 0xFFF }).eventAct (lgIsl 0)
    { code := 0x0201, inst := 3 } true false).group 0).st = .training := by decide +kernel

/-- The other two ways in which a register request crosses, with the hypotheses of `witness_RegisterRequestsAreAnswered_0`. -/
theorem witness_crossings : ∃ (k : IslandNo) (addr : BitVec 21) (v w : List (IslandNo × Crossing)), run0.chanUp = true ∧
    run0.cfg.selfTest ≠ some false ∧ addrIsland addr = some k ∧ (run0.isl k).live = true ∧ crossingAt v k = .clean ∧ crossingAt w k = .answer :=
  ⟨53, 0x1A8000, [], [(53, .answer)], by decide⟩

/-- A poisoned request is not performed, and is answered POISONED (R81). -/
theorem test_poisoned_request :
    (match exec (.registerWrite 3 { wr := true, addr := BitVec.ofNat 21 (0x8000 * 53 + 0xC00), data := 7 } false [(53, .request)]) run0 with
      | .next t => ((t.cmd.sig)[(0 : Fin 256)], t.cp.answers[3].map (·.code)) | _ => (9, none)) = (0, some ansPoisoned) := by decide

/-- A plate that the encoder can take: its slot is LIVE in the slice, and its home is here. -/
def encIn : StoreIn := storeIn 1 none
def encState : State := { (withStore encIn).onSlice 0 (fun x => { x with slots := x.slots.set 0 { st := .live } }) with
  eph := { dir := [{ dir1 with obj := objOf 1 }] } }
theorem witness_PlatesAreStored_0 : ∃ (p : SliceNo) (s : State) (e : StoreIn) (q : StoreP) (w : PWrite) (u : State), s.running (psIsl p) = true ∧
    (s.slice p).dataShut = false ∧ ((s.importDrain p).slice p).storeNext = some (e, q) ∧ e.obj.code = 1 ∧
    (s.slice p).store.encoding < 8 ∧ s.storeLive e.run = true ∧ s.mustRegister e.run = false ∧
    ((s.slice p).slots[e.slot]).st = .live ∧ ((s.slice p).slots[e.slot]).draining = false ∧ e.run = none ∧
    (((s.importDrain p).onSlice p fun x => { x with store := q }).hostReadsGo).homeWrite p w = (true, u) ∧ w.obj = e.obj ∧ w.plate = e.plate :=
  ⟨0, encState, encIn, {}, { obj := encIn.obj, plate := 0, body := [] }, _, by decide, by decide, rfl, by decide, by decide, by decide,
    by decide, by decide, by decide, rfl, Prod.ext (by decide +kernel) rfl, rfl, rfl⟩

/-! A fabric packet for a unit of this block, and one for another block, that go round the ring (RingTakesTheOneRoute). -/

def unitPkt : Pkt := {
  words := (fabWords ptRdReq run0.block 5 (transWord 1 8 unitEph 0 0) [0]).map fun w => { w := w }
  length := 3, cells := [0], visible := true, cargo := .fabric 0 }
def unitPktState : State := run0.onQuad 0 fun x => x.setQueue 0x2060 { packets := [unitPkt] }
theorem witness_RingTakesTheOneRoute_unit : (pktHead unitPkt.words).dest = unitPktState.block ∧
    (classOf (pktHead unitPkt.words).ptype).isSome = true ∧
    unitPktState.takerOf (pktHead unitPkt.words).dunit 0 = some 8 ∧ (1 : QuadNo) = quadOf 8 ∧ 0 = pktChannel 0x2060 unitPkt ∧
    ReadsClean 0 {} unitPkt unitPktState ∧ unitPktState.begins (xqIsl 0) = true ∧ unitPktState.awake (xqIsl 1) = true ∧
    queueOwner 0 0x2060 = xqIsl 0 ∧ ((unitPktState.quad 1).queue (ringQueue 0 1 0)).openPkt = none ∧
    (unitPktState.quad 1).admits (unitPktState.poolOf 1) (ringQueue 0 1 0) unitPkt.cells.length = true := by decide
def awayPkt : Pkt := { unitPkt with
  words := (fabWords ptRdReq 9 run0.block (transWord 1 8 unitEph 0 0) [0]).map fun w => { w := w } }
def awayPktState : State := (confState [{ type := 6, inst := 0, words := [0, 0, 0, 0, 0x9000000000000000] }]).onQuad 0 fun x =>
  x.setQueue 0x2060 { packets := [awayPkt] }
theorem witness_RingTakesTheOneRoute_block : (pktHead awayPkt.words).dest ≠ awayPktState.block ∧
    rtValid (awayPktState.routeOf 0 (pktHead awayPkt.words).dest) = true ∧ (1 : QuadNo) = peerQuad (pktHead awayPkt.words).dest ∧
    0 = 2 * 0 + rtDir (awayPktState.routeOf 0 (pktHead awayPkt.words).dest) ∧ ReadsClean 0 {} awayPkt awayPktState ∧
    awayPktState.begins (xqIsl 0) = true ∧ awayPktState.awake (xqIsl 1) = true ∧
    (awayPktState.quad 1).admits (awayPktState.poolOf 1) (ringQueue 0 1 0) awayPkt.cells.length = true := by decide

/-! The parts of a clause of DoorbellsMoveTheTail: a TAIL that moves, an old one, and those of a re-arming doorbell. -/

theorem witness_DoorbellsMoveTheTail_tails : ((0#17).toNat + 131072 - (0#17).toNat) % 65536 ≤ 7 ∧
    3 < ((7#17).toNat + 131072 - (0#17).toNat) % 65536 ∧ fld 0xFC000C0000000000 57 42 = ((0#17).toNat + 3) % 65536 ∧
    bitAt 0xFC001C0400000000 33 = false ∧ bitAt 0xFC001C0600000000 33 = true ∧ bits 8 0xFC001C0600000000 34 = 0 + 1 ∧
    fld 0xFC001C0600000000 32 0 = 0 := by decide

/-! The parts of a clause of ResponsesAreTaken: a RETRY after the last retry, and one before. -/

theorem witness_ResponsesAreTaken_retries : 4 ≤ ({ readTag with req := { guardRead with retries := 4 } } : TagUse).req.retries ∧
    readTag.req.retries < 4 ∧ 5 < (6 : BitVec 4).toNat := by decide

end Sys2Proof.Tests
end

section
/-! PROOFS. A packet on the ring (R16): the leg that QUADRANT_FORWARD chooses, and what the move leaves in the two pools it touches. -/

namespace Sys2Proof.Machine

/-- The leg of a packet bound for another quadrant: one segment of the ring on, into the ring queue of its channel. -/
def ringLeg (x d : QuadNo) (ch : Nat) : Leg := .queue (nextHop x d) (ringQueue x (nextHop x d) ch)

/-- R16's one route: the direct segment between adjacent quadrants, and through the next-higher quadrant between opposite ones. -/
theorem nextHop_eq : ∀ x d : QuadNo, nextHop x d = if d = x + 1 ∨ d = x + 3 then d else x + 1 := by decide

theorem nextHop_ne : ∀ x d : QuadNo, nextHop x d ≠ x := by decide

theorem channelOf_lt (q : Nat) : channelOf q < 8 := by unfold channelOf; split_ifs <;> omega

/-- The ring queues of the eight channels stand at 0x2060 to 0x206F (R24). -/
theorem ringQueue_range (x y : QuadNo) {ch : Nat} (h : ch < 8) : 0x2060 ≤ ringQueue x y ch ∧ ringQueue x y ch < 0x2070 := by
  unfold ringQueue; split <;> omega

theorem legTo_away {x : QuadNo} {k : IslandNo} (ch : Nat) (h : quadOf k ≠ x) : legTo x k ch = ringLeg x (quadOf k) ch := if_neg h

/-- Traffic of this block's own goes towards the island it is bound for (R534). -/
theorem leg_own {s : State} {p : Pkt} (x : QuadNo) (ch : Nat) (other : IslandNo) (h : ∀ c, p.cargo ≠ .fabric c) :
    s.leg x p ch other = legTo x (p.cargo.dest other) ch := by
  unfold State.leg
  split
  · rename_i c hc
    exact absurd hc (h c)
  · rfl

/-- A fabric packet for a unit of this block goes towards the island that takes it (R433). -/
theorem leg_unit {s : State} {p : Pkt} {c : Nat} {k : IslandNo} (x : QuadNo) (ch : Nat) (other : IslandNo) (hc : p.cargo = .fabric c)
    (hb : (pktHead p.words).dest = s.block)
    (ht : (pktHead p.words).ptype = ptScale ∨ (classOf (pktHead p.words).ptype).isSome = true)
    (hk : s.takerOf (pktHead p.words).dunit c = some k) : s.leg x p ch other = legTo x k ch := by
  have known : ((pktHead p.words).ptype != ptScale && (classOf (pktHead p.words).ptype).isNone) = false := by
    rcases ht with e | e
    · simp [e]
    · simp [Option.isNone_eq_false_iff.2 e]
  simp only [State.leg, hc, if_pos hb, known, hk, Bool.false_eq_true, if_false]

/-- A fabric packet for another block goes towards the quadrant of that block's per-peer queues (R432). -/
theorem leg_block {s : State} {p : Pkt} {c : Nat} {x : QuadNo} (ch : Nat) (other : IslandNo) (hc : p.cargo = .fabric c)
    (hb : (pktHead p.words).dest ≠ s.block) (hv : rtValid (s.routeOf x (pktHead p.words).dest) = true)
    (hx : peerQuad (pktHead p.words).dest ≠ x) :
    s.leg x p ch other = ringLeg x (peerQuad (pktHead p.words).dest) (2 * c + rtDir (s.routeOf x (pktHead p.words).dest)) := by
  simp only [State.leg, hc, if_neg hb, hv, if_neg hx, Bool.not_true, Bool.false_eq_true, if_false, ringLeg]

theorem pktChannel_own {q : Nat} {p : Pkt} (h : ∀ c, p.cargo ≠ .fabric c) : pktChannel q p = channelOf q := by
  unfold pktChannel
  split
  · rename_i c hc
    exact absurd hc (h c)
  · rfl

/-- A packet that goes on into a ring queue is written there, and no counter moves: none of R433 counts on the ring. -/
theorem goOn_ring (s : State) (x y : QuadNo) (p : Pkt) {q : Nat} (h : 0x2060 ≤ q ∧ q < 0x2070) :
    s.goOn x p (.queue y q) = s.onQuad y fun d => d.enqueue q { p with words := p.carried, poisonIn := p.poisoned } := by
  have notPeer : ¬ q < 0x2000 := by omega
  have ring : (decide (0x2060 ≤ q) && decide (q < 0x2070)) = true := by simpa using h
  simp only [State.goOn, if_neg notPeer, if_pos ring]
  split <;> rfl

/-- A packet written whole stands at the back of its queue, as it was written, not yet visible. -/
theorem enqueue_packets (d : Quad) (q : Nat) (p : Pkt) : ((d.enqueue q p).queue q).packets = (d.queue q).packets ++
    [{ p with length := BitVec.ofNat 16 p.words.length
              cells := (d.pick (cellsFor p.words.length)).take (cellsFor p.words.length), visible := false }] := by
  simp [Quad.enqueue, CQueue.push]

/-- QUADRANT_FORWARD of a packet that is read without a failure: it leaves its queue and goes on over its leg (R33, R432). -/
theorem quadrantForward_goesOn {s : State} {x : QuadNo} {q : BitVec 16} {other : IslandNo} {o : ParityObs} {p : Pkt} {r : List Pkt} {l : Leg}
    (hl : s.leg x p (pktChannel q.toNat p) other = l) (hc : ReadsClean x o p s) (hp : ((s.quad x).queue q.toNat).packets = p :: r)
    (hm : s.mayLeg x l = true) (hq : 0x2000 ≤ q.toNat) (hg : q.toNat < 0x2020 ∨ 0x2060 ≤ q.toNat) (ho : queueOwner x q.toNat = xqIsl x)
    (hv : p.visible = true) (ha : p.abandoned = false) (hw : ((s.quad x).queue q.toNat).wedged = false)
    (hd : other.val < 48 ∨ 52 ≤ other.val) (hopen : s.legOpen l p = true) :
    exec (.quadrantForward x q other o) s =
      .next ((s.onQuad x fun d => (d.setQueue q.toNat ((d.queue q.toNat).pop o)).settle).goOn x p l) := by
  have hg' : (decide (0x2020 ≤ q.toNat) && decide (q.toNat < 0x2060)) = false := by
    rcases hg with h | h
    · simp [Nat.not_le.2 h]
    · simp [Nat.not_lt.2 h]
  change execQuadrantForward x q other o s = _
  unfold execQuadrantForward
  simp only [hp, hl, readPacket_clean hc hp, ha]
  exact guarded_pos (by simp [hm, hq, hg', ho, hv, hw, hd, hopen])

/-- The state once the front packet p of queue q of quadrant x has been read and written whole into queue rq of quadrant y. -/
def State.forwarded (s : State) (x : QuadNo) (q : Nat) (o : ParityObs) (y : QuadNo) (rq : Nat) (p : Pkt) : State :=
  (s.onQuad x fun d => (d.setQueue q ((d.queue q).pop o)).settle).onQuad y fun d =>
    d.enqueue rq { p with words := p.carried, poisonIn := p.poisoned }

section
variable (s : State) {x y : QuadNo} (q : Nat) (o : ParityObs) (rq : Nat) (p : Pkt)

/-- The packet has left its queue. -/
theorem forwarded_source (h : y ≠ x) : (((s.forwarded x q o y rq p).quad x).queue q).packets = ((s.quad x).queue q).packets.tail := by
  simp [State.forwarded, State.onQuad_quad _ y x, if_neg h, CQueue.pop_packets]

/-- It stands at the back of the other queue. -/
theorem forwarded_target (h : y ≠ x) : ∃ e : Pkt,
    (((s.forwarded x q o y rq p).quad y).queue rq).packets = ((s.quad y).queue rq).packets ++ [e] ∧
      e.words = p.carried ∧ e.tag = p.tag ∧ e.poisonIn = p.poisoned ∧ e.cargo = p.cargo := by
  simp only [State.forwarded, State.onQuad_quad_self, enqueue_packets, State.onQuad_quad _ x y, if_neg (Ne.symm h)]
  exact ⟨_, rfl, rfl, rfl, rfl, rfl⟩

/-- No other pool has changed. -/
theorem forwarded_quad_other {z : QuadNo} (hx : z ≠ x) (hy : z ≠ y) : (s.forwarded x q o y rq p).quad z = s.quad z := by
  simp only [State.forwarded, State.onQuad_quad, if_neg (Ne.symm hx), if_neg (Ne.symm hy)]

end

/-- A packet that goes round the ring: what the statement's three kinds of traffic come to, the leg of the one route (R16) on one of the
eight channels. -/
theorem leg_ring {s : State} {x d : QuadNo} {q : Nat} {ch : Nat} {other : IslandNo} {p : Pkt} (hd : d ≠ x)
    (h : ((∀ c, p.cargo ≠ .fabric c) ∧ d = quadOf (p.cargo.dest other) ∧ ch = channelOf q) ∨
      (∃ c k, p.cargo = .fabric c ∧ (pktHead p.words).dest = s.block ∧
        ((pktHead p.words).ptype = ptScale ∨ (classOf (pktHead p.words).ptype).isSome = true) ∧
        s.takerOf (pktHead p.words).dunit c = some k ∧ d = quadOf k ∧ ch = pktChannel q p ∧ ch < 8) ∨
      (∃ c, p.cargo = .fabric c ∧ (pktHead p.words).dest ≠ s.block ∧ rtValid (s.routeOf x (pktHead p.words).dest) = true ∧
        d = peerQuad (pktHead p.words).dest ∧ ch = 2 * c + rtDir (s.routeOf x (pktHead p.words).dest) ∧ ch < 8)) :
    s.leg x p (pktChannel q p) other = ringLeg x d ch ∧ ch < 8 := by
  rcases h with ⟨hc, rfl, rfl⟩ | ⟨c, k, hc, hb, ht, hk, rfl, rfl, hch⟩ | ⟨c, hc, hb, hv, rfl, rfl, hch⟩
  · rw [leg_own x _ other hc, pktChannel_own hc]
    exact ⟨legTo_away _ hd, channelOf_lt q⟩
  · exact ⟨(leg_unit x _ other hc hb ht hk).trans (legTo_away _ hd), hch⟩
  · exact ⟨leg_block _ other hc hb hv hd, hch⟩

/-- Settles O19: the leg is the ring's (`leg_ring`), its next quadrant is the one of R16 (`nextHop_eq`), and what the move leaves is
`State.forwarded`. -/
theorem ringTakesTheOneRoute : Obligations.RingTakesTheOneRoute := by
  unfold Obligations.RingTakesTheOneRoute
  intro x y d q ch other o s p r hbound hd hy hclean hp hbegins hawake hq hnotlink howner hvis hab hwedged hother hringWedged hringOpen hadmits
  rw [← nextHop_eq] at hy
  subst hy
  obtain ⟨hleg, hch⟩ := leg_ring hd hbound
  have hne := nextHop_ne x d
  have hopen : s.legOpen (ringLeg x d ch) p = true := by
    simp only [ringLeg, State.legOpen, hawake, hringWedged, hringOpen, hadmits]
    rfl
  have hexec := quadrantForward_goesOn hleg hclean hp hbegins hq hnotlink howner hvis hab hwedged hother hopen
  rw [ringLeg, goOn_ring _ _ _ _ (ringQueue_range _ _ hch)] at hexec
  refine ⟨s.forwarded x q.toNat o _ _ p, hexec, ?_, forwarded_target s _ o _ p hne, fun z hx hz => forwarded_quad_other s _ o _ p hx hz, rfl⟩
  rw [forwarded_source s _ o _ p hne, hp, List.tail_cons]

end Sys2Proof.Machine
end

section
/-! PROOFS. Register requests to an island in reset or without a clock (R22), and its bit of the next summary of islands (R103). -/

namespace Sys2Proof.Machine

/-! Addresses. -/

theorem addrIsland_some {addr : BitVec 21} {k : IslandNo} : addrIsland addr = some k ↔ regByte addr / 0x40000 = k.val := by
  unfold addrIsland
  split
  · simp [Fin.ext_iff]
  · rename_i h
    simp only [reduceCtorEq, false_iff]
    omega

/-- No island's region lies in the block-wide page. -/
theorem inBlockPage_of_addrIsland {addr : BitVec 21} {k : IslandNo} (h : addrIsland addr = some k) : inBlockPage addr = false := by
  rw [addrIsland_some] at h
  simp only [inBlockPage, beq_eq_false_iff_ne]
  omega

/-- A read-consuming register lies in the region of the island whose queue it reads. -/
theorem addrIsland_of_readsQueue {addr : BitVec 21} {i : IslandNo} {q : Nat} (h : readsQueue addr = some (i, q)) :
    addrIsland addr = some i := by
  rw [addrIsland_some]
  simp only [readsQueue] at h
  split at h
  · rename_i hb
    cases h
    rw [hb]; rfl
  · split at h
    · rename_i hb
      cases h
      simp only [Bool.and_eq_true, decide_eq_true_eq] at hb
      change _ = 53
      omega
    · cases h

/-! One island that does not answer. -/

section
variable {s : State} {addr : BitVec 21} {k : IslandNo}

/-- A read is not answered by the island, and its data are zero. -/
theorem regRead_dead (ha : addrIsland addr = some k) (hk : (s.isl k).live = false) : s.regRead addr = { code := ansNoResponse, rdata := 0 } := by
  simp [State.regRead, inBlockPage_of_addrIsland ha, ha, hk]

/-- A write is not answered by the island, and nothing changes. -/
theorem regWrite_dead (w : W64) (via : List (IslandNo × Crossing)) (ha : addrIsland addr = some k) (hk : (s.isl k).live = false) :
    s.regWrite addr w via = (ansNoResponse, s) := by
  simp [State.regWrite, inBlockPage_of_addrIsland ha, ha, hk]

theorem answers_dead (hk : (s.isl k).live = false) : s.answers k = false := by simp [State.answers, hk]

/-- A read-consuming register reads zero too, and takes nothing from its queue. -/
theorem readAnswer_dead (tag : BitVec 4) (via : List (IslandNo × Crossing)) (ha : addrIsland addr = some k) (hk : (s.isl k).live = false) :
    s.readAnswer tag addr via = s.answer tag ansNoResponse := by
  unfold State.readAnswer
  cases hq : readsQueue addr
  case none =>
    have failed : (ansNoResponse = ansOk) = False := by decide
    simp [regRead_dead ha hk, failed]
  case some e =>
    obtain ⟨i, q⟩ := e
    obtain rfl : i = k := by simpa [addrIsland_of_readsQueue hq] using ha
    simp [State.readQueueWord, answers_dead hk]

end

/-- The state with the request under a tag no longer outstanding. -/
def State.dropTag (s : State) (tag : BitVec 4) : State := { s with cp := { s.cp with out := s.cp.out.filter fun r => r.tag != tag } }

/-- A request that takes effect is answered NO_RESPONSE with zero data, and all it changes is the register channel's own state. -/
theorem perform_dead {s : State} {ask : RegAsk} {k : IslandNo} (tag : BitVec 4) (via : List (IslandNo × Crossing))
    (ha : addrIsland ask.addr = some k) (hk : (s.isl k).live = false) :
    s.perform tag ask via = (s.dropTag tag).answer tag ansNoResponse := by
  have hk' : ((s.dropTag tag).isl k).live = false := hk
  change (if ask.wr then ((s.dropTag tag).regWrite ask.addr ask.data via).2.answer tag ((s.dropTag tag).regWrite ask.addr ask.data via).1
    else (s.dropTag tag).readAnswer tag ask.addr via) = _
  rw [regWrite_dead _ _ ha hk', readAnswer_dead tag via ha hk', ite_self]

/-! The row. -/

/-- REGISTER_WRITE under a tag that is not outstanding: the request waits, or it takes effect. -/
theorem registerWrite_new {s : State} {tag : BitVec 4} (ask : RegAsk) (hold : Bool) (via : List (IslandNo × Crossing))
    (hup : s.chanUp = true) (ht : ∀ r ∈ s.cp.out, r.tag ≠ tag) :
    exec (.registerWrite tag ask hold via) s = .next (if hold || !s.cp.first tag ask then
      { s with cp := { s.cp with out := s.cp.out ++ [{ tag := tag, ask := ask, at_ := s.now cfgIsl }] } } else s.perform tag ask via) := by
  have hnone : (s.cp.out.find? fun r => r.tag == tag) = none := List.find?_eq_none.2 fun r hr => by simpa using ht r hr
  change execRegisterWrite tag ask hold via s = _
  unfold execRegisterWrite
  rw [hnone]
  exact guarded_pos hup

/-- A request to an island that does not answer changes nothing but the register channel's own state. -/
theorem registerWrite_dead {s : State} {tag : BitVec 4} {ask : RegAsk} {k : IslandNo} (hold : Bool) (via : List (IslandNo × Crossing))
    (ha : addrIsland ask.addr = some k) (hk : (s.isl k).live = false) (ht : ∀ r ∈ s.cp.out, r.tag ≠ tag) :
    ∃ t, exec (.registerWrite tag ask hold via) s = .next t ∧ t = { s with cp := t.cp } := by
  cases hup : s.chanUp
  case false => exact ⟨s, guarded_neg hup, rfl⟩
  case true =>
    refine ⟨_, registerWrite_new ask hold via hup ht, ?_⟩
    split
    · rfl
    · rw [perform_dead tag via ha hk]; rfl

/-- A request that takes effect at once is answered with zero data. -/
theorem registerWrite_dead_answer {s : State} {tag : BitVec 4} {ask : RegAsk} {k : IslandNo} (via : List (IslandNo × Crossing))
    (ha : addrIsland ask.addr = some k) (hk : (s.isl k).live = false) (hready : s.reqReady tag = true) (hfirst : s.cp.first tag ask = true) :
    exec (.registerWrite tag ask false via) s =
      .next ((s.dropTag tag).answer tag ansNoResponse) := by
  obtain ⟨hup, ht⟩ : s.chanUp = true ∧ ∀ r ∈ s.cp.out, r.tag ≠ tag := by simpa [State.reqReady, State.chanUp] using hready
  rw [registerWrite_new ask false via hup ht, hfirst, perform_dead tag via ha hk]
  rfl

/-! The summary of islands. -/

/-- Bit k after the bits of a list of islands have been written. -/
theorem getLsbD_foldl_setBit (g : IslandNo → Bool) (l : List IslandNo) (v : BitVec 60) (k : IslandNo) :
    (l.foldl (fun v j => setBit v j.val (g j)) v).getLsbD k.val = if k ∈ l then g k else v.getLsbD k.val := by
  induction l generalizing v with
  | nil => simp
  | cons j l ih =>
    rw [List.foldl_cons, ih, getLsbD_setBit _ _ _ _ k.isLt]
    by_cases hkl : k ∈ l
    · simp [hkl]
    · by_cases hkj : k = j
      · simp [hkj]
      · simp [hkl, hkj, Fin.val_ne_of_ne hkj]

theorem getLsbD_islandBits (s : State) (f : Island → Bool) (k : IslandNo) : (s.islandBits f).getLsbD k.val = f (s.isl k) := by
  rw [State.islandBits, getLsbD_foldl_setBit, if_pos (List.mem_finRange k)]

/-- CHECK_WINDOW_CLOSE brings the LIVE bits up to date once 4,096 CFG cycles have passed (R103). -/
theorem checkWindowClose_live {s : State} (hup : s.chanUp = true) (hwin : 4096 ≤ elapsed (s.now cfgIsl) s.cfg.winAt) :
    ∃ t, exec .checkWindowClose s = .next t ∧ ∀ k : IslandNo,
      t.cfg.liveMap.getLsbD k.val = (!(s.isl k).inReset && (s.isl k).cycle != (s.isl k).winCycle) :=
  ⟨_, guarded_pos (by simp [hup, hwin]), fun k => getLsbD_islandBits s _ k⟩

/-- Settles O26: a request to a dead island changes the register channel only and is answered with zero data (`perform_dead`), and the
island's LIVE bit is clear after the next check window (`checkWindowClose_live`). -/
theorem deadIslandsReadZero : Obligations.DeadIslandsReadZero := by
  unfold Obligations.DeadIslandsReadZero
  refine ⟨?read, ?write, ?request, ?summary⟩
  case read =>
    intro k addr s ha hk
    rw [regRead_dead ha hk]
    exact ⟨rfl, by decide⟩
  case write =>
    intro k tag ask hold via s _ ha hk ht
    exact registerWrite_dead hold via ha hk ht
  case request =>
    intro k tag ask via s _ ha hk hready hfirst
    exact ⟨_, _, registerWrite_dead_answer via ha hk hready hfirst, rfl, rfl, rfl⟩
  case summary =>
    intro k s hup hwin hdead
    obtain ⟨t, ht, hlive⟩ := checkWindowClose_live hup hwin
    refine ⟨t, ht, (hlive k).trans ?_⟩
    rcases hdead with h | h <;> simp [h]

end Sys2Proof.Machine
end

section
/-! PROOFS. Unexpected responses on a memory port (R58): the lookup of the tag finds nothing, or a request of the other kind. -/

namespace Sys2Proof.Machine

theorem exec_mpReadResponse (p : SliceNo) (tag : BitVec 8) (data : List Byte) (poison : Bool) (err : BitVec 4) (s : State) :
    exec (.mpReadResponse p tag data poison err) s = execMpReadResponse p tag data poison err s := rfl

theorem exec_mpWriteResponse (p : SliceNo) (tag : BitVec 8) (err : BitVec 4) (s : State) :
    exec (.mpWriteResponse p tag err) s = execMpWriteResponse p tag err s := rfl

/-- A read response to a tag that no read holds is unexpected, whatever its data, its poison and its code. -/
theorem mpReadResponse_unexpected {p : SliceNo} {tag : BitVec 8} (data : List Byte) (poison : Bool) (err : BitVec 4) {s : State}
    (hlive : s.portLive p = true)
    (hkind : ∀ t, (s.slice p).mp.tags.find? (fun t => t.tag == tag) = some t → t.req.wr = true) :
    exec (.mpReadResponse p tag data poison err) s = .next (s.mpUnexpected p tag) := by
  rw [exec_mpReadResponse, execMpReadResponse, guarded_pos hlive]
  cases hfind : (s.slice p).mp.tags.find? (fun t => t.tag == tag) with
  | none => rfl
  | some t => simp only [hkind t hfind, if_true]

/-- A write response to a tag that no write holds is unexpected, whatever its code. -/
theorem mpWriteResponse_unexpected {p : SliceNo} {tag : BitVec 8} (err : BitVec 4) {s : State} (hlive : s.portLive p = true)
    (hkind : ∀ t, (s.slice p).mp.tags.find? (fun t => t.tag == tag) = some t → t.req.wr = false) :
    exec (.mpWriteResponse p tag err) s = .next (s.mpUnexpected p tag) := by
  rw [exec_mpWriteResponse, execMpWriteResponse, guarded_pos hlive]
  cases hfind : (s.slice p).mp.tags.find? (fun t => t.tag == tag) with
  | none => rfl
  | some t => simp only [hkind t hfind, Bool.not_false, if_true]

/-- Settles O22: both rows take the response as `State.mpUnexpected`, which sets UNEXP_SEEN and makes the record with the tag. -/
theorem unexpectedResponses : Obligations.UnexpectedResponses := by
  unfold Obligations.UnexpectedResponses
  refine ⟨?read, ?write⟩
  case read => exact fun _ _ data poison err _ hlive hkind => mpReadResponse_unexpected data poison err hlive hkind
  case write => exact fun _ _ err _ hlive hkind => mpWriteResponse_unexpected err hlive hkind

end Sys2Proof.Machine
end

section
/-! PROOFS. What every step keeps: the sound state (R22, R99, R102, R140). -/

namespace Sys2Proof.Machine

/-- While por_n is low every island is in reset. -/
def State.PorHolds (s : State) : Prop := s.por = true → ∀ k, (s.isl k).inReset = true

/-- An island in reset shows STATE RESET and holds no configuration. -/
def Island.Calm (i : Island) : Prop := i.inReset = true → i.state = .reset ∧ i.conf = none

theorem inv_iff (s : State) : s.Inv ↔ s.PorHolds ∧ (∀ k, (s.isl k).Calm) ∧ Memory.wf s.cmd.store = true :=
  ⟨fun ⟨hpor, hstate, hconf, hwf⟩ => ⟨hpor, fun k h => ⟨hstate k h, hconf k h⟩, hwf⟩,
   fun ⟨hpor, hcalm, hwf⟩ => ⟨hpor, fun k h => (hcalm k h).1, fun k h => (hcalm k h).2, hwf⟩⟩

theorem calm_of_kept {i j : Island} (h : j.kept = i.kept) (hi : i.Calm) : j.Calm := by
  intro hr
  simp only [Island.kept, Prod.mk.injEq] at h
  obtain ⟨hreset, -, -, -, hstate, hconf⟩ := h
  have hr' : i.inReset = true := hreset ▸ hr
  simp only [hr, hr', if_true] at hstate hconf
  exact ⟨hstate.trans (hi hr').1, hconf.trans (hi hr').2⟩

theorem calm_cleared (i : Island) : i.cleared.Calm := fun _ => ⟨rfl, rfl⟩

theorem calm_poweredOff (i : Island) : i.poweredOff.Calm := fun _ => ⟨rfl, rfl⟩

theorem calm_leaves (i : Island) (c : Option Conf) : (i.leaves c).Calm := fun h => nomatch h

/-- A state whose islands and por_n are kept, and whose entry store stays canonical, is sound if the one before is. -/
theorem inv_of_kept {s t : State} (hpor : t.por = s.por) (hisl : ∀ k, (t.isl k).kept = (s.isl k).kept)
    (hwf : Memory.wf s.cmd.store = true → Memory.wf t.cmd.store = true) (hs : s.Inv) : t.Inv := by
  rw [inv_iff] at hs ⊢
  obtain ⟨hp, hc, hm⟩ := hs
  exact ⟨fun h k => (kept_fields (hisl k)).1.trans (hp (hpor ▸ h) k), fun k => calm_of_kept (hisl k) (hc k), hwf hm⟩

theorem inv_onIsl {s : State} {k : IslandNo} {f : Island → Island} (hs : s.Inv) (hcalm : (f (s.isl k)).Calm)
    (hreset : s.por = true → (f (s.isl k)).inReset = true) : (s.onIsl k f).Inv := by
  rw [inv_iff] at hs ⊢
  obtain ⟨hp, hc, hm⟩ := hs
  refine ⟨fun h j => ?_, fun j => ?_, hm⟩ <;> rw [State.onIsl_isl] <;> split
  next e => exact e ▸ hreset h
  next => exact hp h j
  next e => exact e ▸ hcalm
  next => exact hc j

theorem inv_porAssert {s t : State} (h : execPorAssert s = .next t) : t.Inv := by
  have hisl (k : IslandNo) : t.isl k = (s.isl k).poweredOff := (porAssert_isl s t h k).1
  have hstore : t.cmd.store = [] := (porAssert_isl s t h 0).2.2.1
  rw [inv_iff, hstore]
  exact ⟨fun _ k => by rw [hisl k]; rfl, fun k => by rw [hisl k]; exact calm_poweredOff _, rfl⟩

theorem inv_porRelease {s t : State} (h : execPorRelease s = .next t) (hs : s.Inv) : t.Inv := by
  cases hp : s.por
  case false =>
    obtain rfl : s = t := by simpa [execPorRelease, guarded, hp] using h
    exact hs
  case true =>
    have hpor : t.por = false := by
      rw [execPorRelease, guarded_pos hp] at h
      injection h with h
      rw [← h]
    rw [inv_iff] at hs ⊢
    obtain ⟨-, hc, hm⟩ := hs
    refine ⟨fun e => absurd (hpor.symm.trans e) (by decide), fun k => ?_, ?_⟩
    · obtain ⟨⟨b, hb⟩, -⟩ := porRelease_isl s t h k
      rw [hb]; exact hc k
    · rw [(porRelease_isl s t h 0).2.2.1]; exact hm

theorem inv_resetAssert {s t : State} {k : IslandNo} (h : execIslandResetAssert k s = .next t) (hs : s.Inv) : t.Inv := by
  rcases islandResetAssert_next h with rfl | ⟨-, u, ⟨hu, hw⟩, ht, -⟩
  · exact hs
  · have hu' : u.Inv := inv_of_kept (congrArg Kept.por hu) (keptR_isl hu) hw hs
    refine inv_of_kept (kept_por ht) (kept_isl_at ht) (fun w => by rw [kept_entries ht]; exact w)
      (inv_onIsl hu' (calm_cleared _) fun _ => rfl)

theorem inv_resetRelease {s t : State} {k : IslandNo} (h : execIslandResetRelease k s = .next t) (hs : s.Inv) : t.Inv := by
  rcases islandResetRelease_next h with rfl | ⟨hp, -, -, c, ht⟩
  · exact hs
  · refine inv_of_kept (kept_por ht) (kept_isl_at ht) (fun w => by rw [kept_entries ht]; exact w)
      (inv_onIsl hs (calm_leaves _ c) fun e => absurd (hp.symm.trans e) (by decide))

/-- A guarded command whose answer is known: it had its effect, or it changed nothing. -/
theorem guarded_eq_next {c : Bool} {s t u : State} (h : guarded c s t = .next u) : u = t ∨ u = s := by
  cases c
  · exact .inr (Host.Outcome.next.inj h).symm
  · exact .inl (Host.Outcome.next.inj h).symm

/-- A clock row leaves the island as it was but for the clock, or has no effect. -/
theorem inv_clock {c : Bool} {s t : State} {k : IslandNo} {f : Island → Island} (h : guarded c s (s.onIsl k f) = .next t) (hs : s.Inv)
    (hstate : (f (s.isl k)).state = (s.isl k).state) (hconf : (f (s.isl k)).conf = (s.isl k).conf)
    (hreset : (f (s.isl k)).inReset = (s.isl k).inReset) : t.Inv := by
  rcases guarded_eq_next h with rfl | rfl
  · obtain ⟨hpor, hcalm, -⟩ := (inv_iff s).1 hs
    refine inv_onIsl hs (fun e => ?_) fun e => hreset.trans (hpor e k)
    rw [hstate, hconf]
    exact hcalm k (hreset ▸ e)
  · exact hs

/-- Every command keeps the sound state: it keeps all that the invariant speaks of, or is one of the rows above. -/
theorem inv_exec {c : Instr} {s t : State} (h : exec c s = .next t) (hs : s.Inv) : t.Inv := by
  rcases exec_cases h with e | ⟨-, e⟩ | ⟨-, e⟩ | ⟨k, -, e⟩ | ⟨k, -, e⟩ | ⟨-, e, hw⟩ | ⟨-, ⟨e, hw⟩, -⟩ | ⟨w, -, e⟩ | ⟨k, -, e⟩ | ⟨k, -, e⟩
  case inl => exact inv_of_kept (kept_por e) (kept_isl_at e) (fun w => by rw [kept_entries e]; exact w) hs
  · exact inv_porAssert e
  · exact inv_porRelease e hs
  · exact inv_resetAssert e hs
  · exact inv_resetRelease e hs
  · exact inv_of_kept (congrArg Kept.por e) (keptW_isl e) hw hs
  · exact inv_of_kept (congrArg Kept.por e) (keptW_isl e) hw hs
  · exact inv_of_kept (congrArg Kept.por e) (keptS_isl e) (fun w => by rw [show t.cmd.store = _ from congrArg Kept.entries e]; exact w) hs
  · exact inv_clock e hs rfl rfl rfl
  · exact inv_clock e hs rfl rfl rfl

/-- Idle time keeps it: all it moves of what the invariant speaks of are cycle counters. -/
theorem inv_tick {s t : State} (ht : t = tick s) (hs : s.Inv) : t.Inv := by
  obtain ⟨hpor, hcalm, hwf⟩ := (inv_iff s).1 hs
  have hkept := tick_kept s
  have hisl (k : IslandNo) : ∃ c, (t.isl k).kept = ({ s.isl k with cycle := c } : Island).kept := ht ▸ tick_isl s k
  rw [← ht] at hkept
  have hstore : t.cmd.store = s.cmd.store := congrArg Kept.entries hkept
  have hsame : t.por = s.por := congrArg Kept.por hkept
  refine (inv_iff _).2 ⟨fun e k => ?_, fun k => ?_, hstore ▸ hwf⟩ <;> obtain ⟨c, hc⟩ := hisl k
  · exact (kept_fields hc).1.trans (hpor (hsame.symm.trans e) k)
  · exact calm_of_kept hc (hcalm k)

/-! The statements over every command (R19, R21, R98 to R102). -/

/-- Settles O1: `step` reads the queue and nothing else before it runs the command. -/
theorem stepRunsFrontCommand : Obligations.StepRunsFrontCommand := by
  unfold Obligations.StepRunsFrontCommand
  intro c s rest h
  simp only [step, h]

/-- A step is a command on the rest of the queue, or time passes. -/
theorem step_cases {s t : State} (h : step s = .next t) :
    (∃ c rest, s.pending = c :: rest ∧ exec c { s with pending := rest } = .next t) ∨ (s.pending = [] ∧ t = tick s) := by
  cases hp : s.pending with
  | cons c rest => exact .inl ⟨c, rest, rfl, (stepRunsFrontCommand c s rest hp).symm.trans h⟩
  | nil =>
    simp only [step, hp] at h
    exact .inr ⟨rfl, (Host.Outcome.next.inj h).symm⟩

/-- Settles O4: the queue is no part of the invariant, every command keeps it (`inv_exec`) and so does idle time (`inv_tick`). -/
theorem stepKeepsInv : Obligations.StepKeepsInv := by
  unfold Obligations.StepKeepsInv
  intro s t hs h
  rcases step_cases h with ⟨c, rest, -, e⟩ | ⟨-, e⟩
  · exact inv_exec e (show ({ s with pending := rest } : State).Inv from hs)
  · exact inv_tick e hs

/-- Settles O5: by `isl_cases` for the commands and `tick_isl` for idle time. -/
theorem resetCountOnlyByReleaseOrPower : Obligations.ResetCountOnlyByReleaseOrPower := by
  unfold Obligations.ResetCountOnlyByReleaseOrPower
  refine ⟨fun c s t k h => ?command, fun s t k hp h => ?idle⟩
  case command =>
    rcases isl_cases h k with ⟨-, -, e, -⟩ | ⟨rfl, e⟩ | ⟨-, i, hi, -, e⟩ | ⟨rfl, hr, c, e⟩ | ⟨-, b, d, e⟩
    · exact .inl e
    · exact .inr (.inr ⟨rfl, by rw [e]; rfl⟩)
    · exact .inl ((kept_fields e).2.2.1.trans hi)
    · exact .inr (.inl ⟨rfl, hr, (kept_fields e).2.2.1⟩)
    · exact .inl (by rw [e])
  case idle =>
    rcases step_cases h with ⟨c, rest, e, -⟩ | ⟨-, rfl⟩
    · rw [hp] at e; cases e
    · obtain ⟨c, e⟩ := tick_isl s k
      exact (kept_fields e).2.2.1

/-- Settles O6: every row but the stream, the reset of CFG and power-on reset keeps CFG's store (`exec_cases`). -/
theorem configurationOnlyByStreamOrReset : Obligations.ConfigurationOnlyByStreamOrReset := by
  unfold Obligations.ConfigurationOnlyByStreamOrReset
  intro c s t h
  rcases exec_cases h with e | ⟨rfl, e⟩ | ⟨-, e⟩ | ⟨k, rfl, e⟩ | ⟨k, -, e⟩ | ⟨-, e, -⟩ | ⟨-, ⟨e, -⟩, -⟩ | ⟨w, rfl, -⟩ | ⟨k, -, e⟩ | ⟨k, -, e⟩
  · exact .inl (kept_conf e)
  · exact .inr (.inr ⟨.inr rfl, by rw [(porAssert_isl s t e 0).2.1]⟩)
  · exact .inl (by rw [(porRelease_isl s t e 0).2.1])
  · rcases islandResetAssert_next e with rfl | ⟨-, u, -, ht, hother, hcfg, -⟩
    · exact .inl rfl
    · by_cases hk : k = cfgIsl
      · exact .inr (.inr ⟨.inl (hk ▸ rfl), by rw [(hcfg hk).2]⟩)
      · exact .inl ((kept_conf ht).trans (hother hk).1)
  · rcases islandResetRelease_next e with rfl | ⟨-, -, -, c, ht⟩
    · exact .inl rfl
    · exact .inl ((kept_conf ht).trans rfl)
  · exact .inl (congrArg Kept.conf e)
  · exact .inl (congrArg Kept.conf e)
  · exact .inr (.inl ⟨w, rfl⟩)
  · rcases guarded_eq_next e with rfl | rfl <;> exact .inl rfl
  · rcases guarded_eq_next e with rfl | rfl <;> exact .inl rfl

/-- Settles O7: every row but those named keeps the key store (`exec_cases`), and a reset empties it. -/
theorem keysOnlyByCommitStreamOrReset : Obligations.KeysOnlyByCommitStreamOrReset := by
  unfold Obligations.KeysOnlyByCommitStreamOrReset
  intro c s t h
  have hempty (n : Fin 16) : ((({} : CfgS).keys)[n]).loaded = false := by simp
  rcases exec_cases h with e | ⟨rfl, e⟩ | ⟨-, e⟩ | ⟨k, rfl, e⟩ | ⟨k, -, e⟩ | ⟨e, -⟩ | ⟨e, -⟩ | ⟨w, rfl, -⟩ | ⟨k, -, e⟩ | ⟨k, -, e⟩
  · exact .inl (kept_keys e)
  · exact .inr (.inr (.inr (.inr (.inr (.inr ⟨.inr rfl, by rw [(porAssert_isl s t e 0).2.1]; exact hempty⟩)))))
  · exact .inl (by rw [(porRelease_isl s t e 0).2.1])
  · rcases islandResetAssert_next e with rfl | ⟨-, u, -, ht, hother, hcfg, -⟩
    · exact .inl rfl
    · by_cases hk : k = cfgIsl
      · exact .inr (.inr (.inr (.inr (.inr (.inr ⟨.inl (hk ▸ rfl), by rw [(hcfg hk).2]; exact hempty⟩)))))
      · exact .inl ((kept_keys ht).trans (hother hk).2)
  · rcases islandResetRelease_next e with rfl | ⟨-, -, -, c, ht⟩
    · exact .inl rfl
    · exact .inl ((kept_keys ht).trans rfl)
  · rcases e with e | e | e
    · exact .inr (.inr (.inl e))
    · exact .inr (.inr (.inr (.inl e)))
    · exact .inr (.inr (.inr (.inr (.inl e))))
  · exact .inr (.inl e)
  · exact .inr (.inr (.inr (.inr (.inr (.inl ⟨w, rfl⟩)))))
  · rcases guarded_eq_next e with rfl | rfl <;> exact .inl rfl
  · rcases guarded_eq_next e with rfl | rfl <;> exact .inl rfl

/-- Settles O8: every row but register writes keeps the entry store (`exec_cases`), and a reset of CMD or power-on reset empties it. -/
theorem entryStoreOnlyByRegisterWriteOrReset : Obligations.EntryStoreOnlyByRegisterWriteOrReset := by
  unfold Obligations.EntryStoreOnlyByRegisterWriteOrReset
  intro c s t h
  rcases exec_cases h with e | ⟨rfl, e⟩ | ⟨-, e⟩ | ⟨k, rfl, e⟩ | ⟨k, -, e⟩ | ⟨e, -⟩ | ⟨-, -, e⟩ | ⟨w, -, e⟩ | ⟨k, -, e⟩ | ⟨k, -, e⟩
  · exact .inl (kept_entries e)
  · exact .inr (.inr (.inr (.inr ⟨.inr rfl, (porAssert_isl s t e 0).2.2.1⟩)))
  · exact .inl (by rw [(porRelease_isl s t e 0).2.2.1])
  · rcases islandResetAssert_next e with rfl | ⟨-, u, -, ht, -, -, hother, hcmd⟩
    · exact .inl rfl
    · by_cases hk : k = cmdIsl
      · exact .inr (.inr (.inr (.inr ⟨.inl (hk ▸ rfl), (kept_entries ht).trans (hcmd hk)⟩)))
      · exact .inl ((kept_entries ht).trans (hother hk))
  · rcases islandResetRelease_next e with rfl | ⟨-, -, -, c, ht⟩
    · exact .inl rfl
    · exact .inl ((kept_entries ht).trans rfl)
  · rcases e with e | e | e
    · exact .inr (.inl e)
    · exact .inr (.inr (.inl e))
    · exact .inr (.inr (.inr (.inl e)))
  · exact .inl e
  · exact .inl (congrArg Kept.entries e)
  · rcases guarded_eq_next e with rfl | rfl <;> exact .inl rfl
  · rcases guarded_eq_next e with rfl | rfl <;> exact .inl rfl

/-- Settles O9: no row but the island's own reset and release and power-on reset touches CYCLE (`isl_cases`), and those clear it. -/
theorem cyclesMoveOnlyInIdleTime : Obligations.CyclesMoveOnlyInIdleTime := by
  unfold Obligations.CyclesMoveOnlyInIdleTime
  intro c s t k h
  rcases isl_cases h k with ⟨-, -, -, e⟩ | ⟨rfl, e⟩ | ⟨rfl, i, -, -, e⟩ | ⟨rfl, -, c, e⟩ | ⟨-, b, d, e⟩
  · exact .inl e
  · exact .inr ⟨.inr (.inr rfl), by rw [e]; rfl⟩
  · exact .inr ⟨.inl rfl, (kept_fields e).2.2.2⟩
  · exact .inr ⟨.inr (.inl rfl), (kept_fields e).2.2.2⟩
  · exact .inl (by rw [e])

/-- Settles O10: the queue is kept by every row (`exec_cases`), resets included. -/
theorem commandsLeaveTheQueue : Obligations.CommandsLeaveTheQueue := by
  unfold Obligations.CommandsLeaveTheQueue
  intro c s t h
  rcases exec_cases h with e | ⟨-, e⟩ | ⟨-, e⟩ | ⟨k, -, e⟩ | ⟨k, -, e⟩ | ⟨-, e, -⟩ | ⟨-, ⟨e, -⟩, -⟩ | ⟨w, -, e⟩ | ⟨k, -, e⟩ | ⟨k, -, e⟩
  · exact kept_pending e
  · exact (porAssert_isl s t e 0).2.2.2
  · exact (porRelease_isl s t e 0).2.2.2
  · rcases islandResetAssert_next e with rfl | ⟨-, u, ⟨hu, -⟩, ht, -⟩
    · rfl
    · exact (kept_pending ht).trans (congrArg Kept.pending hu)
  · rcases islandResetRelease_next e with rfl | ⟨-, -, -, c, ht⟩
    · rfl
    · exact (kept_pending ht).trans rfl
  · exact congrArg Kept.pending e
  · exact congrArg Kept.pending e
  · exact congrArg Kept.pending e
  · rcases guarded_eq_next e with rfl | rfl <;> rfl
  · rcases guarded_eq_next e with rfl | rfl <;> rfl

/-- Settles O11: the cases of `isl_cases`, one for each kind of row that touches an island's reset or clock. -/
theorem resetsAndClocksOnlyByTheirRows : Obligations.ResetsAndClocksOnlyByTheirRows := by
  unfold Obligations.ResetsAndClocksOnlyByTheirRows
  intro c s t k h
  rcases isl_cases h k with ⟨hr, hc, -⟩ | ⟨rfl, e⟩ | ⟨rfl, i, -, hi, e⟩ | ⟨rfl, -, cc, e⟩ | ⟨hrow, b, d, e⟩
  · exact ⟨.inl hr, .inl hc⟩
  · exact ⟨.inr (.inr (.inr ⟨rfl, by rw [e]; rfl⟩)), .inl (by rw [e]; rfl)⟩
  · obtain ⟨hr, hc, -⟩ := kept_fields e
    exact ⟨.inr (.inl ⟨rfl, hr⟩), .inl (hc.trans hi)⟩
  · obtain ⟨hr, hc, -⟩ := kept_fields e
    exact ⟨.inr (.inr (.inl ⟨rfl, hr⟩)), .inl hc⟩
  · exact ⟨.inl (by rw [e]), .inr hrow⟩

/-! Power-on (R21, R99). -/

theorem reset_isl (k : IslandNo) : State.reset.isl k = {} := by simp [State.reset, State.isl]

/-- Settles O2: every unit of `State.reset` is as its record's defaults say. -/
theorem resetLeavesBlockInReset : Obligations.ResetLeavesBlockInReset := by
  unfold Obligations.ResetLeavesBlockInReset
  refine ⟨rfl, fun k => ?_, fun x q => ?_, fun p => ?_, fun g => ?_, rfl, fun n => ?_, rfl, rfl, rfl, rfl⟩
  · rw [reset_isl]
    exact ⟨rfl, rfl, rfl, rfl, rfl, rfl, rfl⟩
  · simp [State.reset, State.quad, Quad.queue, KMap.getD, KMap.get?]
  · simp [State.reset, State.slice]
  · simp [State.reset, State.group]
  · simp [State.reset]

/-- Settles O3: every island of `State.reset` is in reset, and its entry store is empty. -/
theorem invHoldsAtReset : Obligations.InvHoldsAtReset := by
  unfold Obligations.InvHoldsAtReset
  exact (inv_iff _).2 ⟨fun _ k => by rw [reset_isl], fun k _ => by rw [reset_isl]; exact ⟨rfl, rfl⟩, rfl⟩

end Sys2Proof.Machine
end

section
/-! PROOFS. Power-on reset, start-up, CFG's watch over the islands and the small service rows (R99 to R109, R499 to R512). -/

namespace Sys2Proof.Machine

/-- Replacing every island, and reading one of them. -/
theorem isl_setIslands (s : State) (v : Vector Island 60) (k : IslandNo) : ({ s with islands := v } : State).isl k = v[k] := rfl

/-! Power-on reset. -/

theorem exec_porAssert (s : State) : exec .porAssert s = .next { State.reset with
    islands := s.islands.map Island.poweredOff
    slices := s.slices.map fun x => { mp := { upPin := x.mp.upPin } }
    groups := s.groups.map fun q => q.afterReset
    cmd := { pathPin := s.cmd.pathPin }
    freeIdx := s.freeIdx, nextId := s.nextId, tickNo := s.tickNo, pending := s.pending } := rfl

/-- Settles O12: POR_ASSERT builds the state anew from `State.reset` and the pins; POR_RELEASE touches por_n and CLK_SEEN alone. -/
theorem powerOnResetClearsTheBlock : Obligations.PowerOnResetClearsTheBlock := by
  unfold Obligations.PowerOnResetClearsTheBlock
  refine ⟨fun s => ⟨_, exec_porAssert s, rfl, fun k => ?islands, rfl, rfl, rfl, rfl, rfl, rfl, rfl, rfl, fun g => ?groups, rfl, fun x => ?quads,
    fun p => ?slices, rfl⟩, fun s h => guarded_pos h⟩
  case islands =>
    simp only [State.isl, Fin.getElem_fin, Vector.getElem_map]
    exact ⟨rfl, rfl, rfl, rfl, rfl, rfl, rfl⟩
  case groups =>
    simp only [State.group, Fin.getElem_fin, Vector.getElem_map]
    exact ⟨rfl, rfl⟩
  case quads => simp [State.quad, State.reset]
  case slices => simp [State.slice]

/-! What CFG sees of the islands. -/

theorem readyIslands_any_left {s : State} {k : IslandNo} (hk : k ∈ readyIslands)
    (h : (s.isl k).inReset = true ∨ (s.isl k).state = .config ∨ (s.isl k).state = .shut) :
    (readyIslands.any fun k => (s.isl k).inReset || !((s.isl k).state == .run || (s.isl k).state == .quiesced)) = true :=
  List.any_eq_true.2 ⟨k, hk, by rcases h with h | h | h <;> simp [h]⟩

/-- Settles O14: each row's guard is the start condition of its clause, and the bits of the summaries are those of the islands
(`getLsbD_islandBits`). -/
theorem cfgWatchesTheIslands : Obligations.CfgWatchesTheIslands := by
  unfold Obligations.CfgWatchesTheIslands
  refine ⟨fun s hup hwin => ⟨_, guarded_pos (by simp [hup, hwin]), fun k => getLsbD_islandBits s _ k, fun k => getLsbD_islandBits s _ k,
    rfl, rfl, rfl, rfl, fun k => ?cycle⟩, fun s hup hready hrun => ⟨_, guarded_pos ?set, rfl, rfl, rfl, rfl⟩,
    fun s k hup hready hk h => guarded_pos ?clear⟩
  case cycle => exact isl_map s _ k
  case set =>
    have hall : readyIslands.all s.running = true := List.all_eq_true.2 hrun
    simp [hup, hready, hall]
  case clear => rw [hup, hready, readyIslands_any_left hk h]; rfl

/-! Start-up. -/

/-- A report changes the sequence number, the report buffer and the count of those dropped, and nothing else of its island. -/
theorem Island.emit_eq (i : Island) (k : IslandNo) (n : Note) :
    i.emit k n = { i with seq := (i.emit k n).seq, reports := (i.emit k n).reports, dropped := (i.emit k n).dropped } := by
  unfold Island.emit
  dsimp only
  (repeat' split) <;> rfl

@[simp] theorem Island.emit_state (i : Island) (k : IslandNo) (n : Note) : (i.emit k n).state = i.state := by rw [Island.emit_eq]

@[simp] theorem Island.reportEmptied_state (i : Island) (k : IslandNo) : (i.reportEmptied k).state = i.state := by
  unfold Island.reportEmptied
  induction List.range 4 generalizing i with
  | nil => rfl
  | cons x l ih =>
    rw [List.foldl_cons, ih]
    split
    · exact Island.emit_state ..
    · rfl

theorem Island.enter_state {i : Island} (st : IslState) (h : i.inReset = false) : (i.enter st).state = st := by
  simp [Island.enter, h]

theorem inReset_of_live {i : Island} (h : i.live = true) : i.inReset = false := by
  simp only [Island.live, Bool.and_eq_true, Bool.not_eq_true'] at h
  exact h.1

/-- CMD's entry into RUN touches nothing but its island (R500). -/
theorem enterRun_cmd (s : State) : s.enterRun cmdIsl = s.onIsl cmdIsl fun i => (i.enter .run).reportEmptied cmdIsl := rfl

/-- Settles O15: each clause is the row's effect under its guard. -/
theorem startUpSteps : Obligations.StartUpSteps := by
  unfold Obligations.StartUpSteps
  refine ⟨⟨?selfTest, ?cmdEnable, ?linkBound, ?mgrBound⟩, ?bist⟩
  case selfTest =>
    intro pass s hlive htest
    refine ⟨_, guarded_pos (by simp [hlive, htest]), rfl, rfl, fun h => by subst h; rfl, fun h => ?_⟩
    subst h
    exact (getLsbD_setBit s.cfg.bistFail 52 true 52 (by decide)).trans (if_pos rfl)
  case cmdEnable =>
    intro s hlive hst hbist hports hstep hstop
    refine ⟨_, guarded_pos (by simp [hlive, hst, hbist, hports, hstep, hstop]), ?_, rfl⟩
    rw [enterRun_cmd, State.onIsl_isl_self, Island.reportEmptied_state, Island.enter_state _ (inReset_of_live hlive)]
  case linkBound =>
    intro g s t0 hat hlive hstep hel
    refine ⟨?_, rfl, (getLsbD_setBit s.cfg.linksUp g.val false g.val g.isLt).trans (if_pos rfl)⟩
    change execLinkBringupBound g s = _
    simp only [execLinkBringupBound, hat]
    exact guarded_pos (by simp [-Nat.reducePow, hlive, hstep, hel])
  case mgrBound =>
    intro s t0 hat hlive hstep hel
    change execMgrStepBound s = _
    unfold execMgrStepBound
    split
    next h => rw [hat] at h; cases h
    next t1 h =>
      obtain rfl : t0 = t1 := by simpa [hat] using h
      exact guarded_pos (by simp [-Nat.reducePow, hlive, hstep, hel])
  case bist =>
    intro k pass s hlive hk hst hconf hbist
    refine ⟨_, _, guarded_pos (by simp [hlive, hk, hst, hconf, hbist]), rfl, ?_⟩
    cases pass <;> rfl

/-! The Ephemeris' reload, and the other small rows. -/

@[simp] theorem State.request_eph (s : State) (r : FabReq) : (s.request r).eph = s.eph := by rw [State.request_eq]

@[simp] theorem State.sendJoin_eph (s : State) (m : BitVec 12) : (s.sendJoin m).eph = s.eph := State.request_eph ..

theorem foldl_sendJoin_eph (l : List (BitVec 12)) (s : State) : (l.foldl State.sendJoin s).eph = s.eph := by
  induction l generalizing s with
  | nil => rfl
  | cons m l ih => rw [List.foldl_cons, ih, State.sendJoin_eph]

theorem joinAll_reloading (s : State) : s.joinAll.eph.reloading = s.eph.reloading := by
  rw [State.joinAll, foldl_sendJoin_eph]; rfl

theorem mirDir_reloading (s : State) : s.mirDir.eph.reloading = s.eph.reloading := by unfold State.mirDir; split <;> rfl

theorem endStep7_reloading (s : State) (b : Bool) : (s.endStep7 b).eph.reloading = s.eph.reloading := by unfold State.endStep7; split <;> rfl

theorem beginStep7_reloading (s : State) : s.beginStep7.eph.reloading = s.eph.reloading := by
  unfold State.beginStep7
  dsimp only
  rw [joinAll_reloading]
  split
  · rw [State.request_eph]
    exact endStep7_reloading ..
  · exact endStep7_reloading ..

/-- Settles O16: each clause is the row's effect under its guard; the reload's end leaves `reloading` clear through step 7's beginning. -/
theorem smallServiceRows : Obligations.SmallServiceRows := by
  unfold Obligations.SmallServiceRows
  refine ⟨?refused, ?runs, ?actUp, ?clear, ?reload, ?join⟩
  case refused =>
    intro k s h
    change execBistNetworkStart k s = _
    simp only [execBistNetworkStart, h, Bool.false_eq_true, if_false]
  case runs =>
    intro k s h
    refine ⟨_, Config.freeBit s.freeIdx, ?_, rfl⟩
    change execBistNetworkStart k s = _
    simp only [execBistNetworkStart, h, if_true]
    rfl
  case actUp => exact fun p s hlive hup hel => guarded_pos (by simp [hlive, hup, hel])
  case clear =>
    refine fun m s hlive => ⟨_, guarded_pos hlive, rfl, rfl, fun n => ?_⟩
    simp [LogS.clearCause]
  case reload =>
    refine fun s hlive hrel => ⟨_, guarded_pos (by simp [hlive, hrel]), ?_⟩
    rw [beginStep7_reloading, mirDir_reloading, endStep7_reloading]
    rfl
  case join => exact fun s hlive hat hel => guarded_pos (by simp [-Nat.reducePow, hlive, hat, hel])

end Sys2Proof.Machine
end

section
/-! PROOFS. Packets written into and read out of the crossing queues (R27 to R39). -/

namespace Sys2Proof.Machine

/-! Writing. -/

/-- A queue replaced in one quadrant's pool. -/
theorem quad_setQueue_queue (s : State) (x : QuadNo) (q : Nat) (f : Quad → CQueue) :
    ((s.onQuad x fun d => d.setQueue q (f d)).quad x).queue q = f (s.quad x) := by
  rw [State.onQuad_quad_self, Quad.queue_setQueue]

theorem pktFrom_words (x : QuadNo) (q : BitVec 16) (ws : List PWord) (tag : BitVec 24) (b : Bool) (l : List OutPkt) :
    (pktFrom x q ws tag b l).words = ws ∧ (pktFrom x q ws tag b l).tag = tag ∧ (b = true → (pktFrom x q ws tag b l).poisonIn = true) := by
  unfold pktFrom
  split
  · exact ⟨rfl, rfl, fun h => by simp [pktOf, h]⟩
  · exact ⟨rfl, rfl, id⟩

/-- The queues that a link group produces, by group and channel (R24). -/
theorem linkQueue_of : ∀ (g : GroupNo) (v : Fin 8), let q : BitVec 16 := BitVec.ofNat 16 (0x2028 + 16 * (g.val % 4) + v.val)
    (0x2020 ≤ q.toNat && q.toNat < 0x2060 && 8 ≤ q.toNat % 16) = true ∧
    Fin.ofNat 16 (4 * (quadOf (lgIsl g)).val + (q.toNat - 0x2020) / 16) = g ∧ Fin.ofNat 8 (q.toNat % 8) = v := by decide

theorem packetOpen_link {g : GroupNo} {v : Fin 8} {s : State} (n : BitVec 16) (ws : List PWord) (h : s.awake (lgIsl g) = true) :
    exec (.packetOpen (quadOf (lgIsl g)) (BitVec.ofNat 16 (0x2028 + 16 * (g.val % 4) + v.val)) n ws) s = .next (State.drainChan g v 2000 s) := by
  obtain ⟨hlink, hg, hv⟩ := linkQueue_of g v
  change execPacketOpen _ _ n ws s = _
  unfold execPacketOpen
  rw [if_pos hlink]
  dsimp only
  rw [hg, hv]
  exact guarded_pos h

/-- The state once the producer of queue q has closed its open packet with the words `ws` (R27, R29). -/
def State.closed (s : State) (x : QuadNo) (q : BitVec 16) (o : OpenPkt) (ws : List PWord) (tag : BitVec 24) (poison : Bool) : State :=
  (s.onQuad x fun d => (d.setQueue q.toNat ((d.queue q.toNat).push o.cells
    (pktFrom x q ws tag poison (s.isl (queueProducer x q.toNat)).outbox))).settle).onIsl (queueProducer x q.toNat) fun i =>
      { i with outbox := outboxDone x q ws i.outbox }

theorem packetClose_next {x : QuadNo} {q : BitVec 16} {more : List PWord} {s : State} {o : OpenPkt} (tag : BitVec 24) (poison : Bool)
    (ho : ((s.quad x).queue q.toNat).openPkt = some o) (hprod : s.awake (queueProducer x q.toNat) = true) (hquad : s.awake (xqIsl x) = true)
    (hpos : 1 ≤ (o.words ++ more).length) (hlen : (o.words ++ more).length ≤ 65535)
    (hcells : cellsFor (o.words ++ more).length ≤ o.cells.length) :
    exec (.packetClose x q more tag poison) s = .next (s.closed x q o (o.words ++ more) tag poison) := by
  change execPacketClose x q more tag poison s = _
  simp only [execPacketClose, ho]
  exact guarded_pos (by simp only [hprod, hquad, decide_eq_true hpos, decide_eq_true hlen, decide_eq_true hcells, Bool.and_self])

theorem closed_queue (s : State) (x : QuadNo) (q : BitVec 16) (o : OpenPkt) (ws : List PWord) (tag : BitVec 24) (poison : Bool) :
    ((s.closed x q o ws tag poison).quad x).queue q.toNat =
      ((s.quad x).queue q.toNat).push o.cells (pktFrom x q ws tag poison (s.isl (queueProducer x q.toNat)).outbox) := by
  rw [State.closed, State.onIsl_quad, State.onQuad_quad_self, Quad.queue_settle, Quad.queue_setQueue]

/-- The first packet that is not yet visible becomes so (R30). -/
theorem showNext_append (l r : List Pkt) (p : Pkt) (hl : ∀ a ∈ l, a.visible = true) (hp : p.visible = false) :
    showNext (l ++ p :: r) = l ++ { p with visible := true } :: r := by
  induction l with
  | nil => simp [showNext, hp]
  | cons a l ih =>
    obtain ⟨ha, hl⟩ := List.forall_mem_cons.1 hl
    rw [List.cons_append, showNext, if_pos ha, ih hl, List.cons_append]

/-- Settles O17: each row replaces one queue of one pool, PACKET_CLOSE with the packet that `pktFrom` makes of the words. -/
theorem packetsAreWritten : Obligations.PacketsAreWritten := by
  unfold Obligations.PacketsAreWritten
  refine ⟨?openPlain, fun g v n ws s h => packetOpen_link n ws h, ?close, ?visible⟩
  case openPlain =>
    intro x q n ws s hq hcan hlen
    have hlink : (decide (0x2020 ≤ q.toNat) && decide (q.toNat < 0x2060) && decide (8 ≤ q.toNat % 16)) = false :=
      Bool.eq_false_iff.2 fun h => hq (by simpa [and_assoc] using h)
    refine ⟨_, (if_neg (Bool.eq_false_iff.1 hlink)).trans (guarded_pos (by simp [hcan, hlen])), onlyQuad_onQuad .., ?_, ?_⟩
    · rw [quad_setQueue_queue]
    · rw [quad_setQueue_queue]
  case close =>
    intro x q more tag poison s o ho hprod hquad hpos hlen hcells
    obtain ⟨hw, ht, hp⟩ := pktFrom_words x q (o.words ++ more) tag poison (s.isl (queueProducer x q.toNat)).outbox
    refine ⟨_, { pktFrom x q (o.words ++ more) tag poison (s.isl (queueProducer x q.toNat)).outbox with
        length := BitVec.ofNat 16 (o.words ++ more).length, cells := o.cells.take (cellsFor (o.words ++ more).length), visible := false },
      packetClose_next tag poison ho hprod hquad hpos hlen hcells, ?_, ?_, hw, rfl, ht, rfl, rfl, hp, fun y hy => ?_, fun k hk => ?_⟩
    · rw [closed_queue]; rfl
    · rw [closed_queue]; simp only [CQueue.push, hw]
    · rw [State.closed, State.onIsl_quad, State.onQuad_quad, if_neg (Ne.symm hy)]
    · rw [State.closed, State.onIsl_isl, if_neg (Ne.symm hk), State.onQuad_isl]
  case visible =>
    intro x q s l r p hquad hpk hl hp
    refine ⟨_, guarded_pos (by simp [hquad, hpk, hp]), onlyQuad_onQuad .., ?_⟩
    rw [quad_setQueue_queue, hpk, showNext_append l r p hl hp]

/-! Reading. -/

/-- An update that leaves an island as it was leaves the state as it was. -/
theorem State.onIsl_of_eq {s : State} {k : IslandNo} {f : Island → Island} (h : f (s.isl k) = s.isl k) : s.onIsl k f = s := by
  have hset : s.islands.set k.val (f (s.isl k)) = s.islands := by rw [h]; simp [State.isl]
  unfold State.onIsl
  exact congrArg (fun v => { s with islands := v }) hset

theorem mapIf_false {α : Type} (g : α → α) (l : List α) : mapIf (fun _ => false) g l = l := by
  induction l with
  | nil => rfl
  | cons a l ih => simp [mapIf]

/-- No scale line waits for a packet whose cargo is no plate and no fabric packet. -/
theorem no_scale {q : BitVec 16} {p : Pkt} (l : List (BitVec 16 × Pkt)) (h : ∀ e, isScaleOf q p e = false) :
    l.find? (isScaleOf q p) = none := List.find?_eq_none.2 fun e _ => by simp [h e]

theorem isScaleOf_words {q : BitVec 16} {p : Pkt} (h : p.cargo = .words) (e : BitVec 16 × Pkt) : isScaleOf q p e = false := by
  simp [isScaleOf, h]

theorem isScaleOf_report {q : BitVec 16} {p : Pkt} {r : Report} (h : p.cargo = .report r) (e : BitVec 16 × Pkt) : isScaleOf q p e = false := by
  simp [isScaleOf, h]

/-- A packet that carries no plate taints no command. -/
theorem noteQueue_none {s : State} {p : Pkt} (h : s.plateRun p = none) (scale : Option (BitVec 16 × Pkt)) : s.noteQueue p scale = s := by
  have hnone : s.noteTaint [] = s := by
    simp only [State.noteTaint, List.contains_nil, Bool.false_and, mapIf_false]; rfl
  have hrun : s.noteTaint (s.plateRun p).toList = s := by rw [h]; exact hnone
  unfold State.noteQueue
  dsimp only
  rw [hrun, ite_self]

/-- A report that comes joins those that wait at LOG (R486). -/
theorem takeIn_report {s : State} {p : Pkt} {r : Report} (k : IslandNo) (q : BitVec 16) (h : p.cargo = .report r) :
    s.takeIn k q p = { s with log := { s.log with arriving := s.log.arriving ++ [{ r with poisoned := r.poisoned || p.poisoned }] } } := by
  have hrun : s.plateRun p = none := by simp [State.plateRun, h]
  simp only [State.takeIn, no_scale _ (isScaleOf_report h), noteQueue_none hrun, State.takePkt, h]

/-- Words of which the manual says no more are kept in the inbox. -/
theorem takeIn_words {s : State} {p : Pkt} (k : IslandNo) (q : BitVec 16) (h : p.cargo = .words) :
    s.takeIn k q p = s.onIsl k fun i => { i with inbox := i.inbox ++ [(q, p)] } := by
  simp only [State.takeIn, no_scale _ (isScaleOf_words h), State.takePkt, h]

/-- PACKET_CONSUME of a front packet that its island can take: it is read out, and what was read is taken in. -/
theorem packetConsume_next {s : State} {x : QuadNo} {q : BitVec 16} {p : Pkt} {r : List Pkt} (o : ParityObs)
    (hp : ((s.quad x).queue q.toNat).packets = p :: r) (hfor : takesFor (queueOwner x q.toNat) q.toNat = true) (htake : s.canTake p = true)
    (howner : s.awake (queueOwner x q.toNat) = true) (hquad : s.awake (xqIsl x) = true) (hv : p.visible = true)
    (hw : ((s.quad x).queue q.toNat).wedged = false) :
    exec (.packetConsume x q o) s = .next (match (s.readPacket x q.toNat o).1 with
      | none => (s.readPacket x q.toNat o).2
      | some p => (s.readPacket x q.toNat o).2.takeIn (queueOwner x q.toNat) q p) := by
  change execPacketConsume x q o s = _
  simp only [execPacketConsume, hp, htake]
  exact guarded_pos (by simp only [howner, hquad, hfor, hv, hw]; rfl)

/-- What the checkers of a pool make of a reading where no injection is armed: its failures are events of the pool's detector. -/
theorem poolCheck_unarmed {s : State} {x : QuadNo} {o : ParityObs} {p : Pkt} (pos : Nat)
    (h : (s.isl (xqIsl x)).armedFor 0x0301 (p.cells.getD o.inCell 0) = false) :
    ∃ es, s.poolCheck x o pos p = (o, s.onIsl (xqIsl x) fun i => { i with detQueue := i.detQueue ++ es }) ∧
      es = parityEvents o (p.cells.getD o.inCell 0) p.words.length false := by
  have hj : (if pos < p.words.length then s.inject (xqIsl x) 0x0301 (p.cells.getD o.inCell 0) else (false, s)) = (false, s) := by
    simp only [State.inject, h, Bool.false_eq_true, if_false, ite_self]
  refine ⟨_, ?_, rfl⟩
  unfold State.poolCheck
  simp only [hj, Bool.false_eq_true, if_false]
  split
  next he => rw [he, State.onIsl_of_eq (List.append_nil _ ▸ rfl)]
  next => rfl

/-- As many events as words failed, where the length word and the link did not (R34, R450). -/
theorem parityEvents_words (o : ParityObs) (cell n : Nat) (hl : o.lenBytes = 0) (hk : o.link = false) (hw : ∀ i ∈ o.words, i < n) :
    parityEvents o cell n false =
      List.replicate o.words.length { code := 0x0301, inst := BitVec.ofNat 16 cell, arg := BitVec.ofNat 64 cell } := by
  have hall : o.words.filter (· < n) = o.words := List.filter_eq_self.2 fun i hi => by simpa using hw i hi
  simp only [parityEvents, hall, hl, hk, if_true, Bool.toNat_false, Nat.add_zero]
  split
  next h => rw [h, List.replicate_zero]
  next h => rw [← List.replicate_succ, Nat.sub_add_cancel (by omega)]

/-- A word as delivered carries its poison, and that of a failure of its own (R33). -/
theorem parityApply_getElem? (o : ParityObs) (l : List PWord) (i : Nat) :
    (parityApply o l)[i]? = l[i]?.map fun w => { w with poison := w.poison || o.words.contains i } := by
  unfold parityApply
  rw [List.getElem?_map, List.getElem?_zipIdx, Option.map_map]
  congr 1
  funext w
  cases w
  simp only [Function.comp_apply, Nat.zero_add]
  split <;> simp_all

theorem parityApply_length (o : ParityObs) (l : List PWord) : (parityApply o l).length = l.length := by simp [parityApply]

/-- The state once the checkers of quadrant x have found words of the front packet failing: the failures are events of the pool's
detector, and the packet is out of its queue. -/
def State.readOut (s : State) (x : QuadNo) (q : Nat) (o : ParityObs) (p : Pkt) : State :=
  (s.onIsl (xqIsl x) fun i => { i with
      detQueue := i.detQueue ++ parityEvents o (p.cells.getD o.inCell 0) p.words.length false }).onQuad x fun d =>
    (d.setQueue q ((d.queue q).pop o)).settle

/-- A packet whose length word and links are sound, and some of whose words fail, is delivered with those words poisoned (R33). -/
theorem readPacket_poisoned {s : State} {x : QuadNo} {q : Nat} {o : ParityObs} {p : Pkt} {r : List Pkt}
    (harm : (s.isl (xqIsl x)).armedFor 0x0301 (p.cells.getD o.inCell 0) = false) (hp : ((s.quad x).queue q).packets = p :: r)
    (hlen : p.length.toNat = p.words.length) (hab : p.abandoned = false) (hb : o.lenBytes = 0) (hx : o.lenXor = 0) (hl : o.link = false) :
    s.readPacket x q o = (some { p with words := parityApply o p.words }, s.readOut x q o p) := by
  obtain ⟨es, hc, rfl⟩ := poolCheck_unarmed (firstWordOf o) harm
  have htake : (parityApply o p.words).take p.length.toNat = parityApply o p.words :=
    List.take_of_length_le (by rw [hlen, parityApply_length])
  unfold State.readPacket
  simp only [hp, hc, lengthTaken_clean o p hb hx hl, hab, htake, hb, bne_self_eq_false, Bool.or_false, Bool.false_eq_true, if_false]
  rfl

/-- A packet whose length cannot be recovered wedges its queue, which keeps it (R35). -/
theorem readPacket_wedged {s : State} {x : QuadNo} {q : Nat} {o : ParityObs} {p : Pkt} {r : List Pkt}
    (harm : (s.isl (xqIsl x)).armedFor 0x0301 (p.cells.getD o.inCell 0) = false) (hp : ((s.quad x).queue q).packets = p :: r)
    (hlost : lengthTaken o p.lengthWord = none) :
    s.readPacket x q o = (none, (s.onIsl (xqIsl x) fun i => { i with
      detQueue := i.detQueue ++ parityEvents o (p.cells.getD o.inCell 0) p.words.length false }).wedge x q) := by
  obtain ⟨es, hc, rfl⟩ := poolCheck_unarmed (firstWordOf o) harm
  unfold State.readPacket
  simp only [hp, hc, hlost]

@[simp] theorem Island.emit_inbox (i : Island) (k : IslandNo) (n : Note) : (i.emit k n).inbox = i.inbox := by rw [Island.emit_eq]

/-- Events of a detector leave what an island has taken in. -/
theorem inbox_onIsl (s : State) (j k : IslandNo) (f : Island → Island) (h : ∀ i, (f i).inbox = i.inbox) :
    ((s.onIsl j f).isl k).inbox = (s.isl k).inbox := by
  rw [State.onIsl_isl]
  split
  · exact h _
  · rfl

/-- Settles O18: what is read out of the pool is `readPacket`'s answer (`readPacket_clean`, `readPacket_poisoned`, `readPacket_wedged`),
and what the island makes of it is `takeIn`'s. -/
theorem packetsAreRead : Obligations.PacketsAreRead := by
  unfold Obligations.PacketsAreRead
  refine ⟨?clean, fun k q s p r h => ⟨_, takeIn_report k q h, rfl, rfl⟩, ?words, ?full⟩
  case clean =>
    intro x q o s p r hclean hp hfor htake howner hquad hv hw
    have hexec := packetConsume_next o hp hfor htake howner hquad hv hw
    rw [readPacket_clean hclean hp] at hexec
    refine ⟨s.onQuad x fun d => (d.setQueue q.toNat ((d.queue q.toNat).pop o)).settle, hexec.trans ?_, ?_, onlyQuad_onQuad ..⟩
    · cases p.abandoned <;> rfl
    · rw [State.onQuad_quad_self, Quad.queue_settle, Quad.queue_setQueue, CQueue.pop_packets, hp, List.tail_cons]
  case words =>
    intro x q o s p r harm hp hfor hcargo hlen howner hquad hv hw
    have htake : s.canTake p = true := by simp [State.canTake, hcargo]
    have hexec := packetConsume_next o hp hfor htake howner hquad hv hw
    refine ⟨fun hab hb hx hl hwords => ?_, fun hlost => ?_⟩
    · rw [readPacket_poisoned harm hp hlen hab hb hx hl] at hexec
      dsimp only at hexec
      rw [takeIn_words _ _ (p := { p with words := parityApply o p.words }) hcargo] at hexec
      refine ⟨_, { p with words := parityApply o p.words }, hexec, ?_, parityApply_length .., fun i hi => ?_, ?_⟩
      · rw [State.onIsl_isl_self, State.readOut, State.onQuad_isl, inbox_onIsl]; intro i; rfl
      · simp only [List.getD_eq_getElem?_getD, parityApply_getElem?, List.getElem?_eq_getElem hi, Option.map_some, Option.getD_some, and_self]
      · rw [← parityEvents_words o _ p.words.length hb hl hwords, State.onIsl_isl]
        split <;> rw [State.readOut, State.onQuad_isl, State.onIsl_isl_self]
    · rw [readPacket_wedged harm hp hlost] at hexec
      refine ⟨_, hexec, ?_, ?_, ?_, fun y hy => ?_⟩
      · rw [State.wedge, State.emit_quad, quad_setQueue_queue]
      · rw [State.wedge, State.emit_quad, quad_setQueue_queue]; exact hp
      · rw [State.wedge, State.emit, inbox_onIsl _ _ _ _ fun _ => Island.emit_inbox .., State.onQuad_isl, inbox_onIsl]
        exact fun _ => rfl
      · rw [State.wedge, State.emit_quad, State.onQuad_quad, if_neg (Ne.symm hy), State.onIsl_quad]
  case full =>
    intro x q w s hex hquad hopen hadm
    refine ⟨_, guarded_pos (by simp [hex, hquad, hopen, hadm]), onlyQuad_onQuad .., ?_⟩
    rw [State.onQuad_quad_self, Quad.queue_setQueue]

end Sys2Proof.Machine
end

section
/-! PROOFS. Updates of one component composed, and updates that change nothing. -/

namespace Sys2Proof.Machine

theorem State.onSlice_onSlice (s : State) (p : SliceNo) (f g : Slice → Slice) :
    (s.onSlice p f).onSlice p g = s.onSlice p fun x => g (f x) := by
  simp [State.onSlice, Vector.set_set]

theorem State.onMp_onMp (s : State) (p : SliceNo) (f g : Mp → Mp) : (s.onMp p f).onMp p g = s.onMp p fun m => g (f m) :=
  State.onSlice_onSlice ..

@[simp] theorem State.onMp_slice_self (s : State) (p : SliceNo) (f : Mp → Mp) :
    (s.onMp p f).slice p = { s.slice p with mp := f (s.slice p).mp } := State.onSlice_slice_self ..

theorem State.onSlice_slice_other (s : State) {p q : SliceNo} (f : Slice → Slice) (h : q ≠ p) : (s.onSlice p f).slice q = s.slice q := by
  rw [State.onSlice_slice, if_neg (Ne.symm h)]

theorem State.onMp_slice_other (s : State) {p q : SliceNo} (f : Mp → Mp) (h : q ≠ p) : (s.onMp p f).slice q = s.slice q :=
  State.onSlice_slice_other s _ h

theorem onlySlice_onMp (s : State) (p : SliceNo) (f : Mp → Mp) : OnlySlice p s (s.onMp p f) := onlySlice_onSlice ..

end Sys2Proof.Machine
end

section
/-! PROOFS. The memory port (R47 to R62): its level, and which requests it issues. -/

namespace Sys2Proof.Machine

/-! The level of mp_up. -/

/-- A port's return to the interleave touches what the Ephemeris knows of it, and nothing else. -/
theorem backIn_eq (s : State) (p : SliceNo) : s.backIn p = { s with eph := (s.backIn p).eph } := by
  unfold State.backIn
  dsimp only
  split <;> rfl

theorem backIn_slice (s : State) (p q : SliceNo) : (s.backIn p).slice q = s.slice q := by rw [backIn_eq]; rfl
theorem backIn_islands (s : State) (p : SliceNo) : (s.backIn p).islands = s.islands := by rw [backIn_eq]
theorem backIn_cfg (s : State) (p : SliceNo) : (s.backIn p).cfg = s.cfg := by rw [backIn_eq]

/-- The port of slice p once its step 5 has ended; CFG notes it, and nothing else changes. -/
theorem portEnds_slice (s : State) (p q : SliceNo) (up : Bool) :
    (s.portEnds p up).slice q = (s.onMp p fun m => { m with leftOut := !up }).slice q := rfl

theorem portEnds_portsUp (s : State) (p : SliceNo) (up : Bool) : (s.portEnds p up).cfg.portsUp.getLsbD p.val = up :=
  (getLsbD_setBit s.cfg.portsUp p.val up p.val p.isLt).trans (if_pos rfl)

/-- Settles O20: each row is its guarded effect; of the end of step 5, `portEnds` and `backIn` say what it touches. -/
theorem portLevelRows : Obligations.PortLevelRows := by
  unfold Obligations.PortLevelRows
  refine ⟨fun p s h => guarded_pos (by simp [h]), ?stable, fun p s h => guarded_pos h, ?notReady, ?downForced⟩
  case stable =>
    intro p s hlive hpin hup hsince hen
    refine ⟨_, guarded_pos (by simp [hlive, hpin, hup, hsince, hen]), ?_, fun h => ?_, fun h => ?_, fun q hq => ?_, ?_⟩
    · split
      next h => rw [State.onMp_slice_self]; simp [h]
      next h =>
        rw [Bool.not_eq_true] at h
        rw [backIn_slice, portEnds_slice, State.onMp_slice_self, State.onMp_slice_self]
        simp [h]
    · rw [if_pos h]; exact onlySlice_onMp ..
    · rw [h, if_neg (by decide), backIn_cfg]; exact portEnds_portsUp ..
    · split
      · exact State.onMp_slice_other s _ hq
      · rw [backIn_slice, portEnds_slice, State.onMp_slice_other _ _ hq, State.onMp_slice_other _ _ hq]
    · split
      · rfl
      · rw [backIn_islands]; rfl
  case notReady =>
    intro p s hlive hstep hup hel
    refine ⟨_, guarded_pos (by simp [-Nat.reducePow, hlive, hstep, hup, hel]), ?_, rfl, portEnds_portsUp .., fun q hq => ?_, rfl, rfl⟩
    · rw [portEnds_slice, State.onMp_slice_self, State.onMp_slice_self]; rfl
    · rw [portEnds_slice, State.onMp_slice_other _ _ hq, State.onMp_slice_other _ _ hq]
  case downForced =>
    intro p s hlive hpin hdown hel
    refine (guarded_pos (by simp [-Nat.reducePow, hlive, hpin, hdown, hel])).trans (congrArg Host.Outcome.next ?_)
    rw [State.answerAll, State.onMp_onMp, State.onMp_slice_self]

/-! Which requests are issued. -/

/-- The memory port with its guard cache left out. -/
def Mp.bare (m : Mp) : Mp := { m with cache := [] }

theorem bare_setGuard (m : Mp) (e : GuardEnt) : (m.setGuard e).bare = m.bare := rfl

/-- Two ports that differ in their guard caches alone have the same requests, tags and data. -/
theorem mp_of_bare {a b : Mp} (h : a.bare = b.bare) : a.waiting = b.waiting ∧ a.tags = b.tags ∧ a.wdata = b.wdata ∧ a.ahead = b.ahead :=
  have hw : a.bare.waiting = b.bare.waiting := by rw [h]
  have ht : a.bare.tags = b.bare.tags := by rw [h]
  have hd : a.bare.wdata = b.bare.wdata := by rw [h]
  have ha : a.bare.ahead = b.bare.ahead := by rw [h]
  ⟨hw, ht, hd, ha⟩

/-- What a write puts on the port: a data line enciphered, another line as it is (R169). -/
def Slice.beatOf (x : Slice) (r : MemReq) : List Byte :=
  if r.isData && r.why != .refresh then
    xts true ((x.keys[Fin.ofNat 16 r.id.key]).getD []) (xtsTweak r.id.oid r.id.plate r.id.seg.code r.id.line) (fit 512 r.data)
  else fit 512 r.data

/-- A written extent touches the slices' home records only. -/
theorem touch_mp (s : State) (p q : SliceNo) (a : Nat) : ((s.touch p a).slice q).mp = (s.slice q).mp := by
  unfold State.touch
  dsimp only
  split
  · rw [State.onSlice_slice]
    split <;> rw [State.onSlice_slice] <;> split <;> rfl
  · rw [State.onSlice_slice]
    split <;> rfl

theorem inject_slice (s : State) (k : IslandNo) (c i : Nat) (q : SliceNo) : (s.inject k c i).2.slice q = s.slice q := by
  rw [State.inject_eq]; rfl

/-- The port with waiting request i issued, its guard cache aside (R48). -/
def Mp.issued (m : Mp) (i : Nat) (t : BitVec 8) (beat : List Byte) (e : TagUse) : Mp :=
  { m with
    waiting := m.waiting.eraseIdx i, useNo := m.useNo + 1, tags := m.tags ++ [e]
    wdata := if e.req.wr then m.wdata ++ [(t, beat)] else m.wdata }

/-- The tag as it is outstanding for a request issued now: with the guard of the line before it, and an injected timeout (R175, R494). -/
def State.tagOf (s : State) (p : SliceNo) (r : MemReq) (t : BitVec 8) : TagUse :=
  { tag := t, req := r, at_ := s.now (psIsl p)
    prevGuard := r.prev.getD (match (s.slice p).mp.guardEnt (guardOf r.addr.toNat) with
      | some e => e.guards.getD (r.addr.toNat % 128) 0 | none => 0)
    injTimeout := !r.wr && (s.inject (psIsl p) 0x0104 0).1 }

/-- Issuing waiting request i, as an update of the port: what it does to the port but for its guard cache is `Mp.issued`. -/
theorem issue_eq {s : State} {p : SliceNo} {i : Nat} {r : MemReq} (t : BitVec 8) (hr : (s.slice p).mp.waiting[i]? = some r) :
    ∃ f : Mp → Mp, (∀ m, (f m).bare = (m.issued i t ((s.slice p).beatOf r) (s.tagOf p r t)).bare) ∧
      s.issue p i t = (let s1 := (if r.wr then s else (s.inject (psIsl p) 0x0104 0).2).onMp p f
        if r.wr && r.isData then s1.touch p r.addr.toNat else s1) := by
  unfold State.issue
  simp only [hr]
  refine ⟨_, fun m => ?_, rfl⟩
  split
  · rfl
  · split <;> rfl

/-- Issuing waiting request i (R48): the request goes from those that wait to those outstanding, and a write's data to the data to
transfer. -/
theorem issue_mp {s : State} {p : SliceNo} {i : Nat} {r : MemReq} (t : BitVec 8) (hr : (s.slice p).mp.waiting[i]? = some r) :
    ((s.issue p i t).slice p).mp.bare = ((s.slice p).mp.issued i t ((s.slice p).beatOf r) (s.tagOf p r t)).bare := by
  obtain ⟨f, hf, h⟩ := issue_eq t hr
  rw [h, ← hf]
  have hs : (if r.wr then s else (s.inject (psIsl p) 0x0104 0).2).slice p = s.slice p := by
    split
    · rfl
    · exact inject_slice ..
  dsimp only
  split
  · rw [touch_mp, State.onMp_slice_self, hs]
  · rw [State.onMp_slice_self, hs]

/-- A read touches no other slice. -/
theorem issue_read_other {s : State} {p q : SliceNo} {i : Nat} {r : MemReq} (t : BitVec 8) (hr : (s.slice p).mp.waiting[i]? = some r)
    (hwr : r.wr = false) (hq : q ≠ p) : (s.issue p i t).slice q = s.slice q := by
  obtain ⟨f, -, h⟩ := issue_eq t hr
  rw [h]
  simp only [hwr, Bool.false_and, Bool.false_eq_true, if_false]
  rw [State.onMp_slice_other _ _ hq, inject_slice]

/-- A data write of a device that is not joint touches no other slice, and nothing but slices. -/
theorem issue_write_only {s : State} {p : SliceNo} {i : Nat} {r : MemReq} (t : BitVec 8) (hr : (s.slice p).mp.waiting[i]? = some r)
    (hwr : r.wr = true) (hdata : r.isData = true) (hjoint : s.isJoint p = false) : OnlySlice p s (s.issue p i t) := by
  obtain ⟨f, -, h⟩ := issue_eq t hr
  have hj : (s.onMp p f).isJoint p = false := hjoint
  rw [h]
  simp only [hwr, hdata, Bool.and_self, if_true, State.touch, hj, Bool.false_eq_true, if_false]
  rw [State.onMp, State.onSlice_onSlice]
  exact onlySlice_onSlice ..

/-- The request that may be issued is of the kind asked for, and it waits (R50). -/
theorem issuable_kind {s : State} {p : SliceNo} {wr : Bool} {i : Nat} {r : MemReq} (h : s.issuable p wr = some i)
    (hr : (s.slice p).mp.waiting[i]? = some r) : r.wr = wr := by
  have := List.find?_some h
  simp only [hr, Bool.and_eq_true, beq_iff_eq] at this
  exact this.1.1.1.1.1.1

/-- What a port that issues does: the read, then the write. -/
def State.issueBoth (s : State) (p : SliceNo) (rd wr : Option (BitVec 8)) : State :=
  let s1 := match rd, s.issuable p false with | some t, some i => s.issue p i t | _, _ => s
  match wr with | some t => s1.writeIssue p t | none => s1

/-- MP_REQUEST_ISSUE on a port that issues: the read, then the write. -/
theorem requestIssue_next {s : State} {p : SliceNo} {rd wr : Option (BitVec 8)} (hlive : s.portLive p = true) (hup : (s.slice p).mp.up = true)
    (hshut : (s.slice p).devShut = false) (hdown : (s.slice p).mp.downForced = false) (hany : (rd.isSome || wr.isSome) = true)
    (hrd : ∀ t, rd = some t → (s.slice p).mp.tagFree t = true ∧ (s.issuable p false).isSome = true)
    (hwr : ∀ t, wr = some t → s.writeOk p t = true ∧ rd ≠ wr) :
    exec (.mpRequestIssue p rd wr) s = .next (s.issueBoth p rd wr) := by
  change execMpRequestIssue p rd wr s = _
  unfold execMpRequestIssue
  simp only [hshut, hdown, Bool.or_self, Bool.false_eq_true, if_false]
  refine guarded_pos ?_
  simp only [hlive, hup, hany, Bool.true_and, Bool.and_eq_true]
  refine ⟨?_, ?_⟩
  · cases rd with
    | none => rfl
    | some t => exact Bool.and_eq_true_iff.2 (hrd t rfl)
  · cases wr with
    | none => rfl
    | some t =>
      obtain ⟨hok, hne⟩ := hwr t rfl
      simpa [hok] using hne

/-- With no write data gone ahead, the next write that may be issued takes the tag. -/
theorem writeIssue_next {s : State} {p : SliceNo} {i : Nat} (t : BitVec 8) (ha : (s.slice p).mp.ahead = []) (hi : s.issuable p true = some i) :
    s.writeIssue p t = s.issue p i t := by simp only [State.writeIssue, ha, hi]

theorem writeOk_next {s : State} {p : SliceNo} {t : BitVec 8} (ha : (s.slice p).mp.ahead = []) (hf : (s.slice p).mp.tagFree t = true)
    (hi : (s.issuable p true).isSome = true) : s.writeOk p t = true := by simp only [State.writeOk, ha, hf, hi, Bool.and_self]

/-- No tag outstanding bears a free tag's number. -/
theorem tag_ne_of_free {m : Mp} {t : BitVec 8} (h : m.tagFree t = true) : ∀ u ∈ m.tags, (u.tag == t) = false := by
  simp only [Mp.tagFree, Bool.not_eq_true', List.any_eq_false] at h
  exact fun u hu => Bool.eq_false_iff.2 (h u (List.mem_append_left _ hu))

/-- Data that go ahead of their request (R49): the write is issued under a tag drawn from the free ones, and stands ahead instead. -/
theorem writeDataBeat_ahead {s s1 : State} {p : SliceNo} {i : Nat} {t : BitVec 8} (hlive : s.portLive p = true)
    (hup : (s.slice p).mp.up = true) (hshut : (s.slice p).devShut = false) (hw : (s.slice p).mp.wdata = [])
    (hfresh : s.freshTag (s.slice p).mp.tagFree = (some t, s1)) (hi : s.issuable p true = some i) :
    exec (.mpWriteDataBeat p) s = .next ((s1.issue p i t).onMp p fun m =>
      { m with wdata := [], tags := m.tags.filter (fun u => u.tag != t), ahead := m.ahead ++ m.tags.filter fun u => u.tag == t }) := by
  change execMpWriteDataBeat p s = _
  unfold execMpWriteDataBeat
  simp only [hw, hfresh, hi]
  exact guarded_pos (by simp [hlive, hup, hshut])

/-- Settles O21: `issue_mp` says what issuing leaves of the port, and `requestIssue_next` which requests a row issues. -/
theorem portIssuesRequests : Obligations.PortIssuesRequests := by
  unfold Obligations.PortIssuesRequests
  refine ⟨?read, ?write, ?both, ?ahead, ?inside, ?beat, ?dataAhead⟩
  case read =>
    intro p t s i r hlive hup hshut hdown hfree hi hr
    have hwr := issuable_kind hi hr
    have hexec := requestIssue_next (rd := some t) (wr := none) hlive hup hshut hdown rfl (fun u hu => by cases hu; simp [hfree, hi]) nofun
    simp only [State.issueBoth, hi] at hexec
    obtain ⟨hw, ht, hd, -⟩ := mp_of_bare (issue_mp t hr)
    refine ⟨_, hexec, hw, hd.trans ?_, ⟨s.tagOf p r t, ht, rfl, rfl, rfl, rfl⟩, fun q hq => issue_read_other t hr hwr hq⟩
    show (if r.wr then _ else _) = _
    rw [hwr, if_neg (by decide)]
  case write =>
    intro p t s i r hlive hup hshut hdown hfree hi ha hr hdata hwhy
    have hwr := issuable_kind hi hr
    have hexec := requestIssue_next (rd := none) (wr := some t) hlive hup hshut hdown rfl nofun
      (fun u hu => by cases hu; exact ⟨writeOk_next ha hfree (by simp [hi]), nofun⟩)
    simp only [State.issueBoth, writeIssue_next t ha hi] at hexec
    obtain ⟨hw, ht, hd, -⟩ := mp_of_bare (issue_mp t hr)
    refine ⟨_, hexec, issue_write_only t hr hwr hdata, hw, hd.trans ?_, ⟨s.tagOf p r t, ht, rfl, rfl, rfl, rfl⟩⟩
    show (if r.wr then _ ++ [(t, (s.slice p).beatOf r)] else _) = _
    have henc : (r.isData && r.why != .refresh) = true := by simp [hdata, hwhy]
    rw [if_pos hwr, Slice.beatOf, if_pos henc]
  case both =>
    intro p a b s i j hlive hup hshut hdown hfa hfb hab ha hi hw hj
    obtain ⟨r, hr⟩ : ∃ r, (s.slice p).mp.waiting[i]? = some r := by
      have := List.find?_some hi
      cases hr : (s.slice p).mp.waiting[i]? with
      | none => simp [hr] at this
      | some r => exact ⟨r, rfl⟩
    have ha' : ((s.issue p i a).slice p).mp.ahead = [] := (mp_of_bare (issue_mp a hr)).2.2.2.trans ha
    have hexec := requestIssue_next (rd := some a) (wr := some b) hlive hup hshut hdown rfl (fun u hu => by cases hu; simp [hfa, hi])
      (fun u hu => by cases hu; exact ⟨writeOk_next ha hfb hw, by simpa using hab⟩)
    simp only [State.issueBoth, hi, writeIssue_next b ha' hj] at hexec
    exact hexec
  case ahead =>
    intro p s u rest hlive hup hshut hdown ha
    have hok : s.writeOk p u.tag = true := by simp only [State.writeOk, ha, beq_self_eq_true]
    have hexec := requestIssue_next (rd := none) (wr := some u.tag) hlive hup hshut hdown rfl nofun
      (fun t ht => by cases ht; exact ⟨hok, nofun⟩)
    simp only [State.issueBoth, State.writeIssue, ha] at hexec
    exact hexec
  case inside =>
    intro p rd wr s r rest hlive hclosed ha hw
    change execMpRequestIssue p rd wr s = _
    unfold execMpRequestIssue
    simp only [Bool.or_eq_true, if_pos hclosed, ha, hw]
    exact guarded_pos hlive
  case beat =>
    intro p s b rest hlive hw
    change execMpWriteDataBeat p s = _
    unfold execMpWriteDataBeat
    simp only [hw]
    exact guarded_pos hlive
  case dataAhead =>
    intro p t s i r hlive hup hshut hfree hw hi hr
    obtain ⟨v, hv, hfresh⟩ := freshTag_some (s := s) hfree
    generalize hs1 : ({ s with freeIdx := s.freeIdx + 1 } : State) = s1 at hfresh
    have hslice : s1.slice p = s.slice p := hs1 ▸ rfl
    have hexec := writeDataBeat_ahead hlive hup hshut hw hfresh hi
    obtain ⟨hwait, htags, -, hahead⟩ := mp_of_bare (issue_mp v (hslice ▸ hr))
    rw [hslice] at hwait htags hahead
    have hne := tag_ne_of_free hv
    have hold : (s.slice p).mp.tags.filter (fun u => u.tag != v) = (s.slice p).mp.tags :=
      List.filter_eq_self.2 fun u hu => by simp [bne, hne u hu]
    have hnew : (s.slice p).mp.tags.filter (fun u => u.tag == v) = [] :=
      List.filter_eq_nil_iff.2 fun u hu => by simp [hne u hu]
    have htag : (s1.tagOf p r v).tag = v := rfl
    refine ⟨_, hexec, ?_⟩
    rw [State.onMp_slice_self]
    dsimp only
    rw [hwait, htags, hahead]
    simp only [Mp.issued, List.filter_append, hold, hnew, List.filter_cons, List.filter_nil, htag]
    exact ⟨trivial, trivial, by simp, s1.tagOf p r v, by simp, hv, rfl, rfl⟩

end Sys2Proof.Machine
end

section
/-! PROOFS. Responses of the memory port and its timeouts (R50 to R57). -/

namespace Sys2Proof.Machine

/-- The port without the request of a tag. -/
def State.answeredTag (s : State) (p : SliceNo) (tag : BitVec 8) : State :=
  s.onMp p fun m => { m with tags := m.tags.filter fun u => u.tag != tag }

theorem tag_of_find {l : List TagUse} {tag : BitVec 8} {t : TagUse} (h : l.find? (fun t => t.tag == tag) = some t) : t.tag = tag := by
  simpa using List.find?_some h

/-- Where no arming stands at the island, no injection applies to a read (R494). -/
theorem injectRead_unarmed {s : State} {p : SliceNo} (h : (s.isl (psIsl p)).armed = none) : s.injectRead p = (0, s) := by
  simp [State.injectRead, Island.armedFor, h]

/-- A response to a read outstanding, with no injection: its line goes on by the code, or it is issued again (R52). -/
theorem mpReadResponse_taken {s : State} {p : SliceNo} {tag : BitVec 8} {t : TagUse} (data : List Byte) (poison : Bool) (err : BitVec 4)
    (hlive : s.portLive p = true) (harm : (s.isl (psIsl p)).armed = none) (hfind : (s.slice p).mp.tags.find? (fun t => t.tag == tag) = some t)
    (hrd : t.req.wr = false) (hout : t.timedOut = false) (hinj : t.injTimeout = false) :
    exec (.mpReadResponse p tag data poison err) s = .next (
      if readCode err poison t.req.retries = 5 then (s.answeredTag p tag).reissue p t
      else (s.answeredTag p tag).readAnswered p t (readCode err poison t.req.retries) false data) := by
  have harm' : ((s.answeredTag p tag).isl (psIsl p)).armed = none := harm
  rw [exec_mpReadResponse, execMpReadResponse, guarded_pos hlive, hfind]
  simp only [hrd, hout, hinj, Bool.false_eq_true, if_false]
  rw [show s.onMp p (fun m => { m with tags := m.tags.filter fun u => u.tag != tag }) = s.answeredTag p tag from rfl,
    injectRead_unarmed harm']
  rfl

/-- A failed read is counted, is an event of its detector, and its line is delivered poisoned (R53). -/
theorem readAnswered_bad (s : State) (p : SliceNo) (t : TagUse) {code : Nat} (h : 2 ≤ code) (data : List Byte) :
    s.readAnswered p t code false data = ((s.bump (psIsl p) psMpUncorr).event (psIsl p) {
      code := if code = 4 then 0x0103 else 0x0102, inst := 0, oid := t.req.id.oid, plate := t.req.id.plate
      arg := mpArg t.tag t.req.addr }).lineRead p t.req [] true false [] := by
  by_cases h4 : code = 4
  · subst h4
    rfl
  · rw [if_neg h4]
    exact (if_neg h4).trans (if_pos h)

/-- The codes that make a read fail (R52, R53). -/
theorem readCode_bad {err : BitVec 4} {poison : Bool} {n : Nat} (h : ((err = 0 ∨ err = 1) ∧ poison = true) ∨ err = 2 ∨ err = 3 ∨
    (err = 5 ∧ 4 ≤ n) ∨ 5 < err.toNat) : readCode err poison n = 2 ∨ readCode err poison n = 3 := by
  rcases h with ⟨rfl | rfl, rfl⟩ | rfl | rfl | ⟨rfl, h⟩ | h
  · exact .inl rfl
  · exact .inl rfl
  · exact .inl rfl
  · exact .inr rfl
  · exact .inl (if_neg (Nat.not_lt.2 h))
  · left
    unfold readCode
    split
    case h_7 => rfl
    all_goals omega

/-- What the response to a write outstanding leads to, by its code (R52). -/
def State.writeAnswered (u : State) (p : SliceNo) (t : TagUse) (tag : BitVec 8) (err : BitVec 4) : State :=
  let ev (c : BitVec 16) : DetEvent := { code := c, inst := 0, oid := t.req.id.oid, plate := t.req.id.plate, arg := mpArg tag t.req.addr }
  match err.toNat with
  | 0 => ((u.bump (psIsl p) psMpWrLines).bridgeLine p).lineWrote p t.req false t.prevGuard
  | 1 => ((((u.bump (psIsl p) psMpWrLines).bridgeLine p).bump (psIsl p) psMpCorr).event (psIsl p) (ev 0x0101)).lineWrote p t.req false
      t.prevGuard
  | 5 => if t.req.retries < 4 then u.reissue p t else (u.event (psIsl p) (ev 0x0103)).lineWrote p t.req true t.prevGuard
  | _ => (u.event (psIsl p) (ev 0x0103)).lineWrote p t.req true t.prevGuard

theorem mpWriteResponse_taken {s : State} {p : SliceNo} {tag : BitVec 8} {t : TagUse} (err : BitVec 4)
    (hlive : s.portLive p = true) (hfind : (s.slice p).mp.tags.find? (fun t => t.tag == tag) = some t)
    (hwr : t.req.wr = true) (hout : t.timedOut = false) :
    exec (.mpWriteResponse p tag err) s = .next ((s.answeredTag p tag).writeAnswered p t tag err) := by
  rw [exec_mpWriteResponse, execMpWriteResponse, guarded_pos hlive, hfind]
  simp only [hwr, hout, Bool.not_true, Bool.false_eq_true, if_false]
  rfl

/-- Every other code is a failure of the device (R52). -/
theorem writeAnswered_bad (u : State) (p : SliceNo) (t : TagUse) (tag : BitVec 8) {err : BitVec 4}
    (h : err = 2 ∨ err = 3 ∨ err = 4 ∨ (err = 5 ∧ 4 ≤ t.req.retries) ∨ 5 < err.toNat) :
    u.writeAnswered p t tag err = (u.event (psIsl p) {
      code := 0x0103, inst := 0, oid := t.req.id.oid, plate := t.req.id.plate, arg := mpArg tag t.req.addr }).lineWrote p t.req true
        t.prevGuard := by
  rcases h with rfl | rfl | rfl | ⟨rfl, h⟩ | h
  · rfl
  · rfl
  · rfl
  · exact if_neg (Nat.not_lt.2 h)
  · unfold State.writeAnswered
    split
    next e => omega
    next e => omega
    next e => omega
    next => rfl

/-- Settles O23: a response is taken by its code (`mpReadResponse_taken`, `mpWriteResponse_taken`); the timeouts are their guarded
effects. -/
theorem responsesAreTaken : Obligations.ResponsesAreTaken := by
  unfold Obligations.ResponsesAreTaken
  refine ⟨⟨?late, ?read, ?write⟩, ?timeout, ?held⟩
  case late =>
    intro p tag data poison err s t hlive hfind hout
    refine ⟨fun hrd => ?_, fun hwr => ?_⟩
    · rw [exec_mpReadResponse, execMpReadResponse, guarded_pos hlive, hfind]
      simp only [hrd, hout, Bool.false_eq_true, if_false, if_true]
      rfl
    · rw [exec_mpWriteResponse, execMpWriteResponse, guarded_pos hlive, hfind]
      simp only [hwr, hout, Bool.not_true, Bool.false_eq_true, if_false, if_true]
      rfl
  case read =>
    intro p tag data s t hlive harm hfind hrd hout hinj u bad
    have htaken (poison : Bool) (err : BitVec 4) := mpReadResponse_taken data poison err hlive harm hfind hrd hout hinj
    have htag := tag_of_find hfind
    refine ⟨htaken false 0, htaken false 1, fun err poison h => ?_, fun poison => ?_, fun hr poison => ?_⟩
    · have hcode := readCode_bad h
      have h4 : readCode err poison t.req.retries ≠ 4 := by omega
      rw [htaken, if_neg (by omega), readAnswered_bad _ _ _ (by omega), if_neg h4, htag]
      rfl
    · have h4 : readCode 4 poison t.req.retries = 4 := rfl
      rw [htaken, h4, if_neg (by decide), readAnswered_bad _ _ _ (by decide), htag]
      rfl
    · have h5 : readCode 5 poison t.req.retries = 5 := if_pos hr
      rw [htaken, if_pos h5, State.reissue, State.answeredTag, State.onMp_onMp, hrd]
      rfl
  case write =>
    intro p tag s t hlive hfind hwr hout u ev
    have htaken (err : BitVec 4) := mpWriteResponse_taken err hlive hfind hwr hout
    refine ⟨htaken 0, htaken 1, fun err h => (htaken err).trans (congrArg _ (writeAnswered_bad _ p t tag h)), fun hr => ?_⟩
    refine (htaken 5).trans (congrArg Host.Outcome.next ?_)
    rw [show (s.answeredTag p tag).writeAnswered p t tag 5 = (s.answeredTag p tag).reissue p t from if_pos hr, State.reissue,
      State.answeredTag, State.onMp_onMp, hwr]
    rfl
  case timeout =>
    intro p tag s t hlive hfind hout hel
    refine ⟨_, rfl, ?_⟩
    change execMpTagTimeout p tag s = _
    unfold execMpTagTimeout
    simp only [hfind]
    exact guarded_pos (by simp [-Nat.reducePow, hlive, hout, hel])
  case held =>
    intro p n s r t hlive hr hel ht hout haddr hwr hlong
    change execMpHeldRequestTimeout p n s = _
    unfold execMpHeldRequestTimeout
    simp only [hr]
    have hany : ((s.slice p).mp.tags.any fun t => t.timedOut && t.req.conflicts r &&
        decide (2 ^ 21 ≤ elapsed (s.now (psIsl p)) t.at_)) = true := by
      refine List.any_eq_true.2 ⟨t, ht, ?_⟩
      rw [hout, decide_eq_true hlong, MemReq.conflicts, haddr]
      rcases hwr with h | h <;> simp [h]
    exact guarded_pos (by rw [hlive, hany, decide_eq_true hel]; rfl)

end Sys2Proof.Machine
end

section
/-! PROOFS. The export and import ports (R65 to R75). -/

namespace Sys2Proof.Machine

theorem State.onXp_slice_self (s : State) (p : SliceNo) (f : Xp → Xp) :
    (s.onXp p f).slice p = { s.slice p with xp := f (s.slice p).xp } := State.onSlice_slice_self ..

theorem State.onXp_slice_other (s : State) {p q : SliceNo} (h : q ≠ p) (f : Xp → Xp) : (s.onXp p f).slice q = s.slice q :=
  State.onSlice_slice_other s _ h

/-- One beat of the export transfers: what it leaves of the command's run is said by `exportBeat_next`. -/
def State.beatSent (s : State) (p : SliceNo) (i : Nat) (e : TxPlate) : State :=
  (s.onXp p fun x => { x with
    lastBeat := some e.next, txAt := s.now (psIsl p)
    tx := if e.next.last then x.tx.eraseIdx i else x.tx.set i { e with beat := e.beat + 1 } }).bump (psIsl p) psXpTxBeats

theorem exportBeat_next {p : SliceNo} {s : State} {i : Nat} {e : TxPlate} (hlive : s.pathLive p = true) (hnext : s.txNext p = some i)
    (he : (s.slice p).xp.tx[i]? = some e) : exec (.exportBeat p) s = .next (
      if e.next.last then (s.beatSent p i e).onRun e.run fun r => { r with plates := r.plates + 1 } else s.beatSent p i e) := by
  change execExportBeat p s = _
  unfold execExportBeat
  simp only [hnext, Option.bind_some, he, Option.map_some]
  exact guarded_pos hlive

theorem beatSent_isl_self (s : State) (p : SliceNo) (i : Nat) (e : TxPlate) :
    ((s.beatSent p i e).isl (psIsl p)).ctr = ((s.isl (psIsl p)).bump psXpTxBeats 1).ctr := by
  rw [State.beatSent, State.bump, State.onIsl_isl_self]
  rfl

theorem beatSent_isl_other (s : State) {p : SliceNo} {k : IslandNo} (h : k ≠ psIsl p) (i : Nat) (e : TxPlate) :
    (s.beatSent p i e).isl k = s.isl k := by
  rw [State.beatSent, State.bump, State.onIsl_isl, if_neg (Ne.symm h)]
  rfl

theorem beatSent_slice_self (s : State) (p : SliceNo) (i : Nat) (e : TxPlate) :
    ((s.beatSent p i e).slice p).xp = { (s.slice p).xp with
      lastBeat := some e.next, txAt := s.now (psIsl p)
      tx := if e.next.last then (s.slice p).xp.tx.eraseIdx i else (s.slice p).xp.tx.set i { e with beat := e.beat + 1 } } := by
  rw [State.beatSent, State.bump_slice, State.onXp_slice_self]

theorem beatSent_slice_other (s : State) {p q : SliceNo} (h : q ≠ p) (i : Nat) (e : TxPlate) : (s.beatSent p i e).slice q = s.slice q := by
  rw [State.beatSent, State.bump_slice, State.onXp_slice_other s h]

/-- The export of a command whose plate is being sent is abandoned (R70). -/
def State.exportAbandoned (s : State) (p : SliceNo) (e : TxPlate) (r : CmdRun) : State :=
  ((s.onXp p fun x => { x with tx := x.tx.filter (fun u => u.run != e.run), txAbandonSeen := true, txAt := s.now (psIsl p) }).bump
    (psIsl p) psXpTxAbandon (r.exports - r.plates)).failRun (some e.run) stPortTimeout

theorem exportAbandon_next {p : SliceNo} {s : State} {i : Nat} {e : TxPlate} {r : CmdRun} (hlive : s.pathLive p = true)
    (hnext : s.txNext p = some i) (he : (s.slice p).xp.tx[i]? = some e) (hel : 2 ^ 20 ≤ elapsed (s.now (psIsl p)) (s.slice p).xp.txAt)
    (hr : s.findRun e.run = some r) : exec (.exportAbandon p) s = .next (s.exportAbandoned p e r) := by
  change execExportAbandon p s = _
  unfold execExportAbandon
  simp only [hnext, Option.bind_some, he, hr]
  exact guarded_pos (by rw [hlive, decide_eq_true hel]; rfl)

/-- Settles O24: a beat is sent (`exportBeat_next`), and an export abandoned. -/
theorem exportPortRows : Obligations.ExportPortRows := by
  unfold Obligations.ExportPortRows
  refine ⟨?beat, ?abandon⟩
  case beat =>
    intro p s i e hlive hnext he
    refine ⟨_, exportBeat_next hlive hnext he, ?_⟩
    cases hlast : e.next.last with
    | false =>
      refine ⟨?_, beatSent_isl_self .., fun _ => ⟨?_, rfl⟩, fun h => by simp at h, fun q hq => beatSent_slice_other s hq .., fun k hk =>
        beatSent_isl_other s hk ..⟩ <;> simp [beatSent_slice_self, hlast]
    | true =>
      refine ⟨?_, beatSent_isl_self .., fun h => by simp at h, fun _ => ⟨?_, rfl⟩, fun q hq => beatSent_slice_other s hq .., fun k hk =>
        beatSent_isl_other s hk ..⟩ <;> simp [beatSent_slice_self, hlast]
  case abandon =>
    intro p s i e r hlive hnext he hel hr
    refine ⟨_, exportAbandon_next hlive hnext he hel hr, ?_⟩
    simp only [State.exportAbandoned, State.failRun_slice, State.bump_slice, State.onXp_slice_self, State.failRun_isl]
    refine ⟨trivial, trivial, ?_, rfl, fun q hq => State.onXp_slice_other s hq _⟩
    rw [State.bump, State.onIsl_isl_self]
    rfl

/-- A beat that breaks R72 and is not the last of its plate: what is left of the plate is discarded (R73). -/
theorem importBeat_bad {p : SliceNo} {stream beat : BitVec 8} {fmt : Fmt} (data scale : List Byte) (poison : Bool) {s : State}
    {t : ImpStream} (hlive : s.pathLive p = true) (hroom : ((s.importDrain p).slice p).xp.buf.length < 256)
    (ht : (s.slice p).xp.streams.find? (fun t => t.stream == stream) = some t) (hbad : beat.toNat ≠ t.beats ∨ fmt ≠ t.fmt) :
    exec (.importBeat p stream beat fmt data scale false poison) s = .next (
      ((((s.importDrain p).bump (psIsl p) psXpRxBeats).rxDiscard p (t.beats + 1)).dropBeats p t).onXp p fun x => x.onStream stream fun _ =>
        { t with discarding := true, broken := true, beats := 0, data := [], scale := [], at_ := s.now (psIsl p) }) := by
  change execImportBeat _ _ _ _ _ _ _ _ _ = _
  unfold execImportBeat
  rw [ht]
  refine (guarded_pos (by rw [hlive, decide_eq_true hroom]; rfl)).trans (congrArg _ (if_pos ?_))
  rcases hbad with h | h <;> simp [h]

/-- Settles O25: each row is its guarded effect; a beat is taken, discarded, or breaks its plate off. -/
theorem importPortRows : Obligations.ImportPortRows := by
  unfold Obligations.ImportPortRows
  refine ⟨?opens, ?unknown, ?taken, ?bad, ?timeout, ?idle⟩
  case opens =>
    intro p s w hlive hbegins hroom hw
    change execImportStreamOpen p s = _
    unfold execImportStreamOpen
    simp only [hw]
    exact guarded_pos (by simp [hlive, hbegins, hroom])
  case unknown =>
    intro p stream beat fmt data scale last poison s hlive hroom hno
    have hfind : (s.slice p).xp.streams.find? (fun t => t.stream == stream) = none :=
      List.find?_eq_none.2 fun t ht => by simpa using hno t ht
    change execImportBeat _ _ _ _ _ _ _ _ _ = _
    unfold execImportBeat
    rw [hfind]
    exact guarded_pos (by rw [hlive, decide_eq_true hroom]; rfl)
  case taken =>
    intro p stream data scale poison s t hlive hroom hfind hdis hlt hmore
    have hnum : (BitVec.ofNat 8 t.beats).toNat = t.beats := Nat.mod_eq_of_lt hlt
    change execImportBeat _ _ _ _ _ _ _ _ _ = _
    unfold execImportBeat
    rw [hfind]
    refine (guarded_pos (by rw [hlive, decide_eq_true hroom]; rfl)).trans (congrArg _ (if_neg ?_))
    simp [hdis, hnum, hmore]
  case bad =>
    intro p stream beat fmt data scale poison s t hlive hroom hfind hbad
    refine ⟨_, importBeat_bad data scale poison hlive hroom hfind hbad, ?_⟩
    simp only [State.dropBeats, State.rxDiscard, State.onXp_slice_self, State.bump_slice, State.importDrain, State.onSlice_slice_self]
    exact ⟨rfl, rfl, rfl, trivial⟩
  case timeout =>
    intro p stream s t hlive hfind hopen hel
    change execImportPlateTimeout p stream s = _
    unfold execImportPlateTimeout
    rw [hfind]
    exact guarded_pos (by rw [hlive, decide_eq_true hel]; rcases hopen with h | h <;> simp [h])
  case idle =>
    intro p stream s t hlive hfind hbeats hdis hel
    change execImportStreamIdleTimeout p stream s = _
    unfold execImportStreamIdleTimeout
    rw [hfind]
    exact guarded_pos (by rw [hlive, hbeats, hdis, decide_eq_true hel]; rfl)

end Sys2Proof.Machine
end

section
/-! PROOFS. The register channel and the key commits (R77 to R82, R177, R178, R524). -/

namespace Sys2Proof.Machine

theorem dropTag_new {s : State} {tag : BitVec 4} (ht : ∀ r ∈ s.cp.out, r.tag ≠ tag) : s.dropTag tag = s := by
  have hfilter : (s.cp.out.filter fun r => r.tag != tag) = s.cp.out := List.filter_eq_self.2 fun r hr => by simpa using ht r hr
  rw [State.dropTag, hfilter]

theorem perform_new {s : State} {tag : BitVec 4} (ask : RegAsk) (via : List (IslandNo × Crossing)) (ht : ∀ r ∈ s.cp.out, r.tag ≠ tag) :
    s.perform tag ask via = if ask.wr then (s.regWrite ask.addr ask.data via).2.answer tag (s.regWrite ask.addr ask.data via).1
      else s.readAnswer tag ask.addr via := by
  have h : s.perform tag ask via = if ask.wr then
    ((s.dropTag tag).regWrite ask.addr ask.data via).2.answer tag ((s.dropTag tag).regWrite ask.addr ask.data via).1
      else (s.dropTag tag).readAnswer tag ask.addr via := rfl
  rw [h, dropTag_new ht]

/-- A new request, before which none for its island is outstanding, takes effect (R80). -/
theorem registerWrite_first {s : State} {tag : BitVec 4} {ask : RegAsk} (via : List (IslandNo × Crossing)) (hup : s.chanUp = true)
    (ht : ∀ r ∈ s.cp.out, r.tag ≠ tag) (hfirst : s.cp.first tag ask = true) :
    exec (.registerWrite tag ask false via) s = .next (if ask.wr then
      (s.regWrite ask.addr ask.data via).2.answer tag (s.regWrite ask.addr ask.data via).1 else s.readAnswer tag ask.addr via) := by
  rw [registerWrite_new ask false via hup ht, hfirst, perform_new ask via ht]
  rfl

theorem regWrite_live {s : State} {addr : BitVec 21} {k : IslandNo} (w : W64) (via : List (IslandNo × Crossing))
    (hself : s.cfg.selfTest ≠ some false) (ha : addrIsland addr = some k) (hk : (s.isl k).live = true) :
    s.regWrite addr w via = s.crossed (crossingAt via k) (s.islandWrite k (addrOff addr) w) := by
  simp [State.regWrite, inBlockPage_of_addrIsland ha, hself, ha, hk]

theorem regRead_live {s : State} {addr : BitVec 21} {k : IslandNo} (hself : s.cfg.selfTest ≠ some false) (ha : addrIsland addr = some k)
    (hk : (s.isl k).live = true) : s.regRead addr = { code := ansOk, rdata := s.islandReg k (addrOff addr) } := by
  simp [State.regRead, inBlockPage_of_addrIsland ha, hself, ha, hk]

theorem readAnswer_live {s : State} {addr : BitVec 21} {k : IslandNo} (tag : BitVec 4) {via : List (IslandNo × Crossing)}
    (hself : s.cfg.selfTest ≠ some false) (ha : addrIsland addr = some k) (hk : (s.isl k).live = true) (hq : readsQueue addr = none)
    (hclean : crossingAt via k = .clean) : s.readAnswer tag addr via = s.answer tag ansOk (s.islandReg k (addrOff addr)) := by
  simp [State.readAnswer, hq, ha, inBlockPage_of_addrIsland ha, hclean, regRead_live hself ha hk]

/-- An address of one of the broadcast windows names no island, and no block-wide register (R520). -/
theorem regWrite_cast {s : State} {addr : BitVec 21} (w : W64) (via : List (IslandNo × Crossing)) (hself : s.cfg.selfTest ≠ some false)
    (ha : 61 ≤ regByte addr / 0x40000) : s.regWrite addr w via = s.castWrite (addrOff addr) w (castClass addr) via := by
  have hpage : inBlockPage addr = false := by simp only [inBlockPage, beq_eq_false_iff_ne]; omega
  have hisl : addrIsland addr = none := dif_neg (by omega)
  rw [State.regWrite, hpage, if_neg (by simp), if_neg hself, hisl]

/-- The address of signal counter n (R347). -/
theorem regByte_sig (n : Fin 256) : regByte (BitVec.ofNat 21 (0x8000 * 53 + 0xC00 + n.val)) = 0x40000 * 53 + (0x6000 + 8 * n.val) := by
  have h := n.isLt
  simp only [regByte, BitVec.toNat_ofNat]
  omega

theorem cmdWrite_sig (s : State) (n : Fin 256) (w : W64) :
    s.cmdWrite (0x6000 + 8 * n.val) w = (ansOk, { s with cmd := { s.cmd with sig := s.cmd.sig.set n (bits 32 w 0) } }) := by
  have h := n.isLt
  have hn : Fin.ofNat 256 ((0x6000 + 8 * n.val - 0x6000) / 8) = n := Fin.ext (by simp only [Fin.ofNat]; omega)
  rw [State.cmdWrite]
  simp only [hn]
  rw [if_neg (by omega), if_neg (by simp; omega), if_neg (by simp; omega), if_neg (by simp; omega), if_pos (by simp; omega)]

theorem islandWrite_sig (s : State) (n : Fin 256) (w : W64) : s.islandWrite cmdIsl (0x6000 + 8 * n.val) w =
    (ansOk, { s with cmd := { s.cmd with sig := s.cmd.sig.set n (bits 32 w 0) } }) := by
  rw [State.islandWrite, if_neg (by omega), if_neg (by omega)]
  exact cmdWrite_sig s n w

theorem keyDenied_of_no_store {s : State} {n : Nat} (h : s.cfg.store = none) : s.keyDenied n = true := by
  simp [State.keyDenied, h]

theorem commitKey_allowed {s : State} {data : W64} {c : Conf} (hc : s.cfg.store = some c) (h : s.keyDenied (fld data 3 0) = false) :
    (s.commitKey data).2 = ({ s with cfg := { s.cfg with
      keyStage := Vector.replicate 8 0
      keys := s.cfg.keys.setIfInBounds (fld data 3 0) { loaded := true, key := s.cfg.staged, written := true }
      keyCommits := sat16Inc s.cfg.keyCommits } } : State).spreadKey c (fld data 3 0) s.cfg.staged := by
  simp only [State.commitKey, h, hc]

theorem commitKey_denied {s : State} {data : W64} (h : s.keyDenied (fld data 3 0) = true) :
    (s.commitKey data).2 = { s with cfg := { s.cfg with keyStage := Vector.replicate 8 0, keyDenials := sat16Inc s.cfg.keyDenials } } := by
  simp only [State.commitKey, h]

/-- What a late write to one island has done: nothing, or the write (R82). -/
theorem lateEffect_write (s : State) (tag : BitVec 4) {q : RegAsk} {k : IslandNo} (hwr : q.wr = true) (ha : addrIsland q.addr = some k) :
    s.lateEffect tag q = s.freeBit.2 ∨ s.lateEffect tag q = (s.freeBit.2.regWrite q.addr q.data []).2 := by
  simp only [State.lateEffect, ha, hwr, if_true]
  split
  · exact .inl rfl
  · exact .inr rfl

/-- Settles O27: a new request takes effect by `registerWrite_first`; what it does is said by the address (`regWrite_live`,
`readAnswer_live`, `regWrite_cast`). -/
theorem registerRequestsAreAnswered : Obligations.RegisterRequestsAreAnswered := by
  unfold Obligations.RegisterRequestsAreAnswered
  refine ⟨⟨?first, ?held, ?again, ?sig, ?cast, ?late⟩, ?commit, ?denied⟩
  case first =>
    intro k tag ask via s hup hself ht hfirst ha hk
    have hexec := registerWrite_first via hup ht hfirst
    refine ⟨fun hwr hx => ?_, fun hwr hx => ?_, fun hwr hx => ?_, fun hwr hq hx => ?_⟩
    · rw [hexec, if_pos hwr, regWrite_live _ via hself ha hk, hx]
      rfl
    · rw [hexec, if_pos hwr, regWrite_live _ via hself ha hk, hx]
      rfl
    · rw [hexec, if_pos hwr, regWrite_live _ via hself ha hk, hx]
      rfl
    · rw [hexec, if_neg (by simp [hwr]), readAnswer_live tag hself ha hk hq hx]
  case held =>
    intro tag ask via s hup ht
    rw [registerWrite_new ask true via hup ht]
    rfl
  case again =>
    intro tag ask via s r hup hfind hfirst
    change execRegisterWrite tag ask false via s = _
    unfold execRegisterWrite
    rw [hfind]
    exact (guarded_pos hup).trans (by simp [hfirst])
  case sig =>
    intro n tag data s hup hself hout hlive
    have hn := n.isLt
    have ha : addrIsland (BitVec.ofNat 21 (0x8000 * 53 + 0xC00 + n.val)) = some cmdIsl := by
      rw [addrIsland_some, regByte_sig]
      change _ = 53
      omega
    have hoff : addrOff (BitVec.ofNat 21 (0x8000 * 53 + 0xC00 + n.val)) = 0x6000 + 8 * n.val := by
      rw [addrOff, regByte_sig]
      omega
    rw [registerWrite_first [] hup (by simp [hout]) (by simp [CpS.first, hout]), if_pos rfl, regWrite_live _ [] hself ha hlive, hoff,
      islandWrite_sig]
    rfl
  case cast =>
    intro tag addr data via s hready hself ha
    change execBroadcastWrite tag addr data via s = _
    rw [execBroadcastWrite, regWrite_cast data via hself ha]
    exact guarded_pos (by simp [hready, ha])
  case late =>
    intro k tag s r hup hfind hel hwr ha v
    have hask : ({ wr := true, addr := r.ask.addr, data := r.ask.data } : RegAsk) = r.ask := by rw [← hwr]
    refine ⟨_, _, ?_, rfl, lateEffect_write { s with cp := { s.cp with out := s.cp.out.filter fun q => q.tag != tag } } tag hwr ha⟩
    change execRegisterResponseTimeout tag true r.ask.addr r.ask.data s = _
    unfold execRegisterResponseTimeout
    rw [hask, hfind]
    exact guarded_pos (by simp [hup, hel])
  case commit =>
    intro data s c hup hc h
    rw [← commitKey_allowed hc h]
    exact guarded_pos hup
  case denied =>
    intro data s hup h
    rw [← commitKey_denied (h.elim keyDenied_of_no_store id)]
    exact guarded_pos hup

end Sys2Proof.Machine
end

section
/-! PROOFS. The registers of a command queue, and the reads of a queue by software (R36, R362, R374, R492). -/

namespace Sys2Proof.Machine

/-- The address of register `r` (a word of 8 bytes) of command queue q (R374). -/
theorem queueReg_word (q : Fin 64) {r : Nat} (hr : r < 8) :
    queueReg (BitVec.ofNat 21 (0x8000 * 53 + 0x800 + 8 * q.val + r)) = some (q, 8 * r) := by
  have h := q.isLt
  have hbyte : regByte (BitVec.ofNat 21 (0x8000 * 53 + 0x800 + 8 * q.val + r)) = 0xD44000 + (64 * q.val + 8 * r) := by
    simp only [regByte, BitVec.toNat_ofNat]
    omega
  have hq : Fin.ofNat 64 ((64 * q.val + 8 * r) / 64) = q := Fin.ext (by simp only [Fin.ofNat]; omega)
  have hoff : (64 * q.val + 8 * r) % 64 = 8 * r := by omega
  have hin : (decide (0xD44000 ≤ 0xD44000 + (64 * q.val + 8 * r)) && decide (64 * q.val + 8 * r < 0x1000)) = true := by
    rw [decide_eq_true (by omega), decide_eq_true (by omega)]
    rfl
  rw [queueReg, hbyte, Nat.add_sub_cancel_left]
  rw [if_pos hin, hq, hoff]

/-- A write of RING (word 1) or HCQ (word 2) of a queue, by what the queue makes of it (R374). -/
theorem queueConfigWrite_next {q : Fin 64} {r : Nat} {tag : BitVec 4} (data : W64) {s : State} (hr : r = 1 ∨ r = 2)
    (hready : s.reqReady tag = true) (hans : s.answers cmdIsl = true) :
    exec (.queueConfigWrite tag (BitVec.ofNat 21 (0x8000 * 53 + 0x800 + 8 * q.val + r)) data .clean) s = .next
      (match s.writeQueueReg q (8 * r) data with | some t => t.answer tag ansOk | none => s.answer tag ansDenied) := by
  change execQueueConfigWrite _ _ _ _ _ = _
  rw [execQueueConfigWrite, queueReg_word q (by omega)]
  refine (guarded_pos (by rcases hr with rfl | rfl <;> simp [hready])).trans (congrArg _ ?_)
  rw [hans]
  cases s.writeQueueReg q (8 * r) data <;> rfl

theorem writeQueueReg_ring {q : Fin 64} (data : W64) {s : State} (hen : (s.cq q).en = false) :
    s.writeQueueReg q 8 data = some (s.onCq q fun c => { c with ring := bits 52 data 12 }) := by
  simp [State.writeQueueReg, hen]

theorem writeQueueReg_hcq {q : Fin 64} (data : W64) {s : State} (hen : (s.cq q).en = false) :
    s.writeQueueReg q 16 data = some (s.onCq q fun c => { c with hcq := bits 52 data 12 }) := by
  simp [State.writeQueueReg, hen]

theorem writeQueueReg_ring_moved {q : Fin 64} {data : W64} {s : State} (hen : (s.cq q).en = true) (h : (s.cq q).ring ≠ bits 52 data 12) :
    s.writeQueueReg q 8 data = none := by
  simp [State.writeQueueReg, hen, h]

/-- A queue that reads as empty holds no packet, or delivers none (R36; log entry 112). -/
theorem front_of_isEmpty {c : CQueue} (h : c.isEmpty = true) {p : Pkt} {r : List Pkt} (hp : c.packets = p :: r) :
    (!p.visible || c.wedged) = true := by
  simp only [CQueue.isEmpty, CQueue.visibleCount, hp] at h
  cases hw : c.wedged <;> cases hv : p.visible <;> simp_all

/-- A read of the next word of a queue whose check finds nothing wrong (R33, R36). -/
theorem readQueueWord_next {s : State} (tag : BitVec 4) {k : IslandNo} {q : Nat} {o : ParityObs} (hans : s.answers k = true)
    (hcheck : s.wordCheck q o = (false, s)) :
    s.readQueueWord tag k q o = (s.onQuad 0 fun d => (d.setQueue q (((s.quad 0).queue q).readWord false).2.2).settle).answer tag
      (if (((s.quad 0).queue q).readWord false).2.1 then ansPoisoned else ansOk) (((s.quad 0).queue q).readWord false).1 := by
  rw [State.readQueueWord, hans, hcheck]
  rfl

/-- The queue of XQ0 that was read holds what the read left. -/
theorem queue_afterRead (s : State) (q : Nat) (c : CQueue) (tag : BitVec 4) (code : BitVec 2) (w : W64) :
    ((((s.onQuad 0 fun d => (d.setQueue q c).settle).answer tag code w).quad 0).queue q) = c := by
  rw [State.answer_quad, State.onQuad_quad_self, Quad.queue_settle, Quad.queue_setQueue]

theorem wordCheck_empty {s : State} {q : Nat} {o : ParityObs} (h : ((s.quad 0).queue q).isEmpty = true) : s.wordCheck q o = (false, s) := by
  cases hp : ((s.quad 0).queue q).packets with
  | nil => simp [State.wordCheck, hp]
  | cons p r => simp [State.wordCheck, hp, front_of_isEmpty h hp]

theorem readWord_empty {c : CQueue} (h : c.isEmpty = true) : c.readWord false = (c.lastWord, false, { c with underrun := true }) := by
  cases hp : c.packets with
  | nil => simp [CQueue.readWord, hp]
  | cons p r => simp [CQueue.readWord, hp, front_of_isEmpty h hp]

/-- The first word of a record that stands whole and visible at the front of a queue. -/
theorem readWord_first {c : CQueue} {p : Pkt} {r : List Pkt} {w : PWord} {ws : List PWord} (hp : c.packets = p :: r)
    (hvis : p.visible = true) (hwedged : c.wedged = false) (hpos : c.readPos = 0) (hw : p.words = w :: ws) (hclean : w.poison = false) :
    c.readWord false = (w.w, false,
      if ws = [] then { c with lastWord := w.w, packets := r, readPos := 0 } else { c with lastWord := w.w, readPos := 1 }) := by
  cases ws <;> simp [CQueue.readWord, hp, hvis, hwedged, hpos, hw, hclean]

/-- The read of the first word of a clean record of queue q by the software that the queue's island answers: what the two rows say. -/
theorem readQueueWord_first {s : State} (tag : BitVec 4) {k : IslandNo} {q : Nat} {o : ParityObs} {p : Pkt} {r : List Pkt} {w : PWord}
    {ws : List PWord} (hreads : ReadsClean 0 o p s) (hans : s.answers k = true) (hp : ((s.quad 0).queue q).packets = p :: r)
    (hvis : p.visible = true) (hwedged : ((s.quad 0).queue q).wedged = false) (hpos : ((s.quad 0).queue q).readPos = 0)
    (hw : p.words = w :: ws) (hclean : w.poison = false) :
    let t := s.readQueueWord tag k q o
    t.cp.answers = s.cp.answers.set tag.toNat (some { code := ansOk, rdata := w.w }) ∧ t.cmd = s.cmd ∧ t.log = s.log ∧
      t.islands = s.islands ∧ ((t.quad 0).queue q).packets = (if ws = [] then r else p :: r) ∧
      ((t.quad 0).queue q).readPos = if ws = [] then 0 else 1 := by
  have ht := readQueueWord_next tag hans (wordCheck_clean hreads hp)
  rw [readWord_first hp hvis hwedged hpos hw hclean] at ht
  intro t
  rw [show t = _ from ht, queue_afterRead]
  refine ⟨rfl, rfl, rfl, rfl, ?_⟩
  by_cases hws : ws = [] <;> simp [hws, hp]

/-- Settles O28: a register is written by `queueConfigWrite_next`, a word read by `readQueueWord_next`. -/
theorem queueRegistersAndReads : Obligations.QueueRegistersAndReads := by
  unfold Obligations.QueueRegistersAndReads
  refine ⟨?write, ?denied, ?empty, ?cq, ?log⟩
  case write =>
    intro q tag data s hready hans hen
    exact ⟨(queueConfigWrite_next data (.inl rfl) hready hans).trans (by rw [writeQueueReg_ring data hen]),
      (queueConfigWrite_next data (.inr rfl) hready hans).trans (by rw [writeQueueReg_hcq data hen])⟩
  case denied =>
    intro q tag data s hready hans hen hmoved
    exact (queueConfigWrite_next data (.inl rfl) hready hans).trans (by rw [writeQueueReg_ring_moved hen hmoved])
  case empty =>
    intro cq tag o s hready hans hempty
    refine ⟨_, guarded_pos hready, ?_⟩
    rw [readQueueWord_next tag hans (wordCheck_empty hempty), readWord_empty hempty, queue_afterRead]
    exact ⟨rfl, rfl, rfl, rfl⟩
  case cq =>
    intro cq tag o s p r w ws hreads hready hans hp hvis _ hwedged hpos hw hclean
    refine ⟨_, guarded_pos hready, ?_⟩
    obtain ⟨hanswer, hcmd, _, hisl, hq⟩ := readQueueWord_first tag hreads hans hp hvis hwedged hpos hw hclean
    exact ⟨hanswer, hcmd, hisl, hq⟩
  case log =>
    intro tag o s p r w ws hreads hready hans hp hvis _ hwedged hpos hw hclean
    refine ⟨_, guarded_pos hready, ?_⟩
    obtain ⟨hanswer, _, hlog, hisl, hq⟩ := readQueueWord_first tag hreads hans hp hvis hwedged hpos hw hclean
    exact ⟨hanswer, hlog, hisl, hq⟩

end Sys2Proof.Machine
end

section
/-! PROOFS. Doorbells (R84, R336, R373). -/

namespace Sys2Proof.Machine

/-- Whether a doorbell of this word arms a disarmed host queue again (R373). -/
def CmdQ.rearms (c : CmdQ) (w : W64) : Bool := c.host && !c.armed && bits 8 w 34 == c.epoch + 1

/-- The entries from HEAD to the number that the doorbell carries. -/
def CmdQ.ahead (c : CmdQ) (w : W64) : Nat := (fld w 57 42 + 65536 - c.head.toNat % 65536) % 65536

/-- The entries from HEAD to TAIL. -/
def CmdQ.pendingNo (c : CmdQ) : Nat := (c.tail.toNat + 131072 - c.head.toNat) % 65536

theorem CmdQ.rearms_of_epoch {c : CmdQ} {w : W64} (h : bits 8 w 34 ≠ c.epoch + 1) : c.rearms w = false := by
  rw [CmdQ.rearms, beq_eq_false_iff_ne.2 h, Bool.and_false]

theorem CmdQ.ahead_eq {c : CmdQ} {w : W64} {d : Nat} (hd : d < 65536) (h : fld w 57 42 = (c.head.toNat + d) % 65536) : c.ahead w = d := by
  rw [CmdQ.ahead, h]
  omega

/-- A doorbell that is no RESTART and is not applied: the queue is not enabled, a reserved bit is set, or it carries too far (R336). -/
theorem CmdQ.doorbell_bad {c : CmdQ} {w : W64} (h : c.en = false ∨ fld w 32 0 ≠ 0 ∨
    ((c.rearms w && bitAt w 33) = false ∧ c.size ≤ c.ahead w)) : c.doorbell w = (c, [(cmdDbBad, 1)]) := by
  unfold CmdQ.doorbell
  refine if_pos ?_
  rcases h with h | h | ⟨h, hsize⟩
  · simp [h]
  · simp [h]
  · simp only [CmdQ.rearms] at h
    simp only [CmdQ.ahead] at hsize
    simp only [h, Bool.false_eq_true, if_false]
    simp [hsize]

/-- One of another epoch changes no queue (R373). -/
theorem CmdQ.doorbell_epoch {c : CmdQ} {w : W64} (hen : c.en = true) (hres : fld w 32 0 = 0) (hsize : c.ahead w < c.size)
    (hre : c.rearms w = false) (hhost : c.host = true) (h : c.armed = false ∨ bits 8 w 34 ≠ c.epoch) :
    c.doorbell w = (c, [(cmdDbEpoch, 1)]) := by
  simp only [CmdQ.rearms] at hre
  simp only [CmdQ.ahead] at hsize
  unfold CmdQ.doorbell
  simp only [hre, Bool.false_and]
  refine (if_neg (by simp [hen, hres, hsize])).trans (if_pos ?_)
  rcases h with h | h <;> simp [hhost, h]

/-- One that a queue takes as it stands: TAIL moves to its number, or it is old (R336). -/
theorem CmdQ.doorbell_taken {c : CmdQ} {w : W64} (hen : c.en = true) (hres : fld w 32 0 = 0) (hsize : c.ahead w < c.size)
    (h : c.host = false ∨ (c.armed = true ∧ bits 8 w 34 = c.epoch)) :
    c.doorbell w = if c.ahead w < c.pendingNo then (c, [(cmdDbOld, 1)])
      else ({ c with tail := c.head + BitVec.ofNat 17 (c.ahead w) }, []) := by
  have hre : (c.host && !c.armed && bits 8 w 34 == c.epoch + 1) = false := by rcases h with h | ⟨h, _⟩ <;> simp [h]
  have hep : (c.host && (!c.armed || bits 8 w 34 != c.epoch)) = false := by rcases h with h | ⟨h, he⟩ <;> simp [*]
  simp only [CmdQ.ahead] at hsize
  unfold CmdQ.doorbell
  simp only [hre, Bool.false_and]
  exact (if_neg (by simp [hen, hres, hsize])).trans (if_neg (by simp [hep]))

/-- One with the next epoch for a disarmed host queue, without RESTART: it arms the queue (R373). -/
theorem CmdQ.doorbell_rearms {c : CmdQ} {w : W64} (hen : c.en = true) (hres : fld w 32 0 = 0) (hsize : c.ahead w < c.size)
    (hre : c.rearms w = true) (hbit : bitAt w 33 = false) :
    c.doorbell w = if c.ahead w < c.pendingNo then ({ c with armed := true, epoch := bits 8 w 34 }, [(cmdDbOld, 1)])
      else ({ c with armed := true, epoch := bits 8 w 34, tail := c.head + BitVec.ofNat 17 (c.ahead w) }, []) := by
  simp only [CmdQ.rearms] at hre
  simp only [CmdQ.ahead] at hsize
  unfold CmdQ.doorbell
  simp only [hre, hbit, Bool.and_false]
  exact (if_neg (by simp [hen, hres, hsize])).trans (if_neg (by simp))

/-- After the move of HEAD that RESTART makes, the number of the doorbell is HEAD's own. -/
theorem restart_ahead (head : BitVec 17) (t : Nat) (ht : t < 65536) :
    (t + 65536 - (head + BitVec.ofNat 17 ((t + 65536 - head.toNat % 65536) % 65536)).toNat % 65536) % 65536 = 0 := by
  rw [BitVec.toNat_add, BitVec.toNat_ofNat]
  omega

/-- One with RESTART: HEAD and TAIL move to its number, and the entries between are skipped (R373). -/
theorem CmdQ.doorbell_restart {c : CmdQ} {w : W64} (hen : c.en = true) (hres : fld w 32 0 = 0) (hre : c.rearms w = true)
    (hbit : bitAt w 33 = true) (ht : fld w 57 42 < 65536) :
    c.doorbell w = ({ c with
      armed := true, epoch := bits 8 w 34, head := c.head + BitVec.ofNat 17 (c.ahead w), tail := c.head + BitVec.ofNat 17 (c.ahead w)
      stale := none }, [(cmdQSkipped, c.ahead w)]) := by
  have hpos : 0 < c.size := Nat.two_pow_pos _
  simp only [CmdQ.rearms] at hre
  unfold CmdQ.doorbell
  simp only [hre, hbit, Bool.and_true, if_true, restart_ahead c.head _ ht]
  refine (if_neg (by simp [hen, hres, hpos.ne'])).trans ((if_neg (by simp)).trans ((if_neg (by simp)).trans ?_))
  simp [CmdQ.ahead]

theorem State.onCq_self (s : State) (q : Fin 64) : (s.onCq q fun _ => s.cq q) = s := by
  rw [State.onCq, State.cq]
  simp

/-- A doorbell that CMD acts on at once, with none waiting before it (R84). -/
theorem doorbell_act {s : State} {data : W64} {q : Fin 64} (hact : s.cmdActive = true) (hlive : (s.isl cmdIsl).live = true)
    (hnone : s.cmd.doorbells = []) (hq : fld data 63 58 = q.val) :
    exec (.doorbell ⟨data, true⟩) s = .next (((s.cq q).doorbell data).2.foldl (fun s e => s.bump cmdIsl e.1 e.2)
      ((s.bump cmdIsl cmdDbAccepted).onCq q fun _ => ((s.cq q).doorbell data).1)) := by
  have hqe : Fin.ofNat 64 (fld data 63 58) = q := by
    rw [hq]
    exact Fin.ext (Nat.mod_eq_of_lt q.isLt)
  have hbell : ({ s with cmd := { s.cmd with doorbells := [] } } : State) = s := by rw [← hnone]
  have hring : (({ s with cmd := { s.cmd with doorbells := s.cmd.doorbells ++ [data] } } : State).bump cmdIsl cmdDbAccepted).ringAll =
      ((({ s with cmd := { s.cmd with doorbells := [] } } : State)).bump cmdIsl cmdDbAccepted).ringOne data := by
    rw [State.ringAll, State.bump_cmd, hnone]
    rfl
  have hready : s.dbReady = true := by simp [State.dbReady, hlive, hnone]
  refine (guarded_pos hready).trans (congrArg _ ?_)
  rw [hact]
  refine hring.trans ?_
  rw [hbell, State.ringOne, hqe]
  rfl

/-- Settles O29: CMD acts on a doorbell (`doorbell_act`) as the queue takes it (`CmdQ.doorbell_taken` and the lemmas beside it). -/
theorem doorbellsMoveTheTail : Obligations.DoorbellsMoveTheTail := by
  unfold Obligations.DoorbellsMoveTheTail
  refine ⟨?taken, ?bad, ?epoch, ?rearm, ?waits, ?dropped⟩
  case taken =>
    intro data s q d hact hlive hnone hq hres hen hhost hsize hd hnum
    have hahead := CmdQ.ahead_eq hd hnum
    have htaken := CmdQ.doorbell_taken hen hres (hahead.symm ▸ hsize) hhost
    rw [doorbell_act hact hlive hnone hq, htaken, hahead]
    refine ⟨fun hle => ?_, fun hlt => ?_⟩
    · rw [if_neg (show ¬ d < (s.cq q).pendingNo from Nat.not_lt.2 hle)]
      rfl
    · rw [if_pos (show d < (s.cq q).pendingNo from hlt)]
      exact congrArg (fun u : State => Host.Outcome.next ((u.bump cmdIsl cmdDbAccepted).bump cmdIsl cmdDbOld)) (s.onCq_self q)
  case bad =>
    intro data s q hact hlive hnone hq h
    have hbad : (s.cq q).doorbell data = (s.cq q, [(cmdDbBad, 1)]) := by
      refine CmdQ.doorbell_bad (h.imp_right (Or.imp_right fun ⟨hno, hfar⟩ => ⟨?_, hfar⟩))
      rcases hno with h | h | h | h
      · simp [CmdQ.rearms, h]
      · simp [CmdQ.rearms, h]
      · rw [CmdQ.rearms_of_epoch h, Bool.false_and]
      · rw [h, Bool.and_false]
    rw [doorbell_act hact hlive hnone hq, hbad]
    exact congrArg (fun u : State => Host.Outcome.next ((u.bump cmdIsl cmdDbAccepted).bump cmdIsl cmdDbBad)) (s.onCq_self q)
  case epoch =>
    intro data s q d hact hlive hnone hq hres hen hhost harmed hdis hsize hnum hd
    have hahead := CmdQ.ahead_eq hd hnum
    have hepoch : (s.cq q).doorbell data = (s.cq q, [(cmdDbEpoch, 1)]) := by
      refine CmdQ.doorbell_epoch hen hres (hahead.symm ▸ hsize) ?_ hhost ?_
      · cases ha : (s.cq q).armed
        · exact CmdQ.rearms_of_epoch (hdis ha)
        · simp [CmdQ.rearms, ha]
      · cases ha : (s.cq q).armed
        · exact .inl rfl
        · exact .inr (harmed ha)
    rw [doorbell_act hact hlive hnone hq, hepoch]
    exact congrArg (fun u : State => Host.Outcome.next ((u.bump cmdIsl cmdDbAccepted).bump cmdIsl cmdDbEpoch)) (s.onCq_self q)
  case rearm =>
    intro data s q d hact hlive hnone hq hres hen hhost hdis hepoch hd hnum
    have hahead := CmdQ.ahead_eq hd hnum
    have hre : (s.cq q).rearms data = true := by simp [CmdQ.rearms, hhost, hdis, hepoch]
    rw [doorbell_act hact hlive hnone hq]
    refine ⟨fun hbit hsize hle => ?_, fun hbit hsize hlt => ?_, fun hbit => ?_⟩
    · rw [CmdQ.doorbell_rearms hen hres (hahead.symm ▸ hsize) hre hbit, hahead,
        if_neg (show ¬ d < (s.cq q).pendingNo from Nat.not_lt.2 hle)]
      rfl
    · rw [CmdQ.doorbell_rearms hen hres (hahead.symm ▸ hsize) hre hbit, hahead, if_pos (show d < (s.cq q).pendingNo from hlt)]
      rfl
    · rw [CmdQ.doorbell_restart hen hres hre hbit (by omega), hahead]
      rfl
  case waits =>
    intro data s hlive hact hroom
    refine (guarded_pos (by simp [State.dbReady, hlive, hroom])).trans (congrArg _ ?_)
    rw [hact]
    rfl
  case dropped =>
    intro bell s hlive hact
    refine (guarded_pos (by simp [State.dbReady, hlive, hact])).trans (congrArg _ ?_)
    rw [hact]
    rfl

end Sys2Proof.Machine
end

section
/-! PROOFS. The host path and the Network Window Port (R83 to R93, R370 to R372). -/

namespace Sys2Proof.Machine

/-! The rows of nw_path_up. -/

theorem State.onCq_cq_self (s : State) (q : Fin 64) (f : CmdQ → CmdQ) : (s.onCq q f).cq q = f (s.cq q) := by
  simp [State.onCq, State.cq]

theorem State.onCq_cq_other (s : State) {q j : Fin 64} (h : j ≠ q) (f : CmdQ → CmdQ) : (s.onCq q f).cq j = s.cq j := by
  simp only [State.onCq, State.cq]
  exact Vector.getElem_set_ne _ _ fun e => h (Fin.ext e.symm)

/-- Of CMD's state a step changes no more than the records held (R365). -/
def OnlyHeld (s t : State) : Prop := t.cmd = { s.cmd with held := t.cmd.held }

theorem OnlyHeld.trans {s t u : State} (h : OnlyHeld s t) (h' : OnlyHeld t u) : OnlyHeld s u := by
  unfold OnlyHeld at *
  rw [h', h]

theorem OnlyHeld.cq {s t : State} (h : OnlyHeld s t) (q : Fin 64) : t.cq q = s.cq q := by
  rw [State.cq, h]
  rfl

theorem OnlyHeld.pathUp {s t : State} (h : OnlyHeld s t) : t.cmd.pathUp = s.cmd.pathUp := by rw [h]

theorem postRecord_onlyHeld (s : State) (q : Fin 64) (ws : List W64) : OnlyHeld s (s.postRecord q ws) := by
  unfold OnlyHeld State.postRecord
  dsimp only
  split <;> rfl

theorem bareRecord_onlyHeld (s : State) (q : Fin 64) (seq : BitVec 16) (phase : Bool) (epoch : BitVec 8) (opcode : Nat) (st : BitVec 8)
    (lost : Bool) : OnlyHeld s (s.bareRecord q seq phase epoch opcode st lost) := by
  have h := postRecord_onlyHeld s q (recordWords q seq phase epoch opcode { id := 0, q := q, entry := default, status := st } lost
    (s.now cmdIsl))
  unfold State.bareRecord
  dsimp only
  split <;> exact h

theorem foldl_onlyHeld {α : Type} {f : State → α → State} (hf : ∀ s a, OnlyHeld s (f s a)) (l : List α) (s : State) :
    OnlyHeld s (l.foldl f s) := by
  induction l generalizing s with
  | nil => rfl
  | cons a l ih => exact (hf s a).trans (ih _)

theorem OnlyHeld.bump {s t : State} (h : OnlyHeld s t) (k : IslandNo) (off n : Nat) : OnlyHeld s (t.bump k off n) := by
  unfold OnlyHeld
  rw [State.bump_cmd]
  exact h

theorem abortAccepted_onlyHeld (s : State) (q : Fin 64) : OnlyHeld (s.onCq q fun c => { c with accepted := [] }) (s.abortAccepted q) := by
  unfold State.abortAccepted
  refine foldl_onlyHeld (fun s e => ?_) _ _
  exact ((bareRecord_onlyHeld ..).bump ..).bump ..

/-- A host queue as the path falls: it disarms, and its accepted entries abort (R370, R371). -/
def State.disarm (s : State) (q : Fin 64) : State :=
  if (s.cq q).host then (s.onCq q fun c => { c with armed := false, fetch := none, stale := none }).abortAccepted q else s

theorem disarm_cq_self {s : State} {q : Fin 64} (h : (s.cq q).host = true) :
    (s.disarm q).cq q = { s.cq q with armed := false, fetch := none, stale := none, accepted := [] } := by
  rw [State.disarm, if_pos h, (abortAccepted_onlyHeld _ q).cq, State.onCq_cq_self, State.onCq_cq_self]

theorem disarm_cq_other (s : State) {q j : Fin 64} (h : j ≠ q) : (s.disarm q).cq j = s.cq j := by
  unfold State.disarm
  split
  · rw [(abortAccepted_onlyHeld _ q).cq, State.onCq_cq_other _ h, State.onCq_cq_other _ h]
  · rfl

theorem disarm_pathUp (s : State) (q : Fin 64) : (s.disarm q).cmd.pathUp = s.cmd.pathUp := by
  unfold State.disarm
  split
  · rw [(abortAccepted_onlyHeld _ q).pathUp]
    rfl
  · rfl

/-- A queue that the fall of the path has disarmed. -/
def CmdQ.Disarmed (c : CmdQ) : Prop := c.armed = false ∧ c.fetch = none ∧ c.accepted = []

theorem disarm_disarmed {s : State} {q j : Fin 64} (hhost : (s.cq j).host = true) (h : q = j ∨ (s.cq j).Disarmed) :
    ((s.disarm q).cq j).Disarmed ∧ ((s.disarm q).cq j).host = true ∧ ((s.disarm q).cq j).en = (s.cq j).en := by
  by_cases hj : j = q
  · subst hj
    rw [disarm_cq_self hhost]
    exact ⟨⟨rfl, rfl, rfl⟩, hhost, rfl⟩
  · rw [disarm_cq_other s hj]
    exact ⟨h.resolve_left (Ne.symm hj), hhost, rfl⟩

theorem foldl_disarm {j : Fin 64} (l : List (Fin 64)) (s : State) (hhost : (s.cq j).host = true) (h : j ∈ l ∨ (s.cq j).Disarmed) :
    ((l.foldl State.disarm s).cq j).Disarmed ∧ ((l.foldl State.disarm s).cq j).en = (s.cq j).en ∧
      (l.foldl State.disarm s).cmd.pathUp = s.cmd.pathUp := by
  induction l generalizing s with
  | nil => exact ⟨h.resolve_left (by simp), rfl, rfl⟩
  | cons q l ih =>
    by_cases hq : q = j ∨ (s.cq j).Disarmed
    · obtain ⟨hd, hh, he⟩ := disarm_disarmed hhost hq
      obtain ⟨hd', he', hp'⟩ := ih (s.disarm q) hh (.inr hd)
      exact ⟨hd', he'.trans he, hp'.trans (disarm_pathUp s q)⟩
    · have hj : j ≠ q := fun e => hq (.inl e.symm)
      have hcq := disarm_cq_other s hj
      have hmem : j ∈ l := by
        rcases h with h | h
        · exact (List.mem_cons.1 h).resolve_left hj
        · exact absurd (.inr h) hq
      obtain ⟨hd', he', hp'⟩ := ih (s.disarm q) (hcq ▸ hhost) (.inl hmem)
      exact ⟨hd', he'.trans (by rw [hcq]), hp'.trans (disarm_pathUp s q)⟩

theorem foldl_disarm_local (l : List (Fin 64)) {s : State} (h : ∀ q : Fin 64, (s.cq q).host = false) : l.foldl State.disarm s = s := by
  induction l with
  | nil => rfl
  | cons q l ih => rw [List.foldl_cons, State.disarm, if_neg (by simp [h q]), ih]

/-- What the fall of the path leaves of the port itself (R92, log entry 120). -/
def State.hostPathLost (s : State) : State :=
  s.onCmd fun c => { c with
    pathPin := false, pathUp := false, pathAt := s.now cmdIsl, pathDownSeen := true
    pathFalls := if c.pathFalls = 0xFFFF then c.pathFalls else c.pathFalls + 1
    nwTags := c.nwTags.map fun t => { t with timedOut := true }, nwData := [], nwAhead := [] }

theorem nwPathDown_live {s : State} (hlive : (s.isl cmdIsl).live = true) (hpin : s.cmd.pathPin = true) :
    exec .nwPathDown s = .next ((List.finRange 64).foldl State.disarm
      ((s.cmd.nwTags.filter (fun t => !t.timedOut) ++ s.cmd.nwAhead).foldl (fun s t => s.accFailed t.acc stHostLost) s.hostPathLost)) := by
  refine (guarded_pos hpin).trans (congrArg _ ?_)
  rw [hlive]
  rfl

/-- A queue whose fetch under an identifier is lost with the path (R340, R371). -/
def CmdQ.fetchLost (c : CmdQ) (id : Nat) (now : Ctr) : CmdQ :=
  if !(c.fetch.any fun f => f.id == id) then c else { c with fetch := none, stale := c.stale.map fun k => (k.1, now) }

theorem CmdQ.fetchLost_host (c : CmdQ) (id : Nat) (now : Ctr) : (c.fetchLost id now).host = c.host := by
  unfold CmdQ.fetchLost
  split <;> rfl

theorem CmdQ.fetchLost_halted (c : CmdQ) (id : Nat) (now : Ctr) : (c.fetchLost id now).halted = c.halted := by
  unfold CmdQ.fetchLost
  split <;> rfl

theorem CmdQ.fetchLost_fetch {c : CmdQ} {id : Nat} (h : ∀ f, c.fetch = some f → f.id = id) (now : Ctr) :
    (c.fetchLost id now).fetch = none := by
  cases hf : c.fetch with
  | none => simp [CmdQ.fetchLost, hf]
  | some f => simp [CmdQ.fetchLost, hf, h f hf]

theorem accFailed_fetch_lost (s : State) {a : NwAcc} {q : Fin 64} {id : Nat} (h : a.why = .fetch q id) :
    s.accFailed a stHostLost = s.onCq q fun c => c.fetchLost id (s.now cmdIsl) := by
  rw [State.accFailed, h]
  rfl

theorem outstanding_nil {s : State} (htags : ∀ t ∈ s.cmd.nwTags, t.timedOut = true) (hahead : s.cmd.nwAhead = []) :
    s.cmd.nwTags.filter (fun t => !t.timedOut) ++ s.cmd.nwAhead = [] := by
  rw [hahead, List.append_nil, List.filter_eq_nil_iff]
  intro t ht
  simp [htags t ht]

/-- Settles O30: the fall of the path by `nwPathDown_live`, the queues it disarms by `foldl_disarm`. -/
theorem hostPathRows : Obligations.HostPathRows := by
  unfold Obligations.HostPathRows
  refine ⟨?rise, ?stable, ?reset, ?noHost, ?disarms, ?fetch⟩
  case rise =>
    intro s hpin
    exact guarded_pos (by simp [hpin])
  case stable =>
    intro s hlive hpin hup hel
    exact guarded_pos (by simp [hlive, hpin, hup, hel])
  case reset =>
    intro s hlive hpin
    refine (guarded_pos hpin).trans (congrArg _ ?_)
    rw [hlive]
    rfl
  case noHost =>
    intro s hlive hpin hlocal htags hahead
    rw [nwPathDown_live hlive hpin, outstanding_nil htags hahead]
    exact congrArg _ (foldl_disarm_local (s := s.hostPathLost) _ hlocal)
  case disarms =>
    intro s q hlive hpin hhost htags hahead
    refine ⟨_, nwPathDown_live hlive hpin, ?_⟩
    rw [outstanding_nil htags hahead, List.foldl_nil]
    obtain ⟨⟨harmed, hfetch, hacc⟩, hen, hup⟩ := foldl_disarm (List.finRange 64) s.hostPathLost (j := q) hhost (.inl (List.mem_finRange q))
    exact ⟨harmed, hfetch, hacc, hen, hup⟩
  case fetch =>
    intro s q id t hlive hpin htags hout hahead hwhy hid hlocal
    have hlost : s.cmd.nwTags.filter (fun t => !t.timedOut) ++ s.cmd.nwAhead = [t] := by simp [htags, hout, hahead]
    refine ⟨_, nwPathDown_live hlive hpin, ?_⟩
    rw [hlost]
    have hfold : (List.finRange 64).foldl State.disarm (s.hostPathLost.accFailed t.acc stHostLost) = s.hostPathLost.onCq q fun c =>
        c.fetchLost id (s.hostPathLost.now cmdIsl) := by
      rw [accFailed_fetch_lost s.hostPathLost hwhy]
      refine foldl_disarm_local _ fun j => ?_
      by_cases hj : j = q
      · rw [hj, State.onCq_cq_self, CmdQ.fetchLost_host]
        exact hlocal q
      · rw [State.onCq_cq_other _ hj]
        exact hlocal j
    rw [List.foldl_cons, List.foldl_nil, hfold, State.onCq_cq_self]
    refine ⟨rfl, ?_, CmdQ.fetchLost_fetch hid _, CmdQ.fetchLost_halted ..⟩
    change s.cmd.nwTags.map (fun t => { t with timedOut := true }) = _
    rw [htags]
    rfl

/-! The port. -/

theorem nwTag_of_find {l : List NwTag} {tag : BitVec 8} {t : NwTag} (h : l.find? (fun t => t.tag == tag) = some t) : t.tag = tag := by
  simpa using List.find?_some h

/-- A read beat for an outstanding tag of a read (R88, R90). -/
theorem nwReadBeat_taken {tag : BitVec 8} {s : State} {t : NwTag} (data : List Byte) (hlive : (s.isl cmdIsl).live = true)
    (hpin : s.cmd.pathPin = true) (hfind : s.cmd.nwTags.find? (fun t => t.tag == tag) = some t) (hout : t.timedOut = false)
    (hwr : t.acc.wr = false) (last : Bool) (err : BitVec 2) :
    exec (.nwReadBeat tag data last err) s = .next (
      if last then (s.freeTag tag).nwEnd t.acc err (fit t.acc.len (t.got ++ fit 64 data))
      else s.onCmd fun c => { c with
        nwTags := mapIf (fun u => u.tag == tag) (fun u => { u with got := t.got ++ fit 64 data }) c.nwTags }) := by
  change execNwReadBeat tag data last err s = _
  unfold execNwReadBeat
  rw [hfind]
  exact (guarded_pos hlive).trans (congrArg _ (if_neg (by simp [hout, hwr, hpin])))

/-- The acknowledgement of an outstanding write (R89, R90). -/
theorem nwWriteAck_taken {tag : BitVec 8} {s : State} {t : NwTag} (hlive : (s.isl cmdIsl).live = true)
    (hpin : s.cmd.pathPin = true) (hfind : s.cmd.nwTags.find? (fun t => t.tag == tag) = some t) (hout : t.timedOut = false)
    (hwr : t.acc.wr = true) (err : BitVec 2) :
    exec (.nwWriteAck tag err) s = .next ((s.freeTag tag).nwEnd t.acc err []) := by
  change execNwWriteAck tag err s = _
  unfold execNwWriteAck
  rw [hfind]
  exact (guarded_pos hlive).trans (congrArg _ (if_neg (by simp [hout, hwr, hpin])))

/-- Any code but 0 fails the access (R90). -/
theorem nwEnd_failed (s : State) (a : NwAcc) (data : List Byte) {err : BitVec 2} (h : err ≠ 0) :
    s.nwEnd a err data = s.accFailed a (if err = 1 then stHostError else stHostLost) := by
  have hlt := err.isLt
  have hcases : err = 1 ∨ err = 2 ∨ err = 3 := by bv_omega
  rcases hcases with rfl | rfl | rfl <;> rfl

/-- Settles O31: each row is its guarded effect; what names no outstanding tag of its kind is late. -/
theorem hostAccessesRun : Obligations.HostAccessesRun := by
  unfold Obligations.HostAccessesRun
  refine ⟨⟨?issue, ?ahead, ?refused⟩, ?beat, ?begins, ?read, ?ack, ?lateRead, ?lateAck, ?timeout⟩
  case issue =>
    intro tag s a rest hawake hahead hwait hdead hmay hwin hfree
    change execNwRequestIssue tag s = _
    unfold execNwRequestIssue
    simp only [hahead, hwait]
    refine (guarded_pos hawake).trans (congrArg _ ?_)
    rw [if_neg (by simp [hdead]), if_neg (by simp [hmay]), if_neg (by simp [hwin]), if_neg (by simp [hfree])]
    rfl
  case ahead =>
    intro s u rest hawake hahead
    change execNwRequestIssue u.tag s = _
    unfold execNwRequestIssue
    rw [hahead]
    exact guarded_pos (by simp [hawake])
  case refused =>
    intro tag s a rest hawake hahead hwait hdead
    refine ⟨fun hmay => ?_, fun hmay hwin => ?_⟩
    · change execNwRequestIssue tag s = _
      unfold execNwRequestIssue
      simp only [hahead, hwait]
      refine (guarded_pos hawake).trans (congrArg _ ?_)
      rw [if_neg (by simp [hdead]), if_pos (by simp [hmay])]
    · change execNwRequestIssue tag s = _
      unfold execNwRequestIssue
      simp only [hahead, hwait]
      refine (guarded_pos hawake).trans (congrArg _ ?_)
      rw [if_neg (by simp [hdead]), if_neg (by simp [hmay]), if_pos (by simp [hwin])]
  case beat =>
    intro s t b rest hlive hdata
    have hsend : s.cmd.sendBeat = { s.cmd with
        lastBeat := some { tag := t, data := b.take 64, last := decide (b.length ≤ 64) }
        nwData := if b.length ≤ 64 then rest else (t, b.drop 64) :: rest } := by simp only [CmdS.sendBeat, hdata]
    change execNwWriteDataBeat s = _
    unfold execNwWriteDataBeat
    simp only [hdata]
    refine (guarded_pos hlive).trans (congrArg _ ?_)
    rw [State.onCmd, hsend]
    rfl
  case begins =>
    intro s t a rest hawake hdata hwait hwr hdead hmay hwin hfree
    obtain ⟨tag, htag, hfresh⟩ := freshTag_some (s := s) hfree
    refine ⟨tag, htag, ?_⟩
    change execNwWriteDataBeat s = _
    unfold execNwWriteDataBeat
    simp only [hdata, hwait, hfresh]
    refine (guarded_pos (by simp [hawake, hwr, hdead, hmay, hwin])).trans (congrArg _ ?_)
    rfl
  case read =>
    intro tag data s t hlive hpin hfind hout hwr
    have hread := nwReadBeat_taken data hlive hpin hfind hout hwr
    refine ⟨hread true 0, fun err => ⟨hread false err, fun herr => ?_⟩⟩
    rw [hread, if_pos rfl, nwEnd_failed _ _ _ herr]
    rfl
  case ack =>
    intro tag s t hlive hpin hfind hout hwr
    have hack := nwWriteAck_taken hlive hpin hfind hout hwr
    refine ⟨hack 0, fun err herr => ?_⟩
    rw [hack, nwEnd_failed _ _ _ herr]
    rfl
  case lateRead =>
    intro tag data last err s hlive hlate
    refine (guarded_pos hlive).trans (congrArg _ ?_)
    split
    · rfl
    next t hfind =>
      refine if_pos ?_
      rcases hlate with h | h
      · simp [h]
      · rcases h t (List.mem_of_find?_eq_some hfind) (nwTag_of_find hfind) with h | h <;> simp [h]
  case lateAck =>
    intro tag err s hlive hlate
    refine (guarded_pos hlive).trans (congrArg _ ?_)
    split
    · rfl
    next t hfind =>
      refine if_pos ?_
      rcases hlate with h | h
      · simp [h]
      · rcases h t (List.mem_of_find?_eq_some hfind) (nwTag_of_find hfind) with h | h <;> simp [h]
  case timeout =>
    intro tag s t hlive hfind hout hel
    change execNwTagTimeout tag s = _
    unfold execNwTagTimeout
    rw [hfind]
    exact guarded_pos (by rw [hlive, hout, decide_eq_true hel]; rfl)

end Sys2Proof.Machine
end

section
/-! PROOFS. The structure stream and quiescing (R111 to R147). -/

namespace Sys2Proof.Machine

/-! The first word. -/

theorem fld_low_zero {w : W64} (h : fld w 15 0 = 0) : fld w 15 12 = 0 ∧ fld w 11 0 = 0 := by
  simp only [fld] at *
  omega

/-- The first word of a full stream, right but for the STATE of CFG (R114, R137). -/
theorem hdrCheck_full {w : W64} (hmagic : fld w 63 32 = 0x50525853) (hversion : fld w 31 16 = 3) (hzero : fld w 15 0 = 0)
    (inConfig inRun : Bool) : hdrCheck 0 w false inConfig inRun = if inConfig then none else some .notConfig := by
  obtain ⟨h12, h0⟩ := fld_low_zero hzero
  cases inConfig <;> simp [hdrCheck, firstErr, hmagic, hversion, h12, h0]

/-- What a stream not begun makes of its first word (R137). -/
theorem take_first {w : W64} (hmagic : fld w 63 32 = 0x50525853) (hversion : fld w 31 16 = 3) (hzero : fld w 15 0 = 0)
    (inConfig inRun : Bool) : ({} : SsRecv).take w inConfig inRun = if inConfig then
      .inl { count := 1, crc := (leBytes 8 w.toNat).foldl crc32cByte 0xFFFFFFFF, hdr := [w] } else .inr (.notConfig, 0, 0, 0) := by
  have hlive : (fld (([] ++ [w] : List W64).getD 0 0) 15 12 == 1) = false := by simp [(fld_low_zero hzero).1]
  unfold SsRecv.take
  simp only [hlive, hdrCheck_full hmagic hversion hzero]
  cases inConfig <;> rfl

theorem rejectStream_idle {s : State} (h : s.cfg.recv = none) (e : SsErr) (type inst off : Nat) :
    s.rejectStream e type inst off = ({ s with cfg := { s.cfg with
      resync := true, lastErr := BitVec.ofNat 8 e.code, rejects := sat16Inc s.cfg.rejects
      errType := BitVec.ofNat 16 type, errInst := BitVec.ofNat 16 inst, errOffset := BitVec.ofNat 32 off } } : State).emit
        cfgIsl { code := 0x000C, sev := sevInfo, arg := BitVec.ofNat 64 e.code } := by
  rw [State.rejectStream, ← h]

/-- The state with the time of the word noted. -/
def State.wordNoted (s : State) : State := { s with cfg := { s.cfg with wordAt := s.now cfgIsl } }

/-- What CFG makes of a word that it takes (R111). -/
def State.wordTaken (s : State) (x : SsRecv ⊕ (SsErr × Nat × Nat × Nat)) : State :=
  match x with
  | .inr e => s.wordNoted.rejectStream e.1 e.2.1 e.2.2.1 e.2.2.2
  | .inl r =>
    if 4 ≤ r.count && 8 * r.count == fld (r.hdr.getD 1 0) 31 0 then s.wordNoted.finishStream r
    else { s.wordNoted with cfg := { s.wordNoted.cfg with recv := some r } }

theorem streamWord_taken {w : W64} {s : State} (hlive : (s.isl cfgIsl).live = true) (hself : s.cfg.selfTest = some true)
    (hsync : s.cfg.resync = false) (hshut : (s.isl cfgIsl).state ≠ .shut) :
    exec (.streamWord w) s = .next (s.wordTaken
      ((s.cfg.recv.getD {}).take w ((s.isl cfgIsl).state == .config) ((s.isl cfgIsl).state == .run))) := by
  refine (guarded_pos (by simp [hlive, hself, hshut])).trans (congrArg _ ?_)
  rw [hsync]
  rfl

/-- Settles O32: the first word by `take_first`. -/
theorem fullStreamOnlyInConfig : Obligations.FullStreamOnlyInConfig := by
  unfold Obligations.FullStreamOnlyInConfig
  refine ⟨?taken, ?rejected⟩
  case taken =>
    intro w s hlive hself hsync hrecv hmagic hversion hzero hstate
    rw [streamWord_taken hlive hself hsync (by simp [hstate]), hrecv, hstate]
    exact ⟨_, congrArg (fun x => Host.Outcome.next (s.wordTaken x)) (take_first hmagic hversion hzero true false), rfl, rfl⟩
  case rejected =>
    intro w s hlive hself hsync hrecv hmagic hversion hzero hstate
    have hconfig : ((s.isl cfgIsl).state == .config) = false := by rcases hstate with h | h <;> simp [h]
    have hshut : (s.isl cfgIsl).state ≠ .shut := by rcases hstate with h | h <;> simp [h]
    rw [streamWord_taken hlive hself hsync hshut, hrecv, hconfig]
    have hfirst := take_first hmagic hversion hzero false ((s.isl cfgIsl).state == .run)
    refine (congrArg (fun x => Host.Outcome.next (s.wordTaken x)) hfirst).trans (congrArg _ ?_)
    exact rejectStream_idle (s := s.wordNoted) hrecv .notConfig 0 0 0

/-! The end of a stream. -/

theorem Island.deliver_conf (i : Island) (c : Conf) :
    (i.deliver c).conf = if i.inReset = false ∧ i.state = .config then some c else i.conf := by
  unfold Island.deliver
  by_cases hr : i.inReset = false <;> by_cases hs : i.state = .config <;> simp [hr, hs]

theorem Island.deliver_inReset (i : Island) (c : Conf) : (i.deliver c).inReset = i.inReset := by
  unfold Island.deliver
  split <;> rfl

theorem applyFull_isl_other (s : State) (c : Conf) {k : IslandNo} (h : k ≠ cfgIsl) : (s.applyFull c).isl k = (s.isl k).deliver c := by
  rw [State.applyFull, State.onIsl_isl, if_neg (Ne.symm h)]
  exact isl_map s _ k

theorem applyFull_state {s : State} (c : Conf) (hlive : (s.isl cfgIsl).live = true) : ((s.applyFull c).isl cfgIsl).state = .run := by
  have hreset : ((s.isl cfgIsl).deliver c).inReset = false := by rw [Island.deliver_inReset, inReset_of_live hlive]
  rw [State.applyFull, State.onIsl_isl_self, Island.reportEmptied_state, Island.enter_state]
  exact (congrArg Island.inReset (isl_map s _ cfgIsl)).trans hreset

/-- A full stream without fault is applied (R138, R141). -/
theorem finishStream_full {s : State} {r : SsRecv} (hfull : fld (r.hdr.getD 0 0) 15 12 = 0) (hended : r.ended = true)
    (hcrc : (r.crc ^^^ 0xFFFFFFFF) = fld (r.hdr.getD 2 0) 31 0)
    (hcross : crossErr { streamId := bits 32 (r.hdr.getD 2 0) 32, recs := r.recs } = none)
    (hid : s.idsMatch (bits 32 (r.hdr.getD 2 0) 32) = true) :
    s.finishStream r = s.applyFull { streamId := bits 32 (r.hdr.getD 2 0) 32, recs := r.recs } := by
  unfold State.finishStream
  refine (if_neg (by simp [hended])).trans ((if_neg (by simp [hcrc])).trans ((if_neg (by rw [hfull]; decide)).trans ?_))
  simp only [hcross, hid, if_true]

theorem emit_isl_other (s : State) {k j : IslandNo} (h : j ≠ k) (n : Note) : (s.emit k n).isl j = s.isl j := by
  rw [State.emit, State.onIsl_isl, if_neg (Ne.symm h)]

/-- What a rejection leaves (R113). -/
theorem rejectStream_spec (s : State) (e : SsErr) (type inst off : Nat) :
    let t := s.rejectStream e type inst off
    t.cfg.recv = none ∧ t.cfg.resync = true ∧ t.cfg.lastErr = BitVec.ofNat 8 e.code ∧ t.cfg.rejects = sat16Inc s.cfg.rejects ∧
      t.cfg.store = s.cfg.store ∧ t.cfg.keys = s.cfg.keys ∧ ∀ k, k ≠ cfgIsl → t.isl k = s.isl k :=
  ⟨rfl, rfl, rfl, rfl, rfl, rfl, fun _ hk => emit_isl_other _ hk _⟩

/-- A QUIESCED island released runs, with the records of live streams it held (R147). -/
theorem Island.released_quiesced {i : Island} (hreset : i.inReset = false) (hstate : i.state = .quiesced) :
    i.released.state = .run ∧ i.released.quiesceAsk = false ∧ i.released.conf = i.conf.map (·.withLive i.liveRecs) := by
  unfold Island.released
  cases hc : i.conf <;> simp [hreset, hstate, Island.enter, Island.detsUnder]

theorem State.onIsl_congr {s : State} {k : IslandNo} {f g : Island → Island} (h : f (s.isl k) = g (s.isl k)) : s.onIsl k f = s.onIsl k g := by
  unfold State.onIsl
  rw [show f s.islands[k] = g s.islands[k] from h]

/-- Settles O33: a word is taken by `streamWord_taken`, the last one finishes by `finishStream_full`; the rest are the guarded effects. -/
theorem streamsEnd : Obligations.StreamsEnd := by
  unfold Obligations.StreamsEnd
  refine ⟨⟨?last, ?truncated, ?resync⟩, ?ask, ?deaf, ?quiesced, ?release⟩
  case last =>
    intro w s r r' hlive hself hsync hrecv hstate htake hcount hlen hfull hended hcrc c hcross hid
    have hfinish := finishStream_full (s := s.wordNoted) hfull hended hcrc hcross hid
    have hexec : exec (.streamWord w) s = .next (s.wordNoted.applyFull c) := by
      rw [streamWord_taken hlive hself hsync (by simp [hstate]), hrecv, hstate]
      refine (congrArg (fun x => Host.Outcome.next (s.wordTaken x)) htake).trans (congrArg _ ?_)
      exact (if_pos (by simp [hcount, hlen])).trans hfinish
    refine ⟨_, hexec, rfl, rfl, applyFull_state (s := s.wordNoted) c hlive, fun k hk => ?_⟩
    rw [applyFull_isl_other _ c hk, Island.deliver_conf]
    rfl
  case truncated =>
    intro s r hlive hrecv hel
    have hexec : ∃ type inst off, exec .streamTruncated s = .next (s.rejectStream .truncated type inst off) := by
      change ∃ type inst off, execStreamTruncated s = _
      unfold execStreamTruncated
      rw [hrecv]
      have hgo : ((s.isl cfgIsl).live && decide (2 ^ 20 ≤ elapsed (s.now cfgIsl) s.cfg.wordAt)) = true := by
        rw [hlive, decide_eq_true hel]
        rfl
      cases hcur : r.cur with
      | none => exact ⟨_, _, _, (guarded_pos hgo).trans (by rw [hcur])⟩
      | some x => exact ⟨_, _, _, (guarded_pos hgo).trans (by rw [hcur])⟩
    obtain ⟨type, inst, off, hexec⟩ := hexec
    exact ⟨_, hexec, rejectStream_spec s .truncated type inst off⟩
  case resync =>
    intro s hsync hlive hel
    exact guarded_pos (by simp [hsync, hlive, hel])
  case ask =>
    intro k s hup hreset hshut
    exact (guarded_pos hup).trans (congrArg _ (if_neg (by simp [hreset, hshut])))
  case deaf =>
    intro k s hup h
    refine (guarded_pos hup).trans (congrArg _ (if_pos ?_))
    rcases h with h | h <;> simp [h]
  case quiesced =>
    intro k s hrun hask hended hopen
    have hreset : (s.isl k).inReset = false := inReset_of_live (Bool.and_eq_true_iff.1 hrun).1
    refine (guarded_pos (by rw [hrun, hask, hended, hopen]; rfl)).trans (congrArg _ (State.onIsl_congr ?_))
    exact if_neg (by simp [hreset])
  case release =>
    intro k s hup hreset hstate
    obtain ⟨hrun, hask, hconf⟩ := Island.released_quiesced hreset hstate
    refine ⟨({ s with cfg := { s.cfg with quiesce := setBit s.cfg.quiesce k.val false } } : State).onIsl k Island.released,
      guarded_pos hup, rfl, ?_⟩
    rw [State.onIsl_isl_self]
    exact ⟨hrun, hask, hconf, fun j hj => by rw [State.onIsl_isl, if_neg (Ne.symm hj)]; rfl, rfl, rfl, rfl⟩

end Sys2Proof.Machine
end

section
/-! PROOFS. Guard lines, the store path and the commits of spans (R165 to R175, R200 to R213, R252 to R265). -/

namespace Sys2Proof.Machine

/-! Guard lines and frames. -/

theorem State.portReq_eq (s : State) (p : SliceNo) (r : MemReq) :
    s.portReq p r = s.onMp p fun m => { m with waiting := m.waiting ++ [{ r with since := s.now (psIsl p) }] } := rfl

/-- The guard line asked for has room in the cache (R174, R514). -/
theorem guardLineFill_next {p : SliceNo} {line : BitVec 32} {s : State} {r : MemReq} {rest : List MemReq} (hlive : s.portLive p = true)
    (hneed : (s.slice p).mp.waiting.filter (fun r => r.isData && guardOf r.addr.toNat == line.toNat) = r :: rest)
    (hnone : (s.slice p).mp.guardEnt line.toNat = none) (hroom : (s.slice p).mp.cache.length < 64) :
    exec (.guardLineFill p line) s = .next (if r.wr && (s.slice p).home.untouched line.toNat then
        s.onMp p fun m => { m with
          cache := m.cache ++ [{ line := line.toNat, filled := r.wr && (s.slice p).home.untouched line.toNat
                                 used := (s.slice p).mp.useNo + 1 }]
          useNo := m.useNo + 1 }
      else (s.onMp p fun m => { m with
          cache := m.cache ++ [{ line := line.toNat, filled := r.wr && (s.slice p).home.untouched line.toNat
                                 used := (s.slice p).mp.useNo + 1 }]
          useNo := m.useNo + 1 }).portReq p {
        wr := false, addr := BitVec.ofNat 32 (s.dataEnd p + line.toNat), why := .guardFill line.toNat }) := by
  change execGuardLineFill p line s = _
  unfold execGuardLineFill
  simp only [hneed, List.head?_cons, if_pos hroom]
  refine (guarded_pos (by simp [hlive, hnone, hroom])).trans ?_
  rfl

theorem guardWriteBack_settled {s : State} {p : SliceNo} {e : GuardEnt} (h : (s.slice p).mp.openWrites e.line = []) :
    s.guardWriteBack p e = (s.onMp p fun m => m.setGuard { e with dirty := false, dirtyAt := s.now (psIsl p), wb := true }).portReq p {
      wr := true, addr := BitVec.ofNat 32 (s.dataEnd p + e.line), why := .guardWb e.line
      data := guardBytes (e.guards.zipIdx.map fun v => if e.pinned && !e.known.getLsbD v.2 then Config.freeGuard e.line v.2 else v.1) } := by
  unfold State.guardWriteBack
  rw [h]
  rfl

/-- A frame given back on a slice that is not joined, while the run table has room (R421). -/
theorem release_next {s : State} {p : SliceNo} {base n : Nat} (hn : 0 < n) (hroom : s.eph.runCount < 131072) (hjoint : s.isJoint p = false) :
    s.release p base n = ({ s with eph := { s.eph with
      free := s.eph.free.set p (mergeRun s.eph.free[p] { first := base, count := n }) } } : State).onSlice p fun sl =>
        { sl with home := { sl.home with touched := sl.home.touched.filter fun e => !(2 * base ≤ e && e < 2 * (base + n)) } } := by
  unfold State.release
  refine (if_neg (by omega)).trans ((if_neg (by simp [hjoint])).trans ?_)
  rw [if_pos (by simp [hroom])]

/-- Settles O34: each row is its guarded effect (`guardLineFill_next`, `guardWriteBack_settled`, `release_next`). -/
theorem linesAreWritten : Obligations.LinesAreWritten := by
  unfold Obligations.LinesAreWritten
  refine ⟨⟨?fill, ?writeback⟩, ?advance, ?keyless, ?go, ?free⟩
  case fill =>
    intro p line s r rest hlive hneed hnone hroom zero
    refine ⟨_, guardLineFill_next hlive hneed hnone hroom, ?_⟩
    cases hzero : r.wr && (s.slice p).home.untouched line.toNat
    · rw [if_neg (by simp), State.portReq_eq, State.onMp_onMp]
      refine ⟨onlySlice_onMp .., ?_, fun h => ?_, fun _ => ?_⟩
      · rw [State.onMp_slice_self, show zero = false from hzero]
      · exact absurd (h.symm.trans hzero) (by simp)
      · rw [State.onMp_slice_self]
        rfl
    · rw [if_pos rfl]
      refine ⟨onlySlice_onMp .., ?_, fun _ => ?_, fun h => ?_⟩
      · rw [State.onMp_slice_self, show zero = true from hzero]
      · rw [State.onMp_slice_self]
      · exact absurd (h.symm.trans hzero) (by simp)
  case writeback =>
    intro p line s e hlive hent hdirty hwb hwhen hsettled
    have hexec : exec (.guardWritebackTimer p line) s = .next (s.guardWriteBack p e) := by
      change execGuardWritebackTimer p line s = _
      unfold execGuardWritebackTimer
      rw [hent]
      exact guarded_pos (by rcases hwhen with h | h | h <;> simp [hlive, hdirty, hwb, h])
    refine ⟨_, hexec, ?_⟩
    rw [guardWriteBack_settled hsettled, State.portReq_eq, State.onMp_onMp]
    refine ⟨onlySlice_onMp .., ?_⟩
    rw [State.onMp_slice_self]
    rfl
  case advance =>
    intro p s t hlive ht
    refine (guarded_pos hlive).trans ?_
    rw [ht]
  case keyless =>
    intro p s t hlive hnone ht
    refine (guarded_pos hlive).trans ?_
    rw [hnone, ht]
  case go =>
    intro p s e hlive hnone hkeyless he
    refine (guarded_pos hlive).trans ?_
    simp only [hnone, hkeyless, he]
  case free =>
    intro p oid span base n s hawake hfind hreads hjoint hroom hn
    have hidle : ((s.slice p).home.reads.any fun j => j.obj.oid == oid && j.base == base * 16 && j.started) = false := by
      rw [List.any_eq_false]
      intro j hj
      simp [hreads j hj]
    let s1 : State := { s with eph := { s.eph with freeing := s.eph.freeing.filter (· != (p, base, n, oid, span.toNat)) } }
    have hexec : exec (.frameFree p oid span) s = .next (s1.release p base n) := by
      change execFrameFree p oid span s = _
      unfold execFrameFree
      rw [hfind]
      exact guarded_pos (by simp [hawake, hidle, hroom])
    refine ⟨_, hexec.trans (congrArg _ (release_next (s := s1) hn hroom hjoint)), rfl, rfl, rfl, fun q hq => ?_⟩
    exact State.onSlice_slice_other _ _ hq

/-! The store path. -/

theorem masterStatus_no_run {s : State} {e : StoreIn} (h : e.run = none) : s.masterStatus e = .good := by simp [State.masterStatus, h]

/-- Settles O35: each row is its guarded effect, by what the slot and the plate's master say. -/
theorem platesAreStored : Obligations.PlatesAreStored := by
  unfold Obligations.PlatesAreStored
  refine ⟨?encode, ?store, ?dropped⟩
  case encode =>
    intro p s e q hrun hshut hnext hcode hroom hlive hreg d
    have hguard : (s.running (psIsl p) && !(s.slice p).dataShut && e.obj.code == 1 && decide ((s.slice p).store.encoding < 8)) = true := by
      simp [hrun, hshut, hcode, hroom]
    refine ⟨?live, ?gone, ?fails⟩
    case live =>
      intro hst hdrain hnone c f u hwrite
      change execFrcEncode p s = _
      unfold execFrcEncode
      simp only [hnext]
      refine (guarded_pos hguard).trans (congrArg _ ?_)
      rw [if_neg (by simp [hlive]), if_neg (by simp [hreg]), masterStatus_no_run hnone]
      simp only [d, c, f] at hwrite ⊢
      simp only [hst, hdrain, hwrite]
      simp only [hnone, Bool.not_true, Bool.false_eq_true, if_false]
    case gone =>
      intro hst hheal hmaster
      change execFrcEncode p s = _
      unfold execFrcEncode
      simp only [hnext]
      refine (guarded_pos hguard).trans (congrArg _ ?_)
      rw [if_neg (by simp [hlive]), if_neg (by simp [hreg]), hmaster]
      rcases hst with h | h <;> simp only [h] <;> exact if_neg (by simp [hheal])
    case fails =>
      intro st hmaster
      change execFrcEncode p s = _
      unfold execFrcEncode
      simp only [hnext]
      refine (guarded_pos hguard).trans (congrArg _ ?_)
      rw [if_neg (by simp [hlive]), if_neg (by simp [hreg]), hmaster]
  case store =>
    intro p s e q u hrun hshut hnext hcode hlive hreg hnone hwrite
    change execStorePlate p s = _
    unfold execStorePlate
    simp only [hnext]
    refine (guarded_pos (by simp [hrun, hshut, hcode])).trans (congrArg _ ?_)
    rw [if_neg (by simp [hlive]), if_neg (by simp [hreg]), hwrite, hnone]
    rfl
  case dropped =>
    intro p s e q hrun hshut hnext hroom hdead
    by_cases hcode : e.obj.code = 1
    · rw [if_pos hcode]
      change execFrcEncode p s = _
      unfold execFrcEncode
      simp only [hnext]
      exact (guarded_pos (by simp [hrun, hshut, hcode, hroom])).trans (congrArg _ (if_pos (by simp [hdead])))
    · rw [if_neg hcode]
      change execStorePlate p s = _
      unfold execStorePlate
      simp only [hnext]
      exact (guarded_pos (by simp [hrun, hshut, hcode])).trans (congrArg _ (if_pos (by simp [hdead])))

/-! Commits. -/

/-- Settles O36: each row is its guarded effect on the commit it finds. -/
theorem spansCommit : Obligations.SpansCommit := by
  unfold Obligations.SpansCommit
  refine ⟨?claim, ?index, ?swing, ?deferred⟩
  case claim =>
    intro p oid span s u m b hawake hreload hplaces hcommit hgone hclaim
    change execFrameClaim p oid span s = _
    unfold execFrameClaim
    refine (guarded_pos (by simp [hawake, hreload])).trans (congrArg _ ?_)
    simp only [hplaces, hcommit, hgone, hclaim]
    rfl
  case index =>
    intro p oid span s m hlive hfind hcode hclosed hleft hfailed n
    change execIndexWrite p oid span s = _
    unfold execIndexWrite
    rw [hfind]
    exact guarded_pos (by simp [hlive, hcode, hclosed, hleft, hfailed])
  case swing =>
    intro p oid span s m hawake hfind hdefers hfits htarget
    change execSpanSwing p oid span s = _
    unfold execSpanSwing
    rw [hfind]
    exact (guarded_pos (by simp [hawake, hdefers, hfits])).trans (congrArg _ (if_neg (by simp [htarget])))
  case deferred =>
    intro run s r p m hawake hrun hcons hstatus hstopped htainted hdone hready
    change execDeferredSwings run s = _
    unfold execDeferredSwings
    rw [hrun]
    dsimp only
    rw [hready]
    exact guarded_pos (by simp [hawake, hcons, hstatus, hstopped, htainted, hdone])

end Sys2Proof.Machine
end

section
/-! PROOFS. Histograms, table builds and the rows of a table slot (R214 to R226). -/

namespace Sys2Proof.Machine

theorem send_outbox (s : State) (k : IslandNo) (p : OutPkt) : ((s.send k p).isl k).outbox = (s.isl k).outbox ++ [p] := by
  rw [State.send, State.onIsl_isl_self]

theorem bump_outbox (s : State) (k j : IslandNo) (off n : Nat) : ((s.bump k off n).isl j).outbox = (s.isl j).outbox := by
  rw [State.bump, State.onIsl_isl]
  split
  next h =>
    subst h
    unfold Island.bump
    split <;> rfl
  · rfl

/-! Histograms and builds. -/

/-- A slice's histogram is on its way to SPG (R223). -/
def State.histSent (s : State) (p : SliceNo) (run : Nat) : State :=
  (((s.onSlice p fun x => { x with hist := { x.hist with run := none } }).bump (psIsl p) psHistElems
    ((s.slice p).hist.hist.zeros + (s.slice p).hist.hist.bins.sum)).onBuild run fun b => { b with unsent := b.unsent.erase p }).send
      (psIsl p) {
        quad := quadOf (psIsl p), queue := BitVec.ofNat 16 (queueFrom (psIsl p) 2), words := plain (s.slice p).hist.hist.words
        cargo := .hist p run }

@[simp] theorem State.onBuild_slice (s : State) (run : Nat) (f : Build → Build) (q : SliceNo) : (s.onBuild run f).slice q = s.slice q := rfl

theorem histSent_slice (s : State) (p q : SliceNo) (run : Nat) :
    (s.histSent p run).slice q = (s.onSlice p fun x => { x with hist := { x.hist with run := none } }).slice q := by
  rw [State.histSent, State.send_slice, State.onBuild_slice, State.bump_slice]

theorem histogramSend_next {p : SliceNo} {s : State} {run : Nat} (hawake : s.awake (psIsl p) = true) (hrun : (s.slice p).hist.run = some run)
    (hleft : (s.slice p).hist.left = 0) : exec (.histogramSend p) s = .next ((s.histSent p run).histNext p) := by
  change execHistogramSend p s = _
  unfold execHistogramSend
  simp only [hrun]
  exact guarded_pos (by simp [hawake, hleft])

theorem takeHist_clean {p : SliceNo} {s : State} {run : Nat} (h : Hist) {b : Build} (hb : s.buildOf run = some b) :
    s.takeHist p run h false = if (b.waiting.erase p).isEmpty then
      let u := s.onBuild run fun b => { b with waiting := b.waiting.erase p, hist := b.hist.add h, closeAt := s.now spgIsl }
      { u with spg := { u.spg with closed := u.spg.closed ++ [run] } }
    else s.onBuild run fun b => { b with waiting := b.waiting.erase p, hist := b.hist.add h, closeAt := s.now spgIsl } := by
  simp only [State.takeHist, hb]
  rfl

/-- The packet with which SPG sends slice p the image of a slot (R219). -/
def imagePkt (p : SliceNo) (n : Fin 64) (gen : BitVec 8) (img : List Byte) : OutPkt := {
  quad := quadOf spgIsl, queue := BitVec.ofNat 16 (queueFrom spgIsl 2), words := queueWords img, cargo := .image p n gen }

/-- The image of a slot goes out to a list of slices: one packet to each, and nothing else changes (R219). -/
theorem foldl_sendImage (n : Fin 64) (l : List SliceNo) (s : State) :
    let t := l.foldl (fun t p => t.sendImage n p) s
    t.spg = s.spg ∧ t.cmd = s.cmd ∧ t.slices = s.slices ∧
      (t.isl spgIsl).outbox = (s.isl spgIsl).outbox ++ l.map fun p => imagePkt p n (s.slot n).gen (s.slot n).image := by
  induction l generalizing s with
  | nil => exact ⟨rfl, rfl, rfl, by simp⟩
  | cons p l ih =>
    obtain ⟨hspg, hcmd, hslices, hout⟩ := ih (s.sendImage n p)
    refine ⟨hspg, hcmd, hslices, hout.trans ?_⟩
    rw [State.sendImage, send_outbox, List.append_assoc]
    rfl

theorem slot_onSlot_self (s : State) (n : Fin 64) (f : SpgSlot → SpgSlot) : (s.onSlot n f).slot n = f (s.slot n) := by
  simp [State.slot, State.onSlot]

/-- The image of a slot is installed: SPG holds it, and it goes to every slice that takes part and runs (R219). -/
theorem installImage_spec (s : State) (n : Fin 64) (img : List Byte) :
    let t := s.installImage n img
    t.spg = (s.onSlot n fun x => { x with image := img, built := true }).spg ∧ t.cmd = s.cmd ∧ t.slices = s.slices ∧
      (t.isl spgIsl).outbox = (s.isl spgIsl).outbox ++ ((List.finRange 32).filter s.takesImages).map fun p =>
        imagePkt p n (s.slot n).gen img := by
  have h := foldl_sendImage n ((List.finRange 32).filter s.takesImages) (s.onSlot n fun x => { x with image := img, built := true })
  rw [slot_onSlot_self] at h
  exact h

/-- SPG has taken up a build (R226). -/
def State.buildTaken (s : State) (b : Build) (run : Nat) (rest : List Nat) (n : Fin 64) : State :=
  { s with spg := { s.spg with
    closed := rest, builds := s.spg.builds.filter (fun c => c.run != run), iter := (buildImage b.hist).2
    buildSlot := n, buildAt := s.buildStart b } }

theorem tableBuild_next {s : State} {run : Nat} {rest : List Nat} {b : Build} {n : Fin 64} {c : CmdRun} (hrun : s.running spgIsl = true)
    (hclosed : s.spg.closed = run :: rest) (hb : s.buildOf run = some b) (hslot : b.slot = some n) (hst : (s.slot n).st = .loading)
    (hbuilt : (s.slot n).built = false) (hidle : s.installing = false) (hc : s.findRun run = some c)
    (hplace : bitAt (c.entry.words.getD 2 0) 15 = false) :
    exec .tableBuild s = .next ((s.buildTaken b run rest n).installImage n (buildImage b.hist).1) := by
  have hcmd : ((s.buildTaken b run rest n).installImage n (buildImage b.hist).1).findRun run = some c := by
    obtain ⟨_, hcmd, _⟩ := installImage_spec (s.buildTaken b run rest n) n (buildImage b.hist).1
    rw [State.findRun, hcmd]
    exact hc
  have hb' : ((s.buildOf run).bind fun b => b.slot.map fun n => (b, n)) = some (b, n) := by rw [hb, Option.bind_some, hslot]; rfl
  change execTableBuild s = _
  unfold execTableBuild
  rw [hclosed]
  dsimp only
  rw [hb']
  refine (guarded_pos (by simp [hrun, hst, hbuilt, hidle])).trans (congrArg _ ?_)
  change (match ((s.buildTaken b run rest n).installImage n (buildImage b.hist).1).findRun run with
    | none => _ | some c => _) = _
  rw [hcmd]
  exact if_pos (by rw [hplace]; rfl)

/-! The slots. -/

/-- A slot with no command, current or waiting, has nothing to go on with (R214). -/
theorem slotGo_idle {s : State} {n : Fin 64} (hcur : (s.slot n).cur = none) (hqueue : (s.slot n).queue = []) : s.slotGo n = s := by
  rw [State.slotGo, hqueue]
  change State.spgGo n 1 s = s
  unfold State.spgGo
  simp only [hcur, hqueue]
  split <;> rfl

theorem onCopies_spgSlot (s : State) (n m : Fin 64) (f : SlotCopy → SlotCopy) : (s.onCopies n f).slot m = s.slot m := rfl

theorem onCopies_slot {s : State} {p : SliceNo} (n : Fin 64) (f : SlotCopy → SlotCopy) (hin : s.sliceIn p = true) :
    ((s.onCopies n f).slice p).slots[n] = f ((s.slice p).slots[n]) := by
  simp [State.onCopies, State.slice, hin]

/-- Settles O37: the histogram's way by `histogramSend_next` and `takeHist_clean`, a build by `tableBuild_next`, and the rows of a slot. -/
theorem tableSlotRows : Obligations.TableSlotRows := by
  unfold Obligations.TableSlotRows
  refine ⟨⟨?send, ?take, ?build, ?image⟩, ?live, ?report, ?drained, ?hold⟩
  case send =>
    intro p s run hawake hrun hleft
    refine ⟨s.histSent p run, histogramSend_next hawake hrun hleft, ?_, ?_, rfl, fun q hq => ?_⟩
    · rw [histSent_slice, State.onSlice_slice_self]
    · rw [State.histSent, send_outbox]
      congr 1
      exact bump_outbox ..
    · rw [histSent_slice, State.onSlice_slice_other _ _ hq]
  case take =>
    intro p s run h b hb
    rw [takeHist_clean h hb]
    refine ⟨?_, fun hlast => ?_⟩
    · split <;> rfl
    · rw [if_pos (by simp [hlast])]
      rfl
  case build =>
    intro s run rest b n c hrun hclosed hb hslot hst hbuilt hidle hc hplace
    obtain ⟨hspg, hcmd, hslices, hout⟩ := installImage_spec (s.buildTaken b run rest n) n (buildImage b.hist).1
    have hslotn : ((s.buildTaken b run rest n).installImage n (buildImage b.hist).1).slot n =
        { s.slot n with image := (buildImage b.hist).1, built := true } := by
      rw [State.slot, hspg]
      exact slot_onSlot_self ..
    refine ⟨_, tableBuild_next hrun hclosed hb hslot hst hbuilt hidle hc hplace, by rw [hslotn], by rw [hslotn], hout, ?_, ?_, hcmd, hslices⟩
    · rw [hspg]
      rfl
    · rw [hspg]
      rfl
  case image =>
    intro p n img s hst hcrc
    refine (if_neg ?_).trans (if_neg ?_)
    · rw [hst]
      simp
    · simp [hcrc]
  case live =>
    intro n s hawake hst hbuilt hcur hqueue himages
    have hall : ((List.finRange 32).all fun p => !s.takesImages p || ((s.slice p).slots[n]).image == (s.slot n).image) = true := by
      rw [List.all_eq_true]
      intro p _
      cases hp : s.takesImages p
      · rfl
      · exact beq_iff_eq.2 (himages p hp)
    have hexec : exec (.slotLive n) s = .next (((s.onSlot n fun x => { x with st := .live, built := false, cur := none }).onCopies n
        fun c => { c with st := .live, draining := false, reported := false }).slotGo n) := by
      refine (guarded_pos (by rw [hawake, hst, hbuilt, hall]; rfl)).trans (congrArg _ ?_)
      rw [hcur]
    have hslot : ((s.onSlot n fun x => { x with st := .live, built := false, cur := none }).onCopies n
        fun c => { c with st := .live, draining := false, reported := false }).slot n =
        { s.slot n with st := .live, built := false, cur := none } := by
      rw [onCopies_spgSlot, slot_onSlot_self]
    refine ⟨_, hexec, ?_⟩
    rw [slotGo_idle (by rw [hslot]) (by rw [hslot]; exact hqueue), hslot]
    refine ⟨rfl, rfl, rfl, fun p hp => ?_⟩
    rw [onCopies_slot (s := s.onSlot n _) n _ hp]
  case report =>
    intro p n s hin hawake hslot hcopy hunused hnot
    have hspg : ((s.slot n).st == .retiring || ((s.slot n).st == .live && (s.slot n).draining)) = true := by
      rcases hslot with h | ⟨h, hd⟩
      · rw [h]
        rfl
      · rw [h, hd]
        rfl
    have hown : (((s.slice p).slots[n]).st != .live || ((s.slice p).slots[n]).draining) = true := by
      rcases hcopy with h | h
      · rw [bne_iff_ne.2 h, Bool.true_or]
      · rw [h, Bool.or_true]
    exact guarded_pos (by rw [hin, hawake, hspg, hown, hunused, hnot]; rfl)
  case drained =>
    intro n s hawake hst hdrained hcur
    refine (guarded_pos (by simp [hawake, hst, hdrained])).trans (congrArg _ ?_)
    rw [if_pos hst, hcur]
  case hold =>
    intro n s c hawake hcur hst hdrain hcons hel
    change execSlotHoldTimeout n s = _
    unfold execSlotHoldTimeout
    simp only [hcur]
    exact guarded_pos (by rw [hawake, hst, hdrain, hcons, decide_eq_true hel]; rfl)

end Sys2Proof.Machine
end

section
/-! PROOFS. The rows of the Eyepiece (R159, R197 to R232). -/

namespace Sys2Proof.Machine

/-- Where nothing is armed at the island, no injection applies (R494). -/
theorem inject_unarmed {s : State} {k : IslandNo} (h : (s.isl k).armed = none) (code inst : Nat) : s.inject k code inst = (false, s) := by
  simp [State.inject, Island.armedFor, h]

/-- A plate that has arrived unwritten is delivered as zeros, whatever consumer other than a copy or a host write wants it (R159). -/
theorem plateAdmissible_unwritten {p : SliceNo} {id : Nat} {s : State} {a : Arrived} {t : EStream} {w : Want} (hlive : s.pathLive p = true)
    (ha : (s.slice p).eye.arrived.find? (fun a => a.id == id) = some a) (hw : (s.slice p).eye.wantOf id = some (t, w))
    (hpark : s.parkFull = false) (hturn : (if w.use.stored then s.consumerFree p w.use else s.nextAdmit p == some id) = true)
    (hunw : a.unwritten = true) (hcopy : ∀ d, w.use ≠ .copy d) (hlines : ∀ j, w.use ≠ .lines j) :
    exec (.plateAdmissible p id) s = .next ((if w.use.stored then s.takeArrived p id else (s.takeArrived p id).onSlice p fun x =>
      { x with eye := { x.eye with lastCtx := (s.slice p).eye.ctxOf t.id } }).eyeDeliver p t.run w
        (zeroPlate w w.obj.format a.marked) 0 (!a.marked)) := by
  change execPlateAdmissible p id s = _
  unfold execPlateAdmissible
  simp only [ha, hw]
  refine (guarded_pos (by rw [hlive, hpark, hturn]; rfl)).trans (congrArg _ ?_)
  cases hu : w.use with
  | copy d => exact absurd hu (hcopy d)
  | lines j => exact absurd hu (hlines j)
  | _ => exact if_pos hunw

theorem State.onSlice_congr {s : State} {p : SliceNo} {f g : Slice → Slice} (h : f (s.slice p) = g (s.slice p)) :
    s.onSlice p f = s.onSlice p g := by
  unfold State.onSlice
  rw [show f s.slices[p] = g s.slices[p] from h]

/-- A substream that is not the last of its plate frees its lane, and is counted (R198, R231). -/
theorem subDone_of_more (s : State) (p : SliceNo) (l : Fin 128) {f : InFlight} {i : Nat} {r : Option (List F32 × Nat)}
    (hmore : (KMap.put f.done i (match r with | some v => v.1 | none => [])).length ≠ 16) :
    ∃ (f1 : InFlight) (n : Nat), s.subDone p l f i r = (s.onSlice p fun x => { x with eye := { x.eye with
      lanes := x.eye.lanes.set l none
      flight := mapIf (fun g => g.want.id == f.want.id) (fun _ => f1) x.eye.flight } }).bump (psIsl p) psEyeLaneCyc n :=
  ⟨_, _, if_neg hmore⟩

/-- Settles O38: each row is its guarded effect; an unwritten plate by `plateAdmissible_unwritten`. -/
theorem eyepieceRows : Obligations.EyepieceRows := by
  unfold Obligations.EyepieceRows
  refine ⟨⟨?leaves, ?unwritten, ?context, ?lane, ?cache⟩, ?ends⟩
  case leaves =>
    intro p id s a hlive ha hw
    change execPlateAdmissible p id s = _
    unfold execPlateAdmissible
    simp only [ha, hw]
    exact guarded_pos hlive
  case unwritten =>
    intro p id s a t w hlive ha hw hpark hturn hunw hcopy hlines
    refine plateAdmissible_unwritten hlive ha hw hpark ?_ hunw hcopy hlines
    cases hst : w.use.stored
    · rw [hst, if_neg (by simp)] at hturn
      simp [hturn]
    · rw [hst, if_pos rfl] at hturn
      simp [hturn]
  case context =>
    intro p c s t hlive hrun hwait hfree
    refine (guarded_pos (by simp [hlive, hrun])).trans (congrArg _ ?_)
    simp only [hwait, hfree]
    rfl
  case lane =>
    intro p s f l hlive hf hcached hl
    change execLaneAssign p s = _
    unfold execLaneAssign
    simp only [hf, hl]
    exact guarded_pos (by rw [hlive, hcached]; rfl)
  case cache =>
    intro p n s hlive hnew hused hroom
    refine (guarded_pos (by rw [hlive, hnew, hused, decide_eq_true hroom]; rfl)).trans (congrArg _ (State.onSlice_congr ?_))
    simp only [if_pos hroom]
  case ends =>
    intro p l s f i hlive hholds hfin tab bits
    refine ⟨fun hno harm => ?_, fun hout => ?_, fun r hmore => ?_⟩
    · change execSubstreamEnd p l s = _
      unfold execSubstreamEnd
      simp only [hholds, inject_unarmed harm]
      exact (guarded_pos (by rw [hlive, hfin, hno]; rfl)).trans (congrArg _ (if_neg (by simp)))
    · change execSubstreamDecodeTimeout p l s = _
      unfold execSubstreamDecodeTimeout
      simp only [hholds]
      exact guarded_pos (by rw [hlive, hfin, hout]; rfl)
    · obtain ⟨f1, n, hdone⟩ := subDone_of_more s p l hmore
      rw [hdone, State.bump_slice, State.onSlice_slice_self]
      exact Vector.getElem_set_self ..

end Sys2Proof.Machine
end

section
/-! PROOFS. The Dense Plate Engine and the pair (R275 to R294, R318 to R320, R452). -/

namespace Sys2Proof.Machine

/-! The pair. -/

theorem twinOf_ne (p : SliceNo) : twinOf p ≠ p := by decide +revert

theorem twinOf_pairLow (k : Fin 16) : twinOf (pairLow k) = pairHigh k := by decide +revert

theorem State.onPair_slice_self (s : State) (p : SliceNo) (f : Pair → Pair) :
    (s.onPair p f).slice p = { s.slice p with pair := f (s.slice p).pair } := State.onSlice_slice_self ..

theorem State.onPair_slice_other (s : State) {p q : SliceNo} (f : Pair → Pair) (h : q ≠ p) : (s.onPair p f).slice q = s.slice q :=
  State.onSlice_slice_other s _ h

theorem pairHigh_ne_pairLow (k : Fin 16) : pairHigh k ≠ pairLow k := twinOf_pairLow k ▸ twinOf_ne _

/-- Settles O41: each row is its guarded effect on the two slices of a pair. -/
theorem pairRows : Obligations.PairRows := by
  unfold Obligations.PairRows
  refine ⟨?join, ?separate, ?notice, ?takeUp⟩
  case join =>
    intro k s hwait hlive hapart hyes hlow hhigh
    have hexec : exec (.pairJoin k) s = .next (s.joinPair (pairLow k)) := by
      change execPairJoin k s = _
      unfold execPairJoin
      simp only [hwait, if_true]
      exact (guarded_pos (by rw [hlive, hapart]; rfl)).trans (congrArg _ ((if_neg (by simp [hyes])).trans (if_pos (by rw [hlow, hhigh]; rfl))))
    have hne := pairHigh_ne_pairLow k
    refine ⟨_, hexec, ?_⟩
    simp only [State.joinPair, State.bump_slice, twinOf_pairLow, State.onPair_slice_self, State.onPair_slice_other _ _ hne.symm]
    refine ⟨trivial, trivial, trivial, trivial, fun q hq hq' => ?_, rfl⟩
    rw [State.onPair_slice_other _ _ hq', State.onPair_slice_other _ _ hq]
  case separate =>
    intro k s hlead hjoined hover
    have hexec : exec (.pairSeparate k) s = .next ((s.onPair (pairLow k) fun q => { q with joined := false, lead := false, run := none }).onPair
        (twinOf (pairLow k)) fun q => { q with joined := false, lead := false, run := none }) := by
      change execPairSeparate k s = _
      unfold execPairSeparate
      simp only [hlead, if_true]
      exact guarded_pos (by rw [hjoined, hover]; rfl)
    have hne := pairHigh_ne_pairLow k
    refine ⟨_, hexec, ?_⟩
    simp only [twinOf_pairLow, State.onPair_slice_self, State.onPair_slice_other _ _ hne.symm]
    refine ⟨trivial, trivial, fun q hq hq' => ?_, rfl, rfl⟩
    rw [State.onPair_slice_other _ _ hq', State.onPair_slice_other _ _ hq]
  case notice =>
    intro p s hlive hshut hnot hserves hsettled
    refine ⟨_, guarded_pos (by rw [hlive, hshut, hnot, hserves, hsettled]; rfl), ?_⟩
    simp only [State.onPair_slice_self, State.onPair_slice_other _ _ (twinOf_ne p).symm]
    exact ⟨trivial, trivial, trivial, rfl⟩
  case takeUp =>
    intro p s hawake hserving hown hnotice
    refine ⟨_, guarded_pos (by rw [hawake, hserving, hown, hnotice]; rfl), onlySlice_onSlice .., ?_⟩
    rw [State.onSlice_slice_self]
    exact ⟨rfl, rfl, rfl⟩

/-! The Dense Plate Engine. -/

theorem State.onDpe_slice_self (s : State) (p : SliceNo) (f : Dpe → Dpe) :
    (s.onDpe p f).slice p = { s.slice p with dpe := f (s.slice p).dpe } := State.onSlice_slice_self ..

theorem State.onDpe_congr {s : State} {p : SliceNo} {f g : Dpe → Dpe} (h : f (s.slice p).dpe = g (s.slice p).dpe) :
    s.onDpe p f = s.onDpe p g := State.onSlice_congr (by rw [h])

/-- Where no stationary plate of a pass carries poison, its accumulators begin unmarked (R286). -/
theorem marked_none (accs : List Acc) (rows : List Nat) :
    (accs.map fun a => if a.doneAt.isNone && ([] : List Nat).contains a.n then a.mark rows else a) = accs := by simp

/-- The jobs given to the Sparse Merge Engine, of those chosen (R320). -/
theorem picks_given {α β : Type} (l : List α) (f : α → Bool × β) :
    (((l.map fun e => (e, f e)).filter fun e => e.2.1).map fun e => e.1) = l.filter fun e => (f e).1 := by
  induction l with
  | nil => rfl
  | cons a l ih =>
    cases h : (f a).1 <;> simp [h] at ih ⊢ <;> exact ih

/-- The engine with the choice made for the row block that waits for it, or for the next one (R320). -/
def Dpe.choiceMade (d : Dpe) (given : List (Nat × Nat)) : Dpe :=
  let d0 : Dpe := { d with maps := [], mapsAsked := none }
  let d1 : Dpe := if d.blkP != 0 && !d.chosen then { d0 with toSme := given, chosen := true } else { d0 with next := some given }
  if d.blkP != 0 && !d.chosen then { d1 with steps := d1.stepsOf d1.cols } else d1

theorem Dpe.choiceMade_asked (d : Dpe) (given : List (Nat × Nat)) : (d.choiceMade given).mapsAsked = none := by
  unfold Dpe.choiceMade
  split <;> rfl

theorem Dpe.choiceMade_here (d : Dpe) (given : List (Nat × Nat)) (h : d.blkP ≠ 0) (h' : d.chosen = false) :
    (d.choiceMade given).chosen = true ∧ (d.choiceMade given).toSme = given := by
  simp [Dpe.choiceMade, h, h']

theorem Dpe.choiceMade_ahead (d : Dpe) (given : List (Nat × Nat)) (h : d.blkP = 0 ∨ d.chosen = true) :
    (d.choiceMade given).next = some given ∧ (d.choiceMade given).toSme = d.toSme := by
  rcases h with h | h <;> simp [Dpe.choiceMade, h]

/-- Settles O39: each row is its guarded effect, by what the engine holds. -/
theorem denseEngineRows : Obligations.DenseEngineRows := by
  unfold Obligations.DenseEngineRows
  refine ⟨?load, ?begins, ?stall, ?starts, ?final, ?drain, ?ask, ?choose⟩
  case load =>
    intro p s hlive
    exact guarded_pos hlive
  case begins =>
    intro p s j j2 rest hlive u hjob hqueue hfree hbegins hjoined hjoin
    refine (guarded_pos hlive).trans (congrArg _ ?_)
    have hu : s.dpeAbsorb p = u := rfl
    clear_value u
    unfold State.blockLoad
    simp only [hu, hjob, hqueue, hfree, hbegins, hjoined, hjoin]
    rfl
  case stall =>
    intro p s j hlive u d hcur hblk hchosen hpass hnext hrun huses
    have hu : s.dpeAbsorb p = u := rfl
    have hd : (u.slice p).dpe = d := rfl
    clear_value d u
    change execPassStart p s = _
    unfold execPassStart
    simp only [hu, hd, hcur, huses]
    exact guarded_pos (by simp [hlive, hblk, hchosen, hpass, hnext, hrun])
  case starts =>
    intro p s j us hlive u d l hcur hblk hchosen hpass hnext hrun huses hacts hroom hclean keys drop
    have hpresent : (l.all fun e => d.rows.all fun i => (d.act i e.2.kp).isSome) = true := by
      simp only [List.all_eq_true]
      exact hacts
    have hbad : (us.filter fun v => v.plate.poison) = [] := List.filter_eq_nil_iff.2 fun v hv => by simp [hclean v hv]
    have hu : s.dpeAbsorb p = u := rfl
    have hd : (u.slice p).dpe = d := rfl
    have hl : d.nextPass (u.arrays p) = l := rfl
    clear_value l d u
    change execPassStart p s = _
    unfold execPassStart
    simp only [hu, hd, hl, hcur, huses, hpresent, hroom, hbad]
    refine (guarded_pos (by simp [hlive, hblk, hchosen, hpass, hnext, hrun])).trans (congrArg _ ?_)
    rw [if_neg (by simp), if_neg (by simp)]
    refine congrArg (fun v : State => (drop (drop v p) (twinOf p)).askPass p) (State.onDpe_congr ?_)
    rw [hd, List.map_nil, marked_none]
  case final =>
    intro p s a hlive hnext hel out
    change execOutputFinal p s = _
    unfold execOutputFinal
    simp only [hnext]
    refine (guarded_pos (by rw [hlive, decide_eq_true hel]; rfl)).trans (congrArg _ ?_)
    rw [List.length_map, List.length_range]
  case drain =>
    intro q p s j o hlive hfrom hjob hroom v w
    refine ⟨fun hdest => ?_, fun k hdest hk => ?_⟩
    · change execAccumulatorDrain q s = _
      unfold execAccumulatorDrain
      simp only [hfrom, hjob]
      exact (guarded_pos (by rw [hlive, hroom]; rfl)).trans (congrArg _ (if_neg hdest))
    · change execAccumulatorDrain q s = _
      unfold execAccumulatorDrain
      simp only [hfrom, hjob]
      refine (guarded_pos (by rw [hlive, hroom]; rfl)).trans (congrArg _ ((if_pos hdest).trans ?_))
      rw [hk]
  case ask =>
    intro p s j hlive u d hjob hrows hengine hasked
    have hu : s.dpeAbsorb p = u := rfl
    have hd : (u.slice p).dpe = d := rfl
    clear_value d u
    change execEngineChoice p s = _
    unfold execEngineChoice
    simp only [hu, hd, hjob, hasked]
    exact guarded_pos (by simp [hlive, hrows, hengine])
  case choose =>
    intro p s j asked hlive u d given hjob hrows hengine hasked hmaps
    have hall : (asked.all fun a => d.maps.any fun e => e.1 == a) = true := by
      simpa [List.all_eq_true, List.any_eq_true, beq_iff_eq] using hmaps
    have hu : s.dpeAbsorb p = u := rfl
    have hd : (u.slice p).dpe = d := rfl
    clear_value d u
    have hgiven : (((d.choiceRows.flatMap fun i => d.cols.map fun n => (i, n)).map fun e => (e, u.chooseJob p j e.1 e.2)).filter
        fun e => e.2.1).map (fun e => e.1) = given :=
      picks_given (d.choiceRows.flatMap fun i => d.cols.map fun n => (i, n)) (fun e => u.chooseJob p j e.1 e.2)
    clear_value given
    have hexec : ∃ jobs a b c, exec (.engineChoice p) s = .next ((((u.onSlice p fun x => { x with
        dpe := d.choiceMade given, sme := { x.sme with jobs := x.sme.jobs ++ jobs } }).bump (psIsl p) psChoiceSme a).bump
          (psIsl p) psChoiceDpe b).bump (psIsl p) psChoiceAlm c) := by
      have hgo : (s.pathLive p && !d.choiceRows.isEmpty && j.engineOf == 0) = true := by simp [hlive, hrows, hengine]
      change ∃ jobs a b c, execEngineChoice p s = _
      unfold execEngineChoice
      simp only [hu, hd]
      split
      next h => exact absurd (hjob.symm.trans h) (by simp)
      next j' h =>
        obtain rfl : j = j' := Option.some.inj (hjob.symm.trans h)
        simp only [hasked, hall, hgiven]
        exact ⟨_, _, _, _, (guarded_pos hgo).trans (congrArg _ (if_neg (c := (!true) = true) (by simp)))⟩
    obtain ⟨jobs, a, b, c, hexec⟩ := hexec
    refine ⟨_, hexec, ?_⟩
    simp only [State.bump_slice, State.bump_cmd, State.onSlice_cmd, State.onSlice_slice_self]
    refine ⟨d.choiceMade_asked given, fun h h' => d.choiceMade_here given h h', fun h => ?_, fun q hq => State.onSlice_slice_other _ _ hq, trivial⟩
    exact d.choiceMade_ahead given h

end Sys2Proof.Machine
end

section
/-! PROOFS. The rows of activations that the arrays of a pass take (R275 to R282, R452). -/

namespace Sys2Proof.Machine

/-! Column runs and their sums. -/

/-- The runs collected so far, the last one first, and the column of the run that may go on. -/
abbrev RunAcc : Type := List (Nat × List (Nat × List F32)) × Option Nat

/-- What `columnRuns` collects of a list of arrays, from what it has. -/
def runsFrom (a : RunAcc) (l : List (Option (Nat × List (Nat × List F32)))) : RunAcc :=
  l.foldl (fun a e => match e, a.1 with
    | none, _ => (a.1, none)
    | some (n, y), (m, ys) :: more => if a.2 = some n then ((m, ys ++ y) :: more, some n) else ((n, y) :: a.1, some n)
    | some (n, y), [] => ([(n, y)], some n)) a

theorem columnRuns_eq (l : List (Option (Nat × List (Nat × List F32)))) :
    columnRuns l = ((runsFrom ([], none) l).1.reverse).filter fun e => !e.2.isEmpty := rfl

/-- Idle arrays add nothing. -/
theorem runsFrom_idle (a : RunAcc) {l : List (Option (Nat × List (Nat × List F32)))} (h : ∀ e ∈ l, e = none) : (runsFrom a l).1 = a.1 := by
  induction l generalizing a with
  | nil => rfl
  | cons e l ih =>
    obtain rfl : e = none := h e (by simp)
    exact ih (a.1, none) fun e he => h e (by simp [he])

/-- One array holds a step: its column's run is all there is. -/
theorem columnRuns_single {pre post : List (Option (Nat × List (Nat × List F32)))} (hpre : ∀ e ∈ pre, e = none) (hpost : ∀ e ∈ post, e = none)
    (n : Nat) (ys : List (Nat × List F32)) : columnRuns (pre ++ some (n, ys) :: post) = if ys.isEmpty then [] else [(n, ys)] := by
  have hstart := runsFrom_idle ([], none) hpre
  have hrun : (runsFrom ([], none) (pre ++ some (n, ys) :: post)).1 = [(n, ys)] := by
    have happend : runsFrom ([], none) (pre ++ some (n, ys) :: post) =
        runsFrom (runsFrom (runsFrom ([], none) pre) [some (n, ys)]) post := by
      simp only [runsFrom, List.foldl_append, List.foldl_cons, List.foldl_nil]
    rw [happend, runsFrom_idle _ hpost]
    generalize runsFrom ([], none) pre = a at hstart
    obtain ⟨l, o⟩ := a
    obtain rfl : l = [] := hstart
    rfl
  rw [columnRuns_eq, hrun]
  cases ys <;> rfl

/-- The arrays in order, of which only one holds a step of the pass. -/
theorem filterMap_single {α : Type} (arr : Nat) (x : α) (on : Nat → Bool) (l : List Nat) (hmem : arr ∈ l) (hnodup : l.Nodup) :
    ∃ pre post : List (Option α), (∀ e ∈ pre, e = none) ∧ (∀ e ∈ post, e = none) ∧
      (l.filterMap fun i => if arr == i || on i then some (if arr == i then some x else none) else none) = pre ++ some x :: post := by
  obtain ⟨l1, l2, rfl⟩ := List.append_of_mem hmem
  have hidle (l : List Nat) (hl : arr ∉ l) : ∀ e ∈ l.filterMap (fun i => if arr == i || on i then some (if arr == i then some x else none)
      else none), e = none := by
    intro e he
    obtain ⟨i, hi, hie⟩ := List.mem_filterMap.1 he
    have hne : (arr == i) = false := beq_eq_false_iff_ne.2 fun h => hl (h ▸ hi)
    rw [hne] at hie
    cases hon : on i <;> simp [hon] at hie
    exact hie.symm
  obtain ⟨_, hn2, hdis⟩ := List.nodup_append.1 hnodup
  refine ⟨_, _, hidle l1 fun h => hdis _ h _ (by simp) rfl, hidle l2 (List.nodup_cons.1 hn2).1, ?_⟩
  rw [List.filterMap_append, List.filterMap_cons]
  simp

theorem runSum_single (draws : List Nat) (arr : Nat) (row : List F32) : runSum draws [(arr, row)] = row := by
  by_cases h : arr < 32 <;> cases draws <;> simp [runSum, treeSum, h]

/-! What a row leaves. -/

/-- The rows counted in slice q, where any array of it has a step (R277). -/
def State.rowCounted (s : State) (q : SliceNo) (idle : Bool) (rows gated : Nat) : State :=
  if idle then s else ((s.bump (psIsl q) psDpeIssue).bump (psIsl q) psDpeRows rows).bump (psIsl q) psDpeGated gated

theorem rowCounted_slice (s : State) (q : SliceNo) (idle : Bool) (rows gated : Nat) (p : SliceNo) :
    (s.rowCounted q idle rows gated).slice p = s.slice p := by cases idle <;> rfl

theorem rowCounted_cmd (s : State) (q : SliceNo) (idle : Bool) (rows gated : Nat) : (s.rowCounted q idle rows gated).cmd = s.cmd := by
  cases idle <;> rfl

theorem bump_detQueue (s : State) (k j : IslandNo) (off n : Nat) : ((s.bump k off n).isl j).detQueue = (s.isl j).detQueue := by
  rw [State.bump, State.onIsl_isl]
  split
  next h =>
    subst h
    unfold Island.bump
    split <;> rfl
  · rfl

theorem event_detQueue (s : State) (k : IslandNo) (e : DetEvent) : ((s.event k e).isl k).detQueue = (s.isl k).detQueue ++ [e] := by
  rw [State.event, State.onIsl_isl_self]

theorem rowCounted_detQueue (s : State) (q : SliceNo) (idle : Bool) (rows gated : Nat) (k : IslandNo) :
    ((s.rowCounted q idle rows gated).isl k).detQueue = (s.isl k).detQueue := by
  cases idle
  · exact (bump_detQueue ..).trans ((bump_detQueue ..).trans (bump_detQueue ..))
  · rfl

/-- The steps of the pass that take the row and whose checks have not failed (R279, R452). -/
def State.goodUses (s : State) (p : SliceNo) (failing : List (Fin 64)) : List PassUse :=
  ((s.slice p).dpe.pass.filter fun u => u.step.row0 ≤ (s.slice p).dpe.row).filter fun u =>
    !(s.slice p).dpe.failed.contains u.arr && !((s.rowFails p failing).any fun e => e.1 == u.arr)

/-- The activation plate that a step takes its row from. -/
def State.rowPlate (s : State) (p : SliceNo) (j : MatJob) (u : PassUse) : Plate :=
  ((s.slice p).dpe.act ((s.slice p).dpe.blkRow + (s.slice p).dpe.row / 128) u.step.kp).getD (Plate.zeros j.cfmt)

/-- What an array holds in the pass, with the row it forms. -/
def State.rowHeld (s : State) (p : SliceNo) (j : MatJob) (good : List PassUse) (arr : Nat) : Option (Nat × List (Nat × List F32)) :=
  ((s.slice p).dpe.pass.find? fun u => u.arr == arr).map fun u =>
    (u.step.n, if good.contains u then [(arr, arrayRow (s.rowPlate p j u) u.plate ((s.slice p).dpe.row % 128))] else [])

/-- The sums that the row adds, one of each run of arrays that hold a column (R279). -/
def State.rowSums (s : State) (p : SliceNo) (j : MatJob) (good : List PassUse) : List (Nat × List F32) :=
  (columnRuns ((List.range 64).filterMap fun arr =>
    if (s.slice p).dpe.pass.any (fun u => u.arr == arr) || (s.arrays p).contains arr then some (s.rowHeld p j good arr) else none)).map
      fun e => (e.1, runSum (s.freeNats good.length).1 e.2)

/-- Accumulators of columns whose activation plate carries poison, marked (R286). -/
def markBad (bad : List Nat) (i : Nat) (accs : List Acc) : List Acc :=
  accs.map fun c => if c.doneAt.isNone && bad.contains c.n then c.mark [i] else c

theorem markBad_none (i : Nat) (accs : List Acc) : markBad [] i accs = accs := by simp [markBad]

/-- The engine and its slice's island after a row that is not the block's last, but for the counters. -/
def State.rowTaken (s : State) (p : SliceNo) (j : MatJob) (failing : List (Fin 64)) : State :=
  ((s.rowFails p failing).foldl (fun s e => s.rowFailed p j e) (s.freeNats (s.goodUses p failing).length).2).onDpe p fun d => { d with
    row := (s.slice p).dpe.row + 1
    accs := markBad (((s.goodUses p failing).filter fun u => (s.rowPlate p j u).poison).map fun u => u.step.n)
      ((s.slice p).dpe.blkRow + (s.slice p).dpe.row / 128) (addSums d.accs (s.slice p).dpe.row (s.rowSums p j (s.goodUses p failing))) }

theorem activationRowIssue_next {p : SliceNo} {s : State} {j : MatJob} (failing : List (Fin 64)) (hlive : s.pathLive p = true)
    (hcur : (s.slice p).dpe.cur = some j) (hpass : (s.slice p).dpe.pass ≠ [])
    (hmore : (s.slice p).dpe.row + 1 ≠ 128 * (s.slice p).dpe.blkP) :
    ∃ i r g i' r' g', exec (.activationRowIssue p failing) s = .next (((s.rowTaken p j failing).rowCounted p i r g).rowCounted (twinOf p)
      i' r' g') := by
  change ∃ i r g i' r' g', execActivationRowIssue p failing s = _
  unfold execActivationRowIssue
  have hgo : (s.pathLive p && !(s.slice p).dpe.pass.isEmpty) = true := by simp [hlive, hpass]
  dsimp only
  rw [hcur]
  exact ⟨_, _, _, _, _, _, (guarded_pos hgo).trans (congrArg _ (if_neg hmore))⟩

theorem goodUses_clean {s : State} {p : SliceNo} {failing : List (Fin 64)} (hfailed : (s.slice p).dpe.failed = [])
    (hnone : s.rowFails p failing = []) :
    s.goodUses p failing = (s.slice p).dpe.pass.filter fun u => u.step.row0 ≤ (s.slice p).dpe.row := by
  simp [State.goodUses, hfailed, hnone]

/-- The row of a pass leaves its engine, its slice's island but for the counters, and nothing else. -/
theorem rowCounted_twice {s x : State} {p : SliceNo} {i i' : Bool} {r g r' g' : Nat}
    (hx : x = (s.rowCounted p i r g).rowCounted (twinOf p) i' r' g') :
    (∀ q, x.slice q = s.slice q) ∧ x.cmd = s.cmd ∧ ∀ k, (x.isl k).detQueue = (s.isl k).detQueue := by
  subst hx
  exact ⟨fun q => (rowCounted_slice ..).trans (rowCounted_slice ..), (rowCounted_cmd ..).trans (rowCounted_cmd ..),
    fun k => (rowCounted_detQueue ..).trans (rowCounted_detQueue ..)⟩

/-- Where no check fails and no activation plate carries poison, the sums of the row are added and the pass goes on. -/
theorem activationRowIssue_clean {p : SliceNo} {s : State} {j : MatJob} (failing : List (Fin 64)) (hlive : s.pathLive p = true)
    (hcur : (s.slice p).dpe.cur = some j) (hpass : (s.slice p).dpe.pass ≠ []) (hnone : s.rowFails p failing = [])
    (hclean : ∀ u ∈ (s.slice p).dpe.pass, (s.rowPlate p j u).poison = false) (hmore : (s.slice p).dpe.row + 1 ≠ 128 * (s.slice p).dpe.blkP) :
    ∃ x, exec (.activationRowIssue p failing) s = .next x ∧ (x.slice p).dpe.row = (s.slice p).dpe.row + 1 ∧
      (x.slice p).dpe.pass = (s.slice p).dpe.pass ∧
      (x.slice p).dpe.accs = addSums (s.slice p).dpe.accs (s.slice p).dpe.row (s.rowSums p j (s.goodUses p failing)) ∧
      (∀ q, q ≠ p → x.slice q = s.slice q) ∧ x.cmd = s.cmd := by
  obtain ⟨i, r, g, i', r', g', hexec⟩ := activationRowIssue_next failing hlive hcur hpass hmore
  obtain ⟨hslice, hcmd, -⟩ := rowCounted_twice (s := s.rowTaken p j failing) (p := p) (i := i) (r := r) (g := g) (i' := i') (r' := r')
    (g' := g') rfl
  have hgood : ((s.goodUses p failing).filter fun u => (s.rowPlate p j u).poison) = [] := by
    refine List.filter_eq_nil_iff.2 fun u hu => ?_
    have hmem : u ∈ (s.slice p).dpe.pass := List.mem_of_mem_filter (List.mem_of_mem_filter hu)
    simp [hclean u hmem]
  have htaken : s.rowTaken p j failing = (s.freeNats (s.goodUses p failing).length).2.onDpe p fun d => { d with
      row := (s.slice p).dpe.row + 1
      accs := addSums d.accs (s.slice p).dpe.row (s.rowSums p j (s.goodUses p failing)) } := by
    simp only [State.rowTaken, hnone, List.foldl_nil, hgood, List.map_nil, markBad_none]
  refine ⟨_, hexec, ?_, ?_, ?_, fun q hq => ?_, ?_⟩
  · rw [hslice, htaken, State.onDpe_slice_self]
  · rw [hslice, htaken, State.onDpe_slice_self]; rfl
  · rw [hslice, htaken, State.onDpe_slice_self]; rfl
  · rw [hslice, htaken]; exact State.onSlice_slice_other _ _ hq
  · rw [hcmd, htaken]; rfl

/-- What the arrays hold, where none has failed. -/
theorem rowSums_clean {s : State} {p : SliceNo} (j : MatJob) {failing : List (Fin 64)} (hfailed : (s.slice p).dpe.failed = [])
    (hnone : s.rowFails p failing = []) :
    s.rowSums p j (s.goodUses p failing) = (columnRuns ((List.range 64).filterMap fun arr =>
      if (s.slice p).dpe.pass.any (fun u => u.arr == arr) || (s.arrays p).contains arr then
        some (((s.slice p).dpe.pass.find? fun u => u.arr == arr).map fun u => (u.step.n, if u.step.row0 ≤ (s.slice p).dpe.row then
          [(arr, arrayRow (s.rowPlate p j u) u.plate ((s.slice p).dpe.row % 128))] else [])) else none)).map fun e => (e.1, runSum
            (s.freeNats ((s.slice p).dpe.pass.filter fun u => u.step.row0 ≤ (s.slice p).dpe.row).length).1 e.2) := by
  have hheld (arr : Nat) : s.rowHeld p j (s.goodUses p failing) arr =
      ((s.slice p).dpe.pass.find? fun u => u.arr == arr).map fun u => (u.step.n, if u.step.row0 ≤ (s.slice p).dpe.row then
          [(arr, arrayRow (s.rowPlate p j u) u.plate ((s.slice p).dpe.row % 128))] else []) := by
    rw [State.rowHeld]
    cases hfind : (s.slice p).dpe.pass.find? fun u => u.arr == arr with
    | none => rfl
    | some u =>
      have hmem : (s.goodUses p failing).contains u = decide (u.step.row0 ≤ (s.slice p).dpe.row) := by
        rw [goodUses_clean hfailed hnone, Bool.eq_iff_iff]
        simp [List.mem_filter, List.mem_of_find?_eq_some hfind]
      simp only [Option.map_some, hmem, decide_eq_true_eq]
  rw [State.rowSums, funext hheld, goodUses_clean hfailed hnone]

/-- What the arrays hold, where the pass has one step. -/
theorem columnRuns_onePass {pass : List PassUse} {u : PassUse} (hpass : pass = [u]) (harr : u.arr < 64) (on : Nat → Bool)
    (held : Nat → PassUse → List (Nat × List F32)) :
    columnRuns ((List.range 64).filterMap fun arr => if pass.any (fun v => v.arr == arr) || on arr then
      some ((pass.find? fun v => v.arr == arr).map fun v => (v.step.n, held arr v)) else none) =
      if (held u.arr u).isEmpty then [] else [(u.step.n, held u.arr u)] := by
  subst hpass
  have hfind (arr : Nat) : (([u].find? fun v => v.arr == arr).map fun v => (v.step.n, held arr v)) =
      if u.arr == arr then some (u.step.n, held u.arr u) else none := by
    cases h : u.arr == arr with
    | false => simp [h]
    | true => simp [beq_iff_eq.1 h]
  simp only [hfind, List.any_cons, List.any_nil, Bool.or_false]
  obtain ⟨pre, post, hpre, hpost, hl⟩ := filterMap_single u.arr (u.step.n, held u.arr u) on (List.range 64) (List.mem_range.2 harr) List.nodup_range
  rw [hl, columnRuns_single hpre hpost]

/-- A check that fails is heard of and repaired; nothing is added in the pass. -/
theorem rowFailed_one (s : State) (p : SliceNo) (j : MatJob) {u : PassUse} (hpass : (s.slice p).dpe.pass = [u])
    (hself : s.arraySlice p u.arr = p) :
    s.rowFailed p j (u.arr, false) = ((s.event (psIsl p) {
      code := 0x0105, inst := BitVec.ofNat 16 (u.arr % 32), oid := j.b.oid, plate := BitVec.ofNat 24 (j.bPlate u.step.n u.step.kp) }).onDpe p
        fun d => { d with
          failed := d.failed ++ [u.arr]
          repair := d.repair ++ [{ n := u.step.n, kp := u.step.kp, row0 := d.row, repair := true, avoid := some u.arr }] }).bump
            (psIsl p) psRepairSteps := by
  have hfind : ((s.slice p).dpe.pass.find? fun v => v.arr == u.arr) = some u := by simp [hpass]
  simp only [State.rowFailed, hfind, hself]
  rfl

/-- Settles O40, by the form of the pass's row (`activationRowIssue_next`) and the column runs of a pass with one step. -/
theorem rowsAreIssued : Obligations.RowsAreIssued := by
  refine ⟨?single, ?general, ?failing⟩
  case single =>
    intro p s j u hlive hcur hpass hrow hfailed hnone d t a ha hclean hmore harr _
    have hplate : s.rowPlate p j u = a := by
      change (d.act (d.blkRow + t / 128) u.step.kp).getD _ = a
      rw [ha]; rfl
    obtain ⟨x, hexec, hxrow, hxpass, hxaccs, hother, hcmd⟩ := activationRowIssue_clean (p := p) (s := s) (j := j) [] hlive hcur
      (by simp [hpass]) hnone (by simpa [hpass, hplate] using hclean) hmore
    refine ⟨x, hexec, hxrow, hxpass.trans hpass, ?_, hother, hcmd⟩
    rw [hxaccs, rowSums_clean j hfailed hnone, columnRuns_onePass hpass harr (fun arr => (s.arrays p).contains arr)
      fun arr v => if v.step.row0 ≤ (s.slice p).dpe.row then
        [(arr, arrayRow (s.rowPlate p j v) v.plate ((s.slice p).dpe.row % 128))] else [], if_pos hrow, hplate]
    simp only [List.isEmpty_cons, Bool.false_eq_true, if_false, List.map_cons, List.map_nil, runSum_single]
    rfl
  case general =>
    intro p failing s j hlive hcur hpass hfailed hnone d t a hclean hmore runs
    obtain ⟨x, hexec, hxrow, hxpass, hxaccs, hother, hcmd⟩ := activationRowIssue_clean (p := p) (s := s) (j := j) failing hlive hcur
      hpass hnone hclean hmore
    exact ⟨x, hexec, hxrow, hxpass, hxaccs.trans (congrArg _ (rowSums_clean j hfailed hnone)), hother, hcmd⟩
  case failing =>
    intro p f s j u hlive hcur hpass harr hrow hfailed hmore hself
    have hfails : s.rowFails p [f] = [(u.arr, false)] := by
      simp [State.rowFails, hpass, hfailed, harr, Nat.not_lt.2 hrow]
    have hgood : s.goodUses p [f] = [] := by simp [State.goodUses, hpass, hfails]
    have hsums : s.rowSums p j [] = [] := by
      have hheld := columnRuns_onePass hpass (harr ▸ f.isLt) (fun arr => (s.arrays p).contains arr) fun _ _ => []
      have hnil : columnRuns _ = [] := hheld
      exact congrArg (List.map _) hnil
    have htaken : s.rowTaken p j [f] = (((s.freeNats 0).2.rowFailed p j (u.arr, false)).onDpe p fun d => { d with
        row := (s.slice p).dpe.row + 1 }) := by
      simp only [State.rowTaken, hfails, hgood, hsums, List.filter_nil, List.map_nil, markBad_none, List.foldl_cons, List.foldl_nil]
      rfl
    rw [rowFailed_one (s.freeNats 0).2 p j hpass hself] at htaken
    obtain ⟨i, r, g, i', r', g', hexec⟩ := activationRowIssue_next [f] hlive hcur (by simp [hpass]) hmore
    obtain ⟨hslice, hcmd, hdet⟩ := rowCounted_twice (s := s.rowTaken p j [f]) (p := p) (i := i) (r := r) (g := g) (i' := i') (r' := r')
      (g' := g') rfl
    refine ⟨_, hexec, ?_, ?_, ?_, ?_, ?_, fun q hq => ?_, ?_⟩
    · rw [hslice, htaken, State.onDpe_slice_self]
    · rw [hslice, htaken, State.onDpe_slice_self, State.bump_slice, State.onDpe_slice_self]
      exact congrArg (· ++ [u.arr]) hfailed
    · rw [hslice, htaken, State.onDpe_slice_self, State.bump_slice, State.onDpe_slice_self]
      rfl
    · rw [hslice, htaken, State.onDpe_slice_self, State.bump_slice, State.onDpe_slice_self]
      rfl
    · rw [hdet, htaken]
      exact (bump_detQueue ..).trans (event_detQueue (s.freeNats 0).2 (psIsl p) _)
    · rw [hslice, htaken]
      refine (State.onSlice_slice_other _ _ hq).trans ((State.bump_slice ..).trans (State.onSlice_slice_other _ _ hq))
    · rw [hcmd, htaken]
      exact State.bump_cmd (k := psIsl p) (off := psRepairSteps) (n := 1) _

end Sys2Proof.Machine
end

section
/-! PROOFS. The rows of the Sparse Merge Engine (R297 to R313). -/

namespace Sys2Proof.Machine

theorem chunkQueue_next {p : SliceNo} {s : State} {j : MatJob} (hlive : s.pathLive p = true) (hjob : (s.slice p).dpe.job = some j)
    (hdrain : (s.slice p).sme.draining = false) (hrun : s.abandoned j.run = false) (hlanes : s.lanes p ≠ []) :
    exec (.chunkQueue p) s = .next (s.chunkNext p j) := by
  change execChunkQueue p s = _
  unfold execChunkQueue
  simp only [hjob]
  exact guarded_pos (by simp [hlive, hdrain, hrun, hlanes])

/-- A lane that holds no task takes up the first of its queue (R304). -/
theorem taskRun_start {p : SliceNo} {l : Fin 32} {s : State} {j : MatJob} {t : Task} {rest : List Task} (hlive : s.pathLive p = true)
    (hjob : (s.slice p).dpe.job = some j) (hidle : ∀ w ∈ (s.slice p).sme.work, w.lane ≠ l.val)
    (hqueue : (s.slice p).sme.queues[l] = t :: rest) (hlane : (s.lanes p).contains l.val = true) (hrun : s.abandoned j.run = false) :
    exec (.taskRun p l) s = .next (if ((s.slice p).sme.updates j t).isEmpty then
        (s.onSme p fun m => { m with queues := m.queues.set l rest }).taskEnds p l.val t
      else (s.onSme p fun m => { m with queues := m.queues.set l rest }).onSme p fun m =>
        { m with work := m.work ++ [{ lane := l.val, task := t, left := (s.slice p).sme.updates j t }] }) := by
  have hfind : ((s.slice p).sme.work.find? fun w => w.lane == l.val) = none := List.find?_eq_none.2 fun w hw => by simpa using hidle w hw
  change execTaskRun p l s = _
  unfold execTaskRun
  simp only [hjob, hfind, hqueue]
  exact (guarded_pos hlive).trans (congrArg _ (if_neg (by rw [hlane, hrun]; decide)))

theorem workSteal_next {p : SliceNo} {l v : Fin 32} {s : State} (hlive : s.pathLive p = true) (hlane : (s.lanes p).contains l.val = true)
    (hqueue : (s.slice p).sme.queues[l] = []) (hidle : ∀ w ∈ (s.slice p).sme.work, w.lane ≠ l.val)
    (hvictim : (s.slice p).sme.victim (if s.logical p then 32 else 16) (s.lanes p) l.val = some v.val) :
    exec (.workSteal p l) s = .next ((s.onSme p fun m => { m with
      queues := (m.queues.set v ((s.slice p).sme.queues[v].take ((s.slice p).sme.queues[v].length - (s.slice p).sme.queues[v].length / 2))).set
        l (((s.slice p).sme.queues[v].drop ((s.slice p).sme.queues[v].length - (s.slice p).sme.queues[v].length / 2)).reverse) }).bump
      (psIsl (s.laneSlice p l.val)) psSmeSteals ((s.slice p).sme.queues[v].length / 2)) := by
  have hwork : ((s.slice p).sme.work.any fun w => w.lane == l.val) = false := by simpa using hidle
  have hv : Fin.ofNat 32 v.val = v := Fin.ext (Nat.mod_eq_of_lt v.isLt)
  change execWorkSteal p l s = _
  unfold execWorkSteal
  simp only [hvictim, hv]
  exact guarded_pos (by rw [hlive, hlane, hqueue, hwork]; rfl)

theorem spillRecordWrite_next {p : SliceNo} {s t : State} {j : MatJob} {r : HEnt} {rest : List HEnt} (hlive : s.pathLive p = true)
    (hjob : (s.slice p).dpe.job = some j) (hspill : (s.slice p).sme.spill = r :: rest)
    (hadd : (s.onSme p fun m => { m with spill := rest }).stripAdd p j [r] = some t)
    (hknown : (s.stripKnown j (cdiv ((s.slice p).sme.strip.length + 1) 126)).1 = true) :
    exec (.spillRecordWrite p) s = .next (t.stripFlush p j false) := by
  change execSpillRecordWrite p s = _
  unfold execSpillRecordWrite
  simp only [hspill, hjob, hadd, hknown, if_true]
  exact guarded_pos hlive

/-- A group whose work is over drains its plates that did not spill; none left, and none spilled, it ends (R311). -/
theorem groupEnd_next {p : SliceNo} {s : State} {j : MatJob} (hlive : s.pathLive p = true) (hjob : (s.slice p).dpe.job = some j)
    (hgroup : (s.slice p).sme.group ≠ []) (hdrain : (s.slice p).sme.draining = false) (hchunk : j.chunks ≤ (s.slice p).sme.chunk)
    (htasks : (s.slice p).sme.tasks = []) (hspill : (s.slice p).sme.spill = []) (hundrained : (s.slice p).sme.undrained = []) :
    exec (.groupEnd p) s = .next
      (if !((State.drainJobs p j (s.slice p).sme.plain s).slice p).sme.plain.isEmpty then State.drainJobs p j (s.slice p).sme.plain s
      else (State.drainJobs p j (s.slice p).sme.plain s).onSme p Sme.endGroup) := by
  change execGroupEnd p s = _
  unfold execGroupEnd
  simp only [hjob, hundrained, List.map_nil, List.isEmpty_nil, if_true]
  exact guarded_pos (by rw [hlive, hdrain, htasks, hspill, decide_eq_true hchunk]; simp [hgroup])

theorem drainRound_start {p : SliceNo} {s : State} {j : MatJob} (hlive : s.pathLive p = true) (hjob : (s.slice p).dpe.job = some j)
    (hdrain : (s.slice p).sme.draining = true) (hround : (s.slice p).sme.round = false) :
    exec (.drainRound p) s = .next
      (((s.openStream p j.run j.spill ((List.range (s.slice p).sme.stripOut).map fun x => (x, Use.strip x)) none false).onSme p fun m =>
        { m with round := true }).bump (psIsl p) psHaccRounds) := by
  change execDrainRound p s = _
  unfold execDrainRound
  simp only [hjob]
  exact (guarded_pos (by rw [hlive, hdrain]; rfl)).trans (congrArg _ (if_pos (by rw [hround]; rfl)))

/-- Settles O42, a row after the other. -/
theorem sparseEngineRows : Obligations.SparseEngineRows :=
  ⟨fun _ _ _ hlive hjob hdrain hrun hlanes => chunkQueue_next hlive hjob hdrain hrun hlanes,
    fun _ _ _ _ _ _ hlive hjob hidle hqueue hlane hrun => taskRun_start hlive hjob hidle hqueue hlane hrun,
    fun _ _ _ _ hlive hlane hqueue hidle hvictim => workSteal_next hlive hlane hqueue hidle hvictim,
    fun _ _ _ _ _ _ hlive hjob hspill hadd hknown => spillRecordWrite_next hlive hjob hspill hadd hknown,
    fun _ _ _ hlive hjob hgroup hdrain hchunk htasks hspill hundrained _ => by
      have hnext := groupEnd_next hlive hjob hgroup hdrain hchunk htasks hspill hundrained
      exact ⟨fun hdone => hnext.trans (congrArg _ (if_neg (by rw [hdone]; decide))),
        fun hleft => hnext.trans (congrArg _ (if_pos (by simpa using hleft)))⟩,
    fun _ _ _ hlive hjob hdrain hround => drainRound_start hlive hjob hdrain hround⟩

end Sys2Proof.Machine
end

section
/-! PROOFS. Fetching the entries of a queue (R336 to R339). -/

namespace Sys2Proof.Machine

theorem entryFetch_next {q : Fin 64} {s : State} (hmay : s.mayFetch q = true) (hstale : (s.cq q).stale = none) :
    exec (.entryFetch q) s = .next (if (s.cq q).host then
        s.fetchHost q (min (8 - (s.cq q).head.toNat % 8) (min ((s.cq q).tail - (s.cq q).head).toNat (16 - (s.cq q).accepted.length))) false
      else s.takeEntry q (s.cmd.storeEntry ((s.cq q).lbase.toNat + (s.cq q).head.toNat % (s.cq q).size))) :=
  guarded_pos (by rw [hmay, hstale]; rfl)

/-- The entry of a local queue that fits its index, phase and check is accepted (R338). -/
theorem takeEntry_fits {q : Fin 64} {s : State} {ws : List W64} (hlocal : (s.cq q).host = false) (hfits : entryFits (s.cq q).head ws = true) :
    s.takeEntry q ws = ((s.onCq q fun c => { c with
      head := c.head + 1, stale := none, accepted := c.accepted ++ [{ idx := c.head, words := ws, after := s.cmd.runs.map (·.id) }] }).bump
      cmdIsl cmdAccepted) := by
  simp only [State.takeEntry, hfits, if_true]
  refine congrArg (State.bump · cmdIsl cmdAccepted 1) ?_
  rw [State.onCq, State.onCq, State.cq] at *
  simp only [hlocal]
  rfl

/-- One that does not, of a queue that does not wait yet, makes it wait for a first re-fetch (R339). -/
theorem takeEntry_stale {q : Fin 64} {s : State} {ws : List W64} (hstale : (s.cq q).stale = none) (hfits : entryFits (s.cq q).head ws = false) :
    s.takeEntry q ws = s.onCq q fun c => { c with stale := some (0, s.now cmdIsl) } := by
  simp [State.takeEntry, hfits, hstale]

theorem State.hostAccess_cq (s : State) (a : NwAcc) (q : Fin 64) : (s.hostAccess a).cq q = s.cq q := rfl

/-- A host ring that lies in its window is asked for the entries (R337). -/
theorem fetchHost_admitted {q : Fin 64} {s : State} (n : Nat) (again : Bool)
    (hwin : s.cmd.winAdmits (s.cq q).win ((s.cq q).ring.toNat * 4096 + 64 * ((s.cq q).head.toNat % (s.cq q).size)) (64 * n) = true) :
    s.fetchHost q n again = (({ s with nextId := s.nextId + 1 } : State).onCq q fun c =>
      { c with fetch := some { id := s.nextId, first := c.head, count := n, again := again } }).hostAccess {
      why := .fetch q s.nextId, wr := false, win := (s.cq q).win
      addr := (s.cq q).ring.toNat * 4096 + 64 * ((s.cq q).head.toNat % (s.cq q).size), len := 64 * n, queue := some (q, (s.cq q).epoch) } := by
  simp only [State.fetchHost, hwin, Bool.not_true, Bool.false_eq_true, if_false]

theorem staleRefetch_local {q : Fin 64} {s : State} {k : Nat} {t0 : Ctr} (hmay : s.mayFetch q = true)
    (hstale : (s.cq q).stale = some (k, t0)) (hlocal : (s.cq q).host = false) (hel : 2 ^ k * 256 ≤ elapsed (s.now cmdIsl) t0) :
    exec (.staleRefetch q) s = .next (((s.onCq q fun c => { c with stale := some (k + 1, t0) }).bump cmdIsl cmdRefetch).takeEntry q
      (s.cmd.storeEntry ((s.cq q).lbase.toNat + (s.cq q).head.toNat % (s.cq q).size))) := by
  change execStaleRefetch q s = _
  unfold execStaleRefetch
  simp only [hstale]
  exact (guarded_pos (by rw [hmay, decide_eq_true hel]; rfl)).trans (congrArg _ (if_neg (by rw [hlocal]; decide)))

/-- Settles O43, by what an entry read at HEAD does. -/
theorem entriesAreFetched : Obligations.EntriesAreFetched := by
  refine ⟨?locally, ?host, ?again⟩
  case locally =>
    intro q s hmay hstale hlocal ws
    have hnext := (entryFetch_next hmay hstale).trans (congrArg _ (if_neg (by rw [hlocal]; decide)))
    exact ⟨fun hfits => hnext.trans (congrArg _ (takeEntry_fits hlocal hfits)),
      fun hfits => hnext.trans (congrArg _ (takeEntry_stale hstale hfits))⟩
  case host =>
    intro q s hmay hstale hhost c n addr hwin
    have hexec := (entryFetch_next hmay hstale).trans (congrArg _ ((if_pos hhost).trans (fetchHost_admitted n false hwin)))
    refine ⟨_, hexec, rfl, ?_, fun r hr => ?_, rfl⟩
    · rw [State.hostAccess_cq, State.onCq_cq_self]; rfl
    · rw [State.hostAccess_cq, State.onCq_cq_other _ hr]; rfl
  case again => exact fun q s k t0 hmay hstale hlocal hel => staleRefetch_local hmay hstale hlocal hel

end Sys2Proof.Machine
end

section
/-! PROOFS. The start of a command (R331, R333, R341, R342). -/

namespace Sys2Proof.Machine

/-- The start of an entry that is no stage of a pair: with its effect where every check passes. -/
theorem startCmd_single {q : Fin 64} {s : State} {op : Nat} {e : Entry} (hentry : s.entryOf q op = some e) (hstage : e.isStage = false)
    (hasks : s.askFor e = []) (launch : CmdRun → State → State) {st : BitVec 8}
    (hst : (if e.isSecond then stBadDescriptor else s.startStatus e) = st) :
    s.startCmd q op launch = if st = stOk then launch (s.newRun q e none st) (s.startRun q (s.newRun q e none st))
      else s.startRun q (s.newRun q e none st) := by
  subst hst
  simp only [State.startCmd, hentry, hstage, hasks, Bool.false_eq_true, if_false, List.append_nil, List.isEmpty_nil, Bool.not_true]

/-- The two entries of a STAGE pair start together (R334). -/
theorem startCmd_pair {q : Fin 64} {s : State} {op : Nat} {a b : Entry} (hentry : s.entryOf q op = some a) (hstage : a.isStage = true)
    (hnext : ((s.cq q).accepted.drop 1).head? = some b) (hasks : s.askFor a = []) (hasks2 : b.isSecond = true → s.askFor b = [])
    (launch : CmdRun → State → State) {st : BitVec 8} (hst : s.pairStatus a b = st) :
    s.startCmd q op launch = if st = stOk then launch (s.newRun q a (some b) st) (s.startRun q (s.newRun q a (some b) st))
      else s.startRun q (s.newRun q a (some b) st) := by
  subst hst
  have hsecond : (if b.isSecond then s.askFor b else []) = [] := by split; exacts [hasks2 ‹_›, rfl]
  simp only [State.startCmd, hentry, hstage, hnext, hasks, hsecond, if_true, List.append_nil, List.isEmpty_nil, Bool.not_true,
    Bool.false_eq_true, if_false]

/-- The row of an opcode starts the entry that has it. -/
theorem rowStarts {q : Fin 64} {s x : State} {op o : Nat} {launch : CmdRun → State → State} (h : op = o) (hgo : s.startCmd q op launch = x) :
    (.next (s.startCmd q o launch) : Outcome) = .next x := by rw [← h, hgo]

/-- Settles O44, by the start of an entry and of a pair: the rows differ in the opcode and its effect alone. -/
theorem commandsStart : Obligations.CommandsStart := by
  refine ⟨?single, ?pair, ?second⟩
  case single =>
    intro q s op e hentry hstage hsecond hasks st r u
    have hstart (launch : CmdRun → State → State) : s.startCmd q op launch = if st = stOk then launch r u else u :=
      startCmd_single hentry hstage hasks launch (if_neg (by simp [hsecond]))
    have hsame : s.startCmd q op (fun _ t => t) = u := (hstart _).trans (ite_self _)
    refine ⟨fun h => rowStarts h hsame, fun h => rowStarts h hsame, fun hst => ?ok, fun hst => ?refused⟩
    case ok =>
      have hok (launch : CmdRun → State → State) : s.startCmd q op launch = launch r u := (hstart launch).trans (if_pos hst)
      exact ⟨fun h => rowStarts h (hok launchMatmul), fun h => rowStarts h (hok launchExport), fun h => rowStarts h (hok launchImport),
        fun h => rowStarts h (hok launchCompress), fun h => rowStarts h (hok launchRecode), fun h => rowStarts h (hok launchResidency),
        fun h => rowStarts h (hok launchCopy), fun h => rowStarts h (hok launchResidency), fun h => rowStarts h (hok launchResidency),
        fun h => rowStarts h (hok launchResidency), fun h => rowStarts h (hok launchResidency), fun h => rowStarts h (hok launchReduce),
        fun h => rowStarts h (hok launchHostRead), fun h => rowStarts h (hok launchHostWrite), fun h => rowStarts h (hok launchSignal),
        fun h => rowStarts h (hok launchWait), fun h => rowStarts h (hok launchTableLoad), fun h => rowStarts h (hok launchTableRetire),
        fun h => rowStarts h (hok launchScrub)⟩
    case refused =>
      have hno (launch : CmdRun → State → State) : s.startCmd q op launch = u := (hstart launch).trans (if_neg hst)
      exact ⟨fun h => rowStarts h (hno launchMatmul), fun h => rowStarts h (hno launchExport), fun h => rowStarts h (hno launchImport),
        fun h => rowStarts h (hno launchCompress), fun h => rowStarts h (hno launchRecode), fun h => rowStarts h (hno launchResidency),
        fun h => rowStarts h (hno launchCopy), fun h => rowStarts h (hno launchResidency), fun h => rowStarts h (hno launchResidency),
        fun h => rowStarts h (hno launchResidency), fun h => rowStarts h (hno launchResidency), fun h => rowStarts h (hno launchReduce),
        fun h => rowStarts h (hno launchHostRead), fun h => rowStarts h (hno launchHostWrite), fun h => rowStarts h (hno launchSignal),
        fun h => rowStarts h (hno launchWait), fun h => rowStarts h (hno launchTableLoad), fun h => rowStarts h (hno launchTableRetire),
        fun h => rowStarts h (hno launchScrub)⟩
  case pair =>
    intro q s a b hentry hstage hnext hasks hasks2 st r
    exact congrArg _ (startCmd_pair hentry hstage hnext hasks hasks2 launchMatmul rfl)
  case second =>
    intro q s e hentry hstage hsecond hasks
    exact congrArg _ ((startCmd_single hentry hstage hasks launchMatmul (if_pos hsecond)).trans (if_neg (by decide)))

/-! SIGNAL and WAIT (R350, R351). -/

/-- A queue that waits on a counter starts nothing. -/
theorem mayStart_waiting {s : State} {q : Fin 64} (hwait : (s.cq q).wait.isSome = true) : s.mayStart q = false := by
  rw [State.mayStart]
  cases h : (s.cq q).wait with
  | none => rw [h] at hwait; cases hwait
  | some w => simp

theorem launchWait_met {r : CmdRun} {s : State}
    (h : (s.cmd.sig[Fin.ofNat 256 (fld (r.entry.word 1) 39 32)] - bits 32 (r.entry.word 1) 0).toNat < 2 ^ 31) : launchWait r s = s :=
  if_pos (decide_eq_true h)

theorem launchWait_holds {r : CmdRun} {s : State}
    (h : 2 ^ 31 ≤ (s.cmd.sig[Fin.ofNat 256 (fld (r.entry.word 1) 39 32)] - bits 32 (r.entry.word 1) 0).toNat) :
    launchWait r s = (s.waits r).onCq r.q fun c => { c with wait := some (r.id, fld (r.entry.word 1) 39 32, bits 32 (r.entry.word 1) 0) } :=
  if_neg (by simpa [waitMet] using h)

theorem waitRelease_met {q : Fin 64} {s : State} {run c : Nat} {v : BitVec 32} (hawake : s.awake cmdIsl = true)
    (hwait : (s.cq q).wait = some (run, c, v)) (hmet : ((s.cmd.sig[Fin.ofNat 256 c] : BitVec 32) - v).toNat < 2 ^ 31) :
    exec (.waitRelease q) s = .next ((s.onCq q fun c => { c with wait := none }).onRun run fun r => { r with waiting := false }) := by
  change execWaitRelease q s = _
  unfold execWaitRelease
  simp only [hwait]
  exact guarded_pos (by rw [hawake, waitMet, decide_eq_true hmet]; rfl)

/-- Settles O45, by what a start, a SIGNAL and a WAIT do. -/
theorem signalWaitFence : Obligations.SignalWaitFence := by
  refine ⟨?start, ?signal, ?wait, ?release⟩
  case start =>
    intro q s r hsecond
    have hcq (p : Fin 64) : (s.startRun q r).cq p = (s.onCq q fun c => { c with accepted := c.accepted.drop 1 }).cq p := by
      rw [State.startRun, hsecond]; rfl
    exact ⟨rfl, rfl, (hcq q).trans (State.onCq_cq_self ..), fun p hp => (hcq p).trans (State.onCq_cq_other s hp _), rfl, rfl, rfl, rfl⟩
  case signal =>
    intro r s hlocal
    have hgo : launchSignal r s = s.onCmd fun c => c.signal (bitAt (r.entry.word 1) 50) (bits 8 (r.entry.word 1) 32) (bits 32 (r.entry.word 1) 0) :=
      if_pos (by rw [hlocal]; rfl)
    exact ⟨_, hgo, rfl, rfl⟩
  case wait =>
    intro r s c
    refine ⟨fun h => launchWait_met h, fun h => ?_⟩
    rw [launchWait_holds h]
    have hwait := State.onCq_cq_self (s.waits r) r.q fun c =>
      { c with wait := some (r.id, fld (r.entry.word 1) 39 32, bits 32 (r.entry.word 1) 0) }
    exact ⟨congrArg CmdQ.wait hwait, mayStart_waiting (by rw [hwait]; rfl)⟩
  case release => exact fun q s run c v hawake hwait hmet => waitRelease_met hawake hwait hmet

end Sys2Proof.Machine
end

section
/-! PROOFS. The end of a command, its records, and the controls of a queue (R339, R345, R364 to R368, R376, R466). -/

namespace Sys2Proof.Machine

/-! The end of a command. -/

/-- A command that has not failed, and that nothing is under way of, is complete. -/
theorem commandComplete_finish {run : Nat} {s : State} {r : CmdRun} (hawake : s.awake cmdIsl = true) (hfind : s.findRun run = some r)
    (hdone : r.done = false) (hstopped : r.stopped = false) (hbusy : s.busy r = false) (htaint : r.tainted = false)
    (hretry : s.retries r = false) : exec (.commandComplete run) s = .next (s.finish r) := by
  change execCommandComplete run s = _
  unfold execCommandComplete
  simp only [hfind, hdone, htaint, hstopped, hbusy, hretry, Bool.and_false, Bool.false_and, Bool.false_eq_true, if_false]
  exact guarded_pos hawake

theorem commandComplete_retire {run : Nat} {s : State} {r : CmdRun} (hawake : s.awake cmdIsl = true) (hfind : s.findRun run = some r)
    (hdone : r.done = true) (hrec : r.hrec = .acked ∨ r.hrec = .lost) : exec (.commandComplete run) s = .next (s.retire r) := by
  change execCommandComplete run s = _
  unfold execCommandComplete
  simp only [hfind, hdone, if_true]
  exact (guarded_pos hawake).trans (congrArg _ (if_pos (by simpa using hrec)))

/-- A command whose writes carry poison of this block's own words has failed as one that lost its store, and runs again (R466). -/
theorem commandComplete_again {run : Nat} {s : State} {r : CmdRun} (hawake : s.awake cmdIsl = true) (hfind : s.findRun run = some r)
    (hdone : r.done = false) (hcons : s.consistent = true) (htaint : r.tainted = true) (hwrites : s.writesDone r = true)
    (hbusy : (s.purge run (r.fail stStoreLost).status).busy (r.fail stStoreLost) = false)
    (hretry : (s.purge run (r.fail stStoreLost).status).retries (r.fail stStoreLost) = true) :
    exec (.commandComplete run) s = .next (launch r.entry.opcode (r.fail stStoreLost).again
      (((s.purge run (r.fail stStoreLost).status).onRun run fun _ => (r.fail stStoreLost).again).bump cmdIsl cmdRetries)) := by
  have hstopped : (r.fail stStoreLost).stopped = true := rfl
  change execCommandComplete run s = _
  unfold execCommandComplete
  simp only [hfind, hdone, hcons, htaint, hwrites, hstopped, hbusy, hretry, Bool.and_self, if_true, Bool.false_eq_true, if_false]
  exact guarded_pos hawake

/-! Records. -/

theorem cqRecordHeldWrite_next {cq : Fin 16} {s : State} {h : HeldRec} (hawake : s.awake cmdIsl = true)
    (hfind : s.cmd.held.find? (fun h => h.cq == cq) = some h) (hopen : s.canOpen 0 (0x2100 + cq.val) 1 = true) :
    exec (.cqRecordHeldWrite cq) s = .next (({ s with cmd := { s.cmd with held := s.cmd.held.erase h } }).onQuad 0 fun d =>
      d.enqueue (0x2100 + cq.val) (pktOf (plain h.words) 0 false .words)) := by
  change execCqRecordHeldWrite cq s = _
  unfold execCqRecordHeldWrite
  simp only [hfind]
  exact guarded_pos (by rw [hawake, hopen]; rfl)

theorem pick_take (d : Quad) (n : Nat) : (d.pick n).take n = d.pick n := by simp [Quad.pick]

/-- The host record of a command with one entry that wants one. -/
theorem hostCompletionWrite_one {run : Nat} {s : State} {r : CmdRun} {e : Entry} (hawake : s.awake cmdIsl = true)
    (hfind : s.findRun run = some r) (hdone : r.done = true) (hdue : r.hrec = .due) (hone : r.entries.filter Entry.hcq = [e]) {a : NwAcc}
    (ha : a = {
      why := .record run, wr := true, win := (s.cq r.q).win
      addr := (s.cq r.q).hcq.toNat * 4096 + 64 * (e.idx.toNat % (s.cq r.q).size), len := 64
      data := fit 64 (wordsBytes (recordWords r.q e.seq e.phase e.epoch e.opcode r false (s.now cmdIsl))), queue := some (r.q, e.epoch) }) :
    exec (.hostCompletionWrite run) s = .next (if s.cmd.mayIssue a then (s.hostRec run .issued).hostAccess a else s.hostRec run .lost) := by
  subst ha
  change execHostCompletionWrite run s = _
  unfold execHostCompletionWrite
  simp only [hfind, hone, List.map_cons, List.map_nil, List.all_cons, List.all_nil, Bool.and_true, List.foldl_cons, List.foldl_nil]
  exact guarded_pos (by rw [hawake, hdone, hdue]; rfl)

/-! The controls of a queue. -/

theorem State.onCq_congr {s : State} {q : Fin 64} {f g : CmdQ → CmdQ} (h : f (s.cq q) = g (s.cq q)) : s.onCq q f = s.onCq q g := by
  have h' : f s.cmd.queues[q] = g s.cmd.queues[q] := h
  rw [State.onCq, State.onCq, h']

theorem abortAccepted_none {s : State} {q : Fin 64} (h : (s.cq q).accepted = []) : s.abortAccepted q = s := by
  have hsame : s.onCq q (fun c => { c with accepted := [] }) = s := by
    refine (State.onCq_congr ?_).trans (State.onCq_self s q)
    rw [← h]
  rw [State.abortAccepted, h, List.foldl_nil, hsame]

theorem CmdQ.halt_fields (c : CmdQ) : c.halt.head = c.head ∧ c.halt.tail = c.tail := by
  unfold CmdQ.halt; split <;> exact ⟨rfl, rfl⟩

theorem CmdQ.resume_fields (c : CmdQ) : c.resume.head = c.head ∧ c.resume.tail = c.tail ∧ c.resume.halted = 0 := by
  unfold CmdQ.resume
  split
  next h => exact ⟨rfl, rfl, h⟩
  next => exact ⟨rfl, rfl, rfl⟩

/-- RESET sets HEAD and TAIL, and a RESUME of the same write ends the halt. -/
theorem queueReset_cq (s : State) (q : Fin 64) (h : BitVec 17) (a b : Bool) :
    ((s.queueReset q h a b).cq q).head = h ∧ ((s.queueReset q h a b).cq q).tail = h ∧ (b = true → ((s.queueReset q h a b).cq q).halted = 0) := by
  rw [State.queueReset, State.onCq_cq_self]
  generalize (s.abortAccepted q).cq q = c
  obtain ⟨hhead, htail⟩ := CmdQ.halt_fields { c with head := h, tail := h, stale := none, fetch := none }
  cases a <;> cases b
  case false.false => exact ⟨rfl, rfl, nofun⟩
  case true.false => exact ⟨hhead, htail, nofun⟩
  case false.true => exact ⟨(CmdQ.resume_fields _).1, (CmdQ.resume_fields _).2.1, fun _ => (CmdQ.resume_fields _).2.2⟩
  case true.true =>
    obtain ⟨hrhead, hrtail, hrun⟩ := CmdQ.resume_fields (CmdQ.halt { c with head := h, tail := h, stale := none, fetch := none })
    exact ⟨hrhead.trans hhead, hrtail.trans htail, fun _ => hrun⟩

theorem queueHalt_next {q : Fin 64} {s : State} (hlive : (s.isl cmdIsl).live = true) :
    exec (.queueHalt q false) s = .next (s.onCq q CmdQ.halt) := guarded_pos hlive

theorem queueResume_next {q : Fin 64} {s : State} (hlive : (s.isl cmdIsl).live = true) :
    exec (.queueResume q) s = .next (s.onCq q CmdQ.resume) := guarded_pos hlive

theorem State.onCq_same {s : State} {q : Fin 64} {f : CmdQ → CmdQ} (h : f (s.cq q) = s.cq q) : s.onCq q f = s :=
  (State.onCq_congr h).trans (State.onCq_self s q)

/-- Settles O46, by the rows of completion and of the queue controls. -/
theorem commandsComplete : Obligations.CommandsComplete := by
  refine ⟨⟨?finish, ?retire, ?held, ?host⟩, ?reset, ?resetAny, ?running, ?halted, ?again⟩
  case finish =>
    exact fun run s r hawake hfind hdone hstopped hbusy htaint hretry => commandComplete_finish hawake hfind hdone hstopped hbusy htaint hretry
  case retire => exact fun run s r hawake hfind hdone hrec => commandComplete_retire hawake hfind hdone hrec
  case held =>
    intro cq s h hawake hfind hopen
    refine ⟨_, cqRecordHeldWrite_next hawake hfind hopen, rfl, ?_, rfl, rfl⟩
    rw [State.onQuad_quad_self, enqueue_packets, pick_take]
    have hlen : (plain h.words).length = h.words.length := List.length_map ..
    change _ ++ [({ words := _, length := BitVec.ofNat 16 (plain h.words).length, cells := _ } : Pkt)] = _
    rw [← hlen]
    rfl
  case host =>
    intro run s r e hawake hfind hdone hdue hone c a
    have hnext := hostCompletionWrite_one (a := a) hawake hfind hdone hdue hone rfl
    exact ⟨fun hmay => hnext.trans (congrArg _ (if_pos hmay)), fun hno => hnext.trans (congrArg _ (if_neg (by rw [hno]; decide)))⟩
  case reset =>
    intro q h s hlive hnone
    refine (guarded_pos hlive).trans (congrArg _ ?_)
    rw [State.queueReset, abortAccepted_none hnone]
    refine State.onCq_congr ?_
    rw [← hnone]
    rfl
  case resetAny =>
    intro q h a b s hlive
    exact ⟨_, guarded_pos hlive, queueReset_cq s q h a b⟩
  case running =>
    intro q s hlive hrun
    exact ⟨(queueHalt_next hlive).trans (congrArg _ (State.onCq_congr (if_pos hrun))),
      (queueResume_next hlive).trans (congrArg _ (State.onCq_same (if_pos hrun)))⟩
  case halted =>
    intro q s hlive hhalt
    exact ⟨(queueHalt_next hlive).trans (congrArg _ (State.onCq_same (if_neg hhalt))),
      (queueResume_next hlive).trans (congrArg _ (State.onCq_congr (if_neg hhalt)))⟩
  case again =>
    exact fun run s r hawake hfind hdone hcons htaint hwrites hbusy hretry =>
      commandComplete_again hawake hfind hdone hcons htaint hwrites hbusy hretry

end Sys2Proof.Machine
end

section
/-! PROOFS. The lanes, frames and training of a link (R97, R379 to R412). -/

namespace Sys2Proof.Machine

/-! Lanes. -/

theorem markerReceive_next {g : GroupNo} {l : Fin 12} {w : BitVec 128} {s : State} (hawake : s.awake (lgIsl g) = true)
    (hlane : (s.linkLaneEn g).getLsbD l.val = true) (hst : (s.group g).st ≠ .down) :
    exec (.markerReceive g l w) s = .next (if markerOk w then (s.onGroup g fun q => q.marker l w (s.now (lgIsl g))).agree g
      else s.loseMark g l) := guarded_pos (by rw [hawake, hlane]; simpa using hst)

theorem State.onGroup_group_other (s : State) {g h : GroupNo} (hh : h ≠ g) (f : LinkGrp → LinkGrp) : (s.onGroup g f).group h = s.group h := by
  rw [State.onGroup_group, if_neg hh.symm]

/-- A lane without its level or its markers, and a lane event where it had what it lost (R381, R411). -/
theorem laneEvent_spec (s : State) (g : GroupNo) (l : Fin 12) (f : Lane → Lane) (b : Bool) {t : State}
    (ht : t = if b then (s.onGroup g fun q => { q with lanes := q.lanes.set l (f q.lanes[l]) }).event (lgIsl g) {
        code := 0x0201, inst := BitVec.ofNat 16 l.val }
      else s.onGroup g fun q => { q with lanes := q.lanes.set l (f q.lanes[l]) }) :
    (t.group g).lanes[l] = f (s.group g).lanes[l] ∧ (∀ h, h ≠ g → t.group h = s.group h) ∧
      (t.isl (lgIsl g)).detQueue = (s.isl (lgIsl g)).detQueue ++ (if b then [{ code := 0x0201, inst := BitVec.ofNat 16 l.val }] else []) := by
  have hgroup (h : GroupNo) : t.group h = (s.onGroup g fun q => { q with lanes := q.lanes.set l (f q.lanes[l]) }).group h := by
    subst ht; cases b <;> rfl
  refine ⟨?_, fun h hh => ?_, ?_⟩
  · rw [hgroup, State.onGroup_group_self]
    exact Vector.getElem_set_self ..
  · rw [hgroup, State.onGroup_group_other _ hh]
  · subst ht
    cases b with
    | false => exact (List.append_nil _).symm
    | true => exact event_detQueue ..

theorem loseMark_eq (s : State) (g : GroupNo) (l : Fin 12) :
    s.loseMark g l = if (s.group g).lanes[l].marks == 3 then
        (s.onGroup g fun q => { q with lanes := q.lanes.set l { q.lanes[l] with marks := 0, late := false } }).event (lgIsl g) {
          code := 0x0201, inst := BitVec.ofNat 16 l.val }
      else s.onGroup g fun q => { q with lanes := q.lanes.set l { q.lanes[l] with marks := 0, late := false } } := rfl

/-- Settles O47, by what a lane that loses its markers or its level leaves. -/
theorem linkLaneRows : Obligations.LinkLaneRows := by
  refine ⟨?marker, ?missing, ?fall, ?rdy⟩
  case marker =>
    intro g l w s hawake hlane hst
    have hnext := markerReceive_next (w := w) hawake hlane hst
    exact ⟨fun hok => hnext.trans (congrArg _ (if_pos hok)), fun hbad => hnext.trans (congrArg _ (if_neg (by rw [hbad]; decide)))⟩
  case missing =>
    intro g l s hlive hlane
    exact ⟨_, guarded_pos (by rw [hlive, hlane]; rfl),
      laneEvent_spec s g l (fun x => { x with marks := 0, late := false }) _ (loseMark_eq s g l)⟩
  case fall =>
    intro g l s hlock
    obtain ⟨hlane, hother, hdet⟩ := laneEvent_spec s g l
      (fun x => { x with rxLock := false, rxValid := false, marks := 0, late := false }) (s.isl (lgIsl g)).live rfl
    exact ⟨_, guarded_pos hlock, hlane, hdet, hother⟩
  case rdy =>
    intro g l b s
    refine ⟨_, _, rfl, rfl, onlyGroup_onGroup .., ?_⟩
    rw [State.onGroup_group_self]
    exact Vector.getElem_set_self ..

/-! Training and replay. -/

theorem State.onGroup_congr {s : State} {g : GroupNo} {f f' : LinkGrp → LinkGrp} (h : f (s.group g) = f' (s.group g)) :
    s.onGroup g f = s.onGroup g f' := by
  have h' : f s.groups[g] = f' s.groups[g] := h
  rw [State.onGroup, State.onGroup, h']

theorem State.onGroup_onGroup (s : State) (g : GroupNo) (f f' : LinkGrp → LinkGrp) :
    (s.onGroup g f).onGroup g f' = s.onGroup g fun q => f' (f q) := by
  simp [State.onGroup]

/-- Where no injection is armed at TRAIN, training begins afresh (R403, R408). -/
theorem trainStart_unarmed {s : State} {g : GroupNo} (h : (s.isl (lgIsl g)).armedFor 0x0205 0 = false) :
    s.trainStart g = s.onGroup g fun q => q.train (s.now (lgIsl g)) := by
  have hinj : s.inject (lgIsl g) 0x0205 0 = (false, s) := if_neg (by rw [h]; decide)
  simp only [State.trainStart, hinj]
  rfl

/-- Where one is, the attempt begun is marked to fail, and the injection is used (R494). -/
theorem trainStart_armed {s : State} {g : GroupNo} (h : (s.isl (lgIsl g)).armedFor 0x0205 0 = true) :
    s.trainStart g = (s.useInjection (lgIsl g)).onGroup g fun q => { q.train (s.now (lgIsl g)) with trainFails := true } := by
  have hinj : s.inject (lgIsl g) 0x0205 0 = (true, s.useInjection (lgIsl g)) := if_pos h
  simp only [State.trainStart, hinj]

theorem useInjection_group (s : State) (k : IslandNo) (g : GroupNo) : (s.useInjection k).group g = s.group g := by
  unfold State.useInjection
  split
  · rfl
  · dsimp only
    split <;> rfl

theorem bump_armed (s : State) (k j : IslandNo) (off n : Nat) : ((s.bump k off n).isl j).armed = (s.isl j).armed := by
  rw [State.bump, State.onIsl_isl]
  split
  next h =>
    subst h
    unfold Island.bump
    split <;> rfl
  · rfl

/-- The last operation of an arming ends it (R494). -/
theorem useInjection_last {s : State} {k : IslandNo} {a : Armed} (harmed : (s.isl k).armed = some a) (hone : a.remaining = 1) :
    ((s.useInjection k).isl k).armed = none := by
  have hzero : a.remaining - 1 = 0 := by rw [hone]; rfl
  have harm : (((s.onIsl k fun i => { i with armed := none }).bump injIsl injApplied).isl k).armed = none := by
    rw [bump_armed, State.onIsl_isl_self]
  simp only [State.useInjection, harmed, hzero, if_true]
  split <;> exact harm

theorem retrain_eq {s : State} {g : GroupNo} (fresh : Bool) (hst : (s.group g).st ≠ .down) (hshut : (s.isl (lgIsl g)).state ≠ .shut) :
    s.retrain g fresh = ((s.trainStart g).onGroup g fun q => { q with freshMine := q.freshMine || fresh }).bump (lgIsl g) lgRetrains :=
  if_neg (by simp [hst, hshut])

theorem retrain_unarmed {s : State} {g : GroupNo} (fresh : Bool) (hst : (s.group g).st ≠ .down) (hshut : (s.isl (lgIsl g)).state ≠ .shut)
    (h : (s.isl (lgIsl g)).armedFor 0x0205 0 = false) :
    s.retrain g fresh = (s.onGroup g fun q => { q.train (s.now (lgIsl g)) with freshMine := q.freshMine || fresh }).bump (lgIsl g)
      lgRetrains := by
  rw [retrain_eq fresh hst hshut, trainStart_unarmed h, State.onGroup_onGroup]
  rfl

/-- A replay of the flits held, before the group has replayed too often (R393, R394). -/
theorem startReplay_early {s : State} {g : GroupNo} (hheld : (s.group g).replay ≠ []) (hfew : (s.group g).replays < 7) :
    s.startReplay g = ((s.onGroup g fun q => { q with replaying := q.replay, replays := q.replays + 1, ackAt := s.now (lgIsl g) }).bump
      (lgIsl g) lgReplays).event (lgIsl g) { code := 0x0204, inst := 0 } := by
  have hreplays : ¬ 8 ≤ ((((s.onGroup g fun q => { q with replaying := q.replay, replays := q.replays + 1, ackAt := s.now (lgIsl g) }).bump
      (lgIsl g) lgReplays).event (lgIsl g) { code := 0x0204, inst := 0 }).group g).replays := by
    rw [State.event_group, State.bump_group, State.onGroup_group_self]
    exact Nat.not_le.2 (Nat.succ_lt_succ hfew)
  exact (if_neg (by simpa using hheld)).trans (if_neg hreplays)

theorem event_isl_other (s : State) {k j : IslandNo} (h : j ≠ k) (e : DetEvent) : (s.event k e).isl j = s.isl j := by
  rw [State.event, State.onIsl_isl, if_neg h.symm]

theorem bump_isl_other (s : State) {k j : IslandNo} (h : j ≠ k) (off n : Nat) : (s.bump k off n).isl j = s.isl j := by
  rw [State.bump, State.onIsl_isl, if_neg h.symm]

/-! Frames. -/

/-- The words of a lane set that do not fill a frame yet wait for more (R386). -/
theorem lanesReceive_waits {s : State} {g : GroupNo} {words : List (List (BitVec 128))}
    (h : ∃ b ∈ words.zipIdx.map (fun e => (s.group g).rxRest.getD e.2 [] ++ wordBits e.1), b.length < laneFrameBits (s.group g).n) :
    ((s.lanesReceive g words).group g).rxRest = words.zipIdx.map (fun e => (s.group g).rxRest.getD e.2 [] ++ wordBits e.1) ∧
      ((s.lanesReceive g words).group g).rxBlocks = (s.group g).rxBlocks ∧ (s.lanesReceive g words).islands = s.islands := by
  have hall : ¬ ((words.zipIdx.map (fun e => (s.group g).rxRest.getD e.2 [] ++ wordBits e.1)).all fun b =>
      decide (laneFrameBits (s.group g).n ≤ b.length)) = true := by
    obtain ⟨b, hb, hlt⟩ := h
    exact fun hall => Nat.not_le.2 hlt (of_decide_eq_true (List.all_eq_true.1 hall b hb))
  simp only [State.lanesReceive]
  rw [if_neg hall, State.onGroup_group_self, State.onGroup_group_self]
  exact ⟨rfl, rfl, rfl⟩

theorem frameReceive_next {g : GroupNo} {words : List (List (BitVec 128))} {s : State} (hawake : s.awake (lgIsl g) = true)
    (hst : (s.group g).st = .hello ∨ (s.group g).st = .up) (hrx : (s.group g).rxN ≠ 0) (hlen : words.length = (s.group g).n) :
    exec (.frameReceive g words) s = .next (s.lanesReceive g words).step7Check :=
  guarded_pos (by rw [hawake]; simp [hst, hrx, hlen])

/-- Settles O48, by what a row makes of the group. -/
theorem linkRows : Obligations.LinkRows := by
  refine ⟨?frame, ?flit, ?replay, ?timeout, ?retrain, ?armed⟩
  case frame =>
    exact fun g words s hawake hst hrx hlen => ⟨frameReceive_next hawake hst hrx hlen, fun h => lanesReceive_waits h⟩
  case flit =>
    intro g o s hawake hst hready c marks
    exact guarded_pos (by rw [hawake, hready]; simp [hst])
  case replay =>
    intro g s hawake hst hheld hnone hfew hel
    have hgo : exec (.replayTimeout g) s = .next ((s.startReplay g).bump (lgIsl g) lgTimeouts) :=
      guarded_pos (by rw [hawake, hst, hnone, decide_eq_true hel]; simpa using hheld)
    rw [startReplay_early hheld hfew] at hgo
    refine ⟨_, hgo, ?_, fun h hh => ?_, fun k hk => ?_⟩
    · rw [State.bump_group, State.event_group, State.bump_group, State.onGroup_group_self]
    · rw [State.bump_group, State.event_group, State.bump_group, State.onGroup_group_other _ hh]
    · rw [bump_isl_other _ hk, event_isl_other _ hk, bump_isl_other _ hk, State.onGroup_isl]
  case timeout =>
    intro g s hawake hst hheld hel harmed
    have hgo : exec (.trainingTimeout g) s = .next ((s.trainStart g).event (lgIsl g) {
        code := 0x0205, inst := 0, injected := (s.group g).trainFails }) :=
      guarded_pos (by rw [hawake, hheld, decide_eq_true hel]; simp [or_assoc, hst])
    rw [hgo, trainStart_unarmed harmed]
  case retrain =>
    intro g s hlive hst hshut harmed
    have hretrain (fresh : Bool) := retrain_unarmed fresh hst hshut harmed
    refine ⟨(guarded_pos hlive).trans (congrArg _ ((hretrain false).trans ?_)), (guarded_pos hlive).trans (congrArg _ ((hretrain true).trans ?_))⟩
    · refine congrArg (State.bump · (lgIsl g) lgRetrains 1) (State.onGroup_congr ?_)
      simp only [Bool.or_false]
      rfl
    · refine congrArg (State.bump · (lgIsl g) lgRetrains 1) (State.onGroup_congr ?_)
      simp only [Bool.or_true]
  case armed =>
    intro g s hlive hst hshut harmed
    have hgo : exec (.linkRetrain g) s = .next _ := (guarded_pos hlive).trans (congrArg _ (retrain_eq false hst hshut))
    rw [trainStart_armed harmed] at hgo
    refine ⟨_, hgo, ?_, fun a ha hone => ?_, fun h hh => ?_⟩
    · rw [State.bump_group, State.onGroup_group_self, State.onGroup_group_self, useInjection_group, Bool.or_false]
    · rw [bump_armed, State.onGroup_isl, State.onGroup_isl, useInjection_last ha hone]
    · rw [State.bump_group, State.onGroup_group_other _ hh, State.onGroup_group_other _ hh, useInjection_group]

end Sys2Proof.Machine
end

section
/-! PROOFS. What a quadrant does with the packets of its links and of its per-peer queues, and the bound of a request (R431 to R436). -/

namespace Sys2Proof.Machine

/-- The pool of quadrant x once the front packet of a queue has been read without a failure. -/
def State.popped (s : State) (x : QuadNo) (q : Nat) (o : ParityObs) : State :=
  s.onQuad x fun d => (d.setQueue q ((d.queue q).pop o)).settle

theorem popped_packets (s : State) (x : QuadNo) (q : Nat) (o : ParityObs) :
    (((s.popped x q o).quad x).queue q).packets = ((s.quad x).queue q).packets.tail := by
  simp [State.popped, CQueue.pop_packets]

theorem popped_queue_other (s : State) (x : QuadNo) {q j : Nat} (h : j ≠ q) (o : ParityObs) :
    ((s.popped x q o).quad x).queue j = (s.quad x).queue j := by
  simp [State.popped, Quad.queue_setQueue_other _ h]

/-- FABRIC_PACKET_ARRIVE of a packet that is read without a failure (R433). -/
theorem fabricPacketArrive_clean {x : QuadNo} {j : Fin 4} {v : Fin 8} {o : ParityObs} {s : State} {p : Pkt} {r : List Pkt}
    (hclean : ReadsClean x o p s) (hp : ((s.quad x).queue (0x2028 + 16 * j.val + v.val)).packets = p :: r) (hvis : p.visible = true)
    (hwedged : ((s.quad x).queue (0x2028 + 16 * j.val + v.val)).wedged = false) (hleg : s.mayLeg x (s.legIn x v p) = true)
    (hopen : s.legOpen (s.legIn x v p) p = true) :
    exec (.fabricPacketArrive x j v o) s = .next (if p.abandoned then s.popped x (0x2028 + 16 * j.val + v.val) o
      else match s.legIn x v p with
        | .queue .. => if (pktHead p.words).dest = s.block then
            (s.popped x (0x2028 + 16 * j.val + v.val) o).goOn x (s.taken v p) (s.legIn x v p)
          else ((s.popped x (0x2028 + 16 * j.val + v.val) o).goOn x (s.taken v p) (s.legIn x v p)).bump (xqIsl x) xqRelayPkts
        | _ => (s.popped x (0x2028 + 16 * j.val + v.val) o).goOn x (s.taken v p) (s.legIn x v p)) := by
  have hq : 0x2020 + 16 * j.val + 8 + v.val = 0x2028 + 16 * j.val + v.val := by omega
  change execFabricPacketArrive x j v o s = _
  unfold execFabricPacketArrive
  simp only [hq, hp, readPacket_clean hclean hp]
  refine (guarded_pos (by rw [hleg, hvis, hwedged, hopen]; rfl)).trans (congrArg _ ?_)
  cases p.abandoned with
  | true => rfl
  | false =>
    simp only [Bool.false_eq_true, if_false]
    cases s.legIn x v p <;> rfl

/-- A per-peer queue stands below 0x2000, and a queue on the way to a link group does not (R24). -/
theorem peersAfter_lt {d : Quad} {v : Fin 8} {q : Nat} (h : q ∈ d.peersAfter v) : q < 0x2000 := by
  simp only [Quad.peersAfter, List.mem_append, List.mem_filter, Bool.and_eq_true, decide_eq_true_eq] at h
  rcases h with ⟨⟨_, ⟨hlt, _⟩, _⟩, _⟩ | ⟨⟨_, ⟨hlt, _⟩, _⟩, _⟩ <;> exact hlt

theorem ringQueue_ge (x y : QuadNo) (ch : Nat) : 0x2060 ≤ ringQueue x y ch := by unfold ringQueue; split <;> omega

theorem legTo_ge {x y : QuadNo} {k : IslandNo} {ch q' : Nat} (h : legTo x k ch = .queue y q') : 0x2000 ≤ q' := by
  unfold legTo at h
  dsimp only at h
  split at h <;> obtain ⟨rfl, rfl⟩ := Leg.queue.inj h
  · unfold queueOut queueTo
    dsimp only
    split_ifs <;> omega
  · exact le_trans (by decide) (ringQueue_ge ..)

theorem peerNext_ge {s : State} {x y : QuadNo} {q q' : Nat} {g : GroupNo} {alt : Bool} (h : s.peerNext x q = some (g, alt, .queue y q')) :
    0x2000 ≤ q' := by
  unfold State.peerNext at h
  dsimp only at h
  split at h
  · cases h
  · split at h
    · cases h
    · obtain ⟨hleg, -⟩ := Option.filter_eq_some_iff.1 h
      obtain ⟨e, -, he⟩ := Option.map_eq_some_iff.1 hleg
      exact legTo_ge (Prod.mk.inj (Prod.mk.inj he).2).2

/-- The packet a quadrant moves out of a per-peer queue, with the peer noted as served (R432). -/
def State.dispatched (s : State) (x : QuadNo) (v : Fin 8) (q : Nat) (o : ParityObs) (g : GroupNo) (y : QuadNo) (q' : Nat) (p : Pkt) : State :=
  ((s.popped x q o).onQuad x fun d => { d with lastPeer := d.lastPeer.set v (q / 8) }).onQuad y fun d =>
    d.enqueue q' { p with cargo := .outbound g, words := p.carried, poisonIn := p.poisoned }

theorem peerQueueDispatch_next {x : QuadNo} {v : Fin 8} {o : ParityObs} {s : State} {q q' : Nat} {y : QuadNo} {g : GroupNo} {alt : Bool}
    {p : Pkt} {r : List Pkt} (hclean : ReadsClean x o p s) (hbegins : s.begins (xqIsl x) = true)
    (hfind : ((s.quad x).peersAfter v).find? (fun q => (s.peerNext x q).isSome) = some q)
    (hnext : s.peerNext x q = some (g, alt, .queue y q')) (hp : ((s.quad x).queue q).packets = p :: r) (hab : p.abandoned = false) :
    exec (.peerQueueDispatch x v o) s = .next (if alt then (s.dispatched x v q o g y q' p).bump (xqIsl x) xqAltUsed
      else s.dispatched x v q o g y q' p) := by
  change execPeerQueueDispatch x v o s = _
  unfold execPeerQueueDispatch
  simp only [hfind, hnext, readPacket_clean hclean hp, hab]
  exact guarded_pos hbegins

section
variable (s : State) (x : QuadNo) (v : Fin 8) {q : Nat} (o : ParityObs) (g : GroupNo) (y : QuadNo) {q' : Nat} (p : Pkt)

theorem dispatched_source (h : q ≠ q') : (((s.dispatched x v q o g y q' p).quad x).queue q).packets = ((s.quad x).queue q).packets.tail := by
  rw [State.dispatched, State.onQuad_quad]
  split
  next hy =>
    subst hy
    rw [Quad.enqueue, Quad.queue_setQueue_other _ h, State.onQuad_quad_self]
    exact popped_packets ..
  next =>
    rw [State.onQuad_quad_self]
    exact popped_packets ..

theorem dispatched_lastPeer : ((s.dispatched x v q o g y q' p).quad x).lastPeer = (s.quad x).lastPeer.set v (q / 8) := by
  have hsettle (d : Quad) : d.settle.lastPeer = d.lastPeer := by unfold Quad.settle; split <;> rfl
  have hpopped : ((s.popped x q o).quad x).lastPeer = (s.quad x).lastPeer := by
    rw [State.popped, State.onQuad_quad_self, hsettle]; rfl
  rw [State.dispatched, State.onQuad_quad]
  split
  next hy =>
    subst hy
    rw [State.onQuad_quad_self, ← hpopped]; rfl
  next => rw [State.onQuad_quad_self, hpopped]

theorem dispatched_target (h : q' ≠ q) : ∃ e : Pkt,
    (((s.dispatched x v q o g y q' p).quad y).queue q').packets = ((s.quad y).queue q').packets ++ [e] ∧ e.words = p.carried ∧
      e.cargo = .outbound g := by
  rw [State.dispatched, State.onQuad_quad_self, enqueue_packets]
  refine ⟨_, congrArg (· ++ [_]) ?_, rfl, rfl⟩
  rw [State.onQuad_quad]
  split
  next hy =>
    subst hy
    exact congrArg CQueue.packets (popped_queue_other s x h o)
  next hy => rw [State.popped, State.onQuad_quad, if_neg hy]

theorem dispatched_quad_other {z : QuadNo} (hx : z ≠ x) (hy : z ≠ y) : (s.dispatched x v q o g y q' p).quad z = s.quad z := by
  simp only [State.dispatched, State.popped, State.onQuad_quad, if_neg (Ne.symm hx), if_neg (Ne.symm hy)]

end

/-- A request that is not sent twice fails at its bound (R436). -/
theorem requestTimeout_fails {unit : BitVec 6} {tid : BitVec 16} {s : State} {r : FabReq} {k : IslandNo} (hfind : s.findReq unit tid = some r)
    (hunit : unitIsl unit = some k) (hawake : s.awake k = true) (htype : r.ptype ≠ ptMirror)
    (hel : 2 ^ 22 ≤ elapsed (s.unitNow unit) r.at_) (hmgr : toManager r.ptype = false) (hre : reissues r.ptype = false) :
    exec (.requestTimeout unit tid) s = .next (((s.dropReq r.unit r.tid).bump ephIsl ephTimeouts).reqFails r fsUnreachable) := by
  change execRequestTimeout unit tid s = _
  unfold execRequestTimeout
  simp only [hfind, hunit, hmgr, hre, Bool.false_and, Bool.false_eq_true, if_false]
  exact guarded_pos (by rw [hawake, decide_eq_true hel]; simpa using htype)

/-- Settles O49, by what is read out of a queue (`readPacket_clean`) and where it goes. -/
theorem fabricCrossings : Obligations.FabricCrossings := by
  refine ⟨?arrive, ?dispatch, ?timeout⟩
  case arrive =>
    intro x j v o s p r hclean q l hp hvis hwedged hleg hopen
    refine ⟨s.popped x q o, onlyQuad_onQuad .., ?_, fabricPacketArrive_clean hclean hp hvis hwedged hleg hopen⟩
    rw [popped_packets, hp, List.tail_cons]
  case dispatch =>
    intro x v o s q q' y g alt p r hclean hbegins hfind hnext hp hab
    have hlt : q < q' := lt_of_lt_of_le (peersAfter_lt (List.mem_of_find?_eq_some hfind)) (peerNext_ge hnext)
    have hquad (z : QuadNo) : (if alt then (s.dispatched x v q o g y q' p).bump (xqIsl x) xqAltUsed
        else s.dispatched x v q o g y q' p).quad z = (s.dispatched x v q o g y q' p).quad z := by cases alt <;> rfl
    refine ⟨_, peerQueueDispatch_next hclean hbegins hfind hnext hp hab, ?_, ?_, ?_, fun z hx hy => ?_⟩
    · rw [hquad, dispatched_source s x v o g y p hlt.ne, hp, List.tail_cons]
    · rw [hquad, dispatched_lastPeer]
    · rw [hquad]; exact dispatched_target s x v o g y p hlt.ne'
    · rw [hquad, dispatched_quad_other s x v o g y p hx hy]
  case timeout =>
    exact fun unit tid s r k hfind hunit hawake htype hel hmgr hre => requestTimeout_fails hfind hunit hawake htype hel hmgr hre

end Sys2Proof.Machine
end

section
/-! PROOFS. What homes and managers answer, and how answers are taken (R201, R206, R415 to R429, R436, R446, R468). -/

namespace Sys2Proof.Machine

/-! Homes (R206, R419, R420, R446). -/

/-- How the home refuses a span that is halted or not here. -/
def State.homeRefusal (s : State) (oid : BitVec 40) (span : Nat) : BitVec 4 × HomeWord :=
  if s.isHalted (domainOf oid) then (fsHalted, noHome) else (fsNotHome, s.newHome oid span)

/-- What is refused is not parked (R455). -/
theorem parkBlocks_refused {s : State} {oid : BitVec 40} {plate : BitVec 24}
    (h : s.isHalted (domainOf oid) = true ∨ s.eph.serves oid (spanOf plate.toNat) = .notHome) : s.parkBlocks oid plate = false := by
  rcases h with h | h
  · simp [State.parkBlocks, h]
  · simp [State.parkBlocks, h, Serve.slice?]

section
variable {p : SliceNo} {src : Requester} {oid : BitVec 40} {plate : BitVec 24} {s : State} (hhome : s.homeLive p = true)
  (heph : s.ephLive = true)
include hhome heph

theorem rdReq_refused (h : s.isHalted (domainOf oid) = true ∨ s.eph.serves oid (spanOf plate.toNat) = .notHome) :
    exec (.rdReq p src oid plate) s = .next (s.post (unitPs p) ptRdRsp (fabWords ptRdRsp src.block s.block
      (transWord src.tid src.unit (unitPs p) (s.homeRefusal oid (spanOf plate.toNat)).1 0)
      [word2 oid plate, homeWord (s.homeRefusal oid (spanOf plate.toNat)).2])) := by
  refine (guarded_pos (by rw [hhome, heph, parkBlocks_refused h]; rfl)).trans (congrArg _ ?_)
  unfold State.homeRefusal
  by_cases hhalt : s.isHalted (domainOf oid) = true
  · simp only [hhalt, if_true]
  · simp only [if_neg hhalt, h.resolve_left hhalt]

theorem wrReq_refused (data : PlateWords) (h : s.isHalted (domainOf oid) = true ∨ s.eph.serves oid (spanOf plate.toNat) = .notHome) :
    exec (.wrReq p src oid plate data) s = .next (s.ackTo src (unitPs p) (s.homeRefusal oid (spanOf plate.toNat)).1 oid plate
      (s.homeRefusal oid (spanOf plate.toNat)).2) := by
  refine (guarded_pos (by rw [hhome, heph]; rfl)).trans (congrArg _ ?_)
  unfold State.homeRefusal
  by_cases hhalt : s.isHalted (domainOf oid) = true
  · simp only [hhalt, if_true]
  · simp only [if_neg hhalt, h.resolve_left hhalt]

omit hhome heph in
/-- No archive node, whether or not the slice is configured. -/
theorem archive_false (h : ∀ c, s.conf (psIsl p) = some c → c.archive = false) :
    (match s.conf (psIsl p) with | some c => c.archive | none => false) = false := by
  cases hc : s.conf (psIsl p) with
  | none => rfl
  | some c => exact h c hc

theorem redData_refused (rcc : BitVec 2) (data : List Byte) (poison : Bool) (harch : ∀ c, s.conf (psIsl p) = some c → c.archive = false)
    (h : s.isHalted (domainOf oid) = true ∨ s.eph.serves oid (spanOf plate.toNat) = .notHome) :
    exec (.redData p src oid plate rcc data poison) s = .next (s.ackTo src (unitPs p) (s.homeRefusal oid (spanOf plate.toNat)).1 oid plate
      (s.homeRefusal oid (spanOf plate.toNat)).2) := by
  refine (guarded_pos (by rw [hhome, heph]; rfl)).trans (congrArg _ ((if_neg fun htrue => Bool.false_ne_true ((archive_false harch).symm.trans htrue)).trans ?_))
  unfold State.homeRefusal
  by_cases hhalt : s.isHalted (domainOf oid) = true
  · simp only [hhalt, if_true]
  · simp only [if_neg hhalt, h.resolve_left hhalt]

theorem redData_archive {c : Conf} (rcc : BitVec 2) (data : List Byte) (poison : Bool) (hconf : s.conf (psIsl p) = some c)
    (harch : c.archive = true) :
    exec (.redData p src oid plate rcc data poison) s = .next (s.ackTo src (unitPs p) fsNotCompute oid plate) :=
  (guarded_pos (by rw [hhome, heph]; rfl)).trans (congrArg _ (if_pos (by simp only [hconf, harch])))

variable {q : SliceNo} {base : Nat} {e : DirEnt} (hhalt : s.isHalted (domainOf oid) = false)
  (hserves : s.eph.serves oid (spanOf plate.toNat) = .at q base e)
include hhalt hserves

theorem rdReq_served (hpark : s.parkBlocks oid plate = false) :
    exec (.rdReq p src oid plate) s = .next (s.readHome e.obj plate (.fabric src)) := by
  refine (guarded_pos (by rw [hhome, heph, hpark]; rfl)).trans (congrArg _ ?_)
  simp only [hhalt, Bool.false_eq_true, if_false, hserves]

theorem wrReq_served (data : PlateWords) (hkey : s.keyLoaded q e.obj.key = true) :
    exec (.wrReq p src oid plate data) s = .next (s.receiveWrite q { travelled e.obj plate data with src := some src }) := by
  refine (guarded_pos (by rw [hhome, heph]; rfl)).trans (congrArg _ ?_)
  simp only [hhalt, Bool.false_eq_true, if_false, hserves, hkey, if_true]

theorem redData_served (rcc : BitVec 2) (data : List Byte) (poison : Bool) (harch : ∀ c, s.conf (psIsl p) = some c → c.archive = false)
    (hraw : e.obj.code = 0) (hrcc : rcc ≠ 3) (hkey : s.keyLoaded q e.obj.key = true) :
    exec (.redData p src oid plate rcc data poison) s = .next (s.onSlice q fun x => { x with home := { x.home with
      sums := x.home.sums ++ [{ obj := e.obj, plate := plate, src := src, vals := redValues rcc.toNat data, poison := poison }] } }) := by
  refine (guarded_pos (by rw [hhome, heph]; rfl)).trans (congrArg _ ((if_neg fun htrue => Bool.false_ne_true ((archive_false harch).symm.trans htrue)).trans ?_))
  simp only [hhalt, Bool.false_eq_true, if_false, hserves, hraw, hrcc, bne_self_eq_false, decide_false, Bool.or_self, hkey, Bool.not_true]

end

/-- RD_RSP with status OK brings the plate to the stream that asked (R419). -/
theorem rdRsp_ok {p q : SliceNo} {tid : BitVec 16} (h : HomeWord) (plate : PlateWords) {s : State} {r : FabReq} {id : Nat} {t : EStream}
    {w : Want} (hawake : s.awake (psIsl p) = true) (hfind : s.findReq (unitPs p) tid = some r) (hwhy : r.why = .read q id)
    (hwant : (s.slice q).eye.wantOf id = some (t, w)) :
    exec (.rdRsp p tid fsOk h plate) s = .next ((s.dropReq r.unit r.tid).onSlice q fun x =>
      { x with eye := { x.eye with arrived := x.eye.arrived ++ [arrivedFrom w plate] } }) := by
  have hwant' : ((s.dropReq r.unit r.tid).slice q).eye.wantOf id = some (t, w) := hwant
  change execRdRsp p tid fsOk h plate s = _
  unfold execRdRsp
  simp only [hfind, hwhy, hwant', if_true]
  exact guarded_pos hawake

/-- Settles O50, by what the home says of the span (R419, R420). -/
theorem homesServe : Obligations.HomesServe := by
  refine ⟨?refused, ?archive, ?served, ?rsp⟩
  case refused =>
    intro p src oid plate s hhome heph h hrefused a
    exact ⟨rdReq_refused hhome heph hrefused, fun data => wrReq_refused hhome heph data hrefused,
      fun rcc data poison harch => redData_refused hhome heph rcc data poison harch hrefused⟩
  case archive =>
    exact fun p src oid plate rcc data poison s c hhome heph hconf harch => redData_archive hhome heph rcc data poison hconf harch
  case served =>
    intro p q src oid plate s base e hhome heph hhalt hserves
    refine ⟨rdReq_served hhome heph hhalt hserves, fun data hkey => ⟨_, wrReq_served hhome heph hhalt hserves data hkey, ?_, ?_⟩,
      fun rcc data poison harch hraw hrcc hkey => ⟨_, redData_served hhome heph hhalt hserves rcc data poison harch hraw hrcc hkey, ?_, ?_⟩⟩
    · exact onlySlice_onSlice ..
    · rw [State.receiveWrite, State.onSlice_slice_self]
    · exact onlySlice_onSlice ..
    · rw [State.onSlice_slice_self]
  case rsp => exact fun p q tid h plate s r id t w hawake hfind hwhy hwant => rdRsp_ok h plate hawake hfind hwhy hwant

/-! The placement map (R416). -/

/-- Settles O51, by the slot that the map holds of the span. -/
theorem homeOfASpan : Obligations.HomeOfASpan := by
  intro m oid span o hobj hcount hoid
  have hdefault : o.home span = { block := o.cblock, slice := Fin.ofNat 32 (o.islice.getD ((oid.toNat + span) % o.icount) 0) } := by
    rw [MapObj.home, defaultSlice, hoid, Nat.max_eq_right hcount]
  refine ⟨fun v hv hvalid => ?_, fun hinvalid => ?_⟩
  · simp only [PMap.home, hv, hvalid, if_true]
  · rw [← hdefault]
    simp only [PMap.home, hobj, Option.map_some]
    split
    next v hv => rw [if_neg (by rw [hinvalid v hv]; decide)]
    next => rfl

/-! The manager (R415, R420, R422, R436). -/

section
variable {src : Requester} {s : State} (heph : s.ephLive = true)
include heph

theorem lookup_held {oid : BitVec 40} {span : BitVec 18} {o : MapObj} (hmgr : s.managerRefuses oid = none) (hobj : s.eph.map.obj oid = some o) :
    exec (.lookup src oid span) s = .next (s.mgrAnswer src ptLookupRsp fsOk oid span.toNat
      (o.words ++ (s.eph.map.ovrOrNull oid span.toNat).words)) :=
  (guarded_pos heph).trans (by simp only [hmgr, hobj])

theorem lookup_unknown {oid : BitVec 40} {span : BitVec 18} (hmgr : s.managerRefuses oid = none) (hobj : s.eph.map.obj oid = none) :
    exec (.lookup src oid span) s = .next (s.mgrAnswer src ptLookupRsp fsNoObject oid span.toNat (List.replicate 16 0)) :=
  (guarded_pos heph).trans (by simp only [hmgr, hobj])

theorem objReq_held {oid : BitVec 40} {o : MapObj} (hmgr : s.managerRefuses oid = none) (hobj : s.eph.map.obj oid = some o) :
    exec (.objReq src oid) s = .next (s.mgrAnswer src ptObjRsp fsOk oid 0 [o.obj.w0, o.obj.w1]) :=
  (guarded_pos heph).trans (by simp only [hmgr, hobj])

theorem objReq_unknown {oid : BitVec 40} (hmgr : s.managerRefuses oid = none) (hobj : s.eph.map.obj oid = none) :
    exec (.objReq src oid) s = .next (s.mgrAnswer src ptObjRsp fsNoObject oid 0 [0, 0]) :=
  (guarded_pos heph).trans (by simp only [hmgr, hobj])

theorem register_held {rec : RecWords} {o : MapObj} (hmgr : s.managerRefuses (ObjRec.ofWords rec).oid = none)
    (hsrc : s.ephConf.members.contains src.block = true) (hcreator : s.ephConf.members.contains (s.creatorOf src.block rec) = true)
    (hobj : s.eph.map.obj (ObjRec.ofWords rec).oid = some o) :
    exec (.register src rec) s = .next (s.ackTo src unitEph (if o.obj = rec then fsOk else fsMismatch) (ObjRec.ofWords rec).oid 0) :=
  (guarded_pos heph).trans (by simp only [hmgr, hsrc, hcreator, hobj, Bool.and_self, Bool.not_true, Bool.false_eq_true, if_false])

theorem register_new {rec : RecWords} (hmgr : s.managerRefuses (ObjRec.ofWords rec).oid = none)
    (hsrc : s.ephConf.members.contains src.block = true) (hcreator : s.ephConf.members.contains (s.creatorOf src.block rec) = true)
    (hobj : s.eph.map.obj (ObjRec.ofWords rec).oid = none) (hroom : s.eph.map.size < 65536) {e : MapObj}
    (he : e = { obj := rec, cblock := s.creatorOf src.block rec, icount := (s.interleaveOf (s.creatorOf src.block rec)).1
                islice := (s.interleaveOf (s.creatorOf src.block rec)).2 }) :
    exec (.register src rec) s = .next ((s.onEph fun h => { h with map := { h.map with objs := h.map.objs ++ [e] } }).mirrorOut [e.words]
      [] [src] (ObjRec.ofWords rec).oid 0) := by
  subst he
  exact (guarded_pos heph).trans (by
    simp only [hmgr, hsrc, hcreator, hobj, Bool.and_self, Bool.not_true, Bool.false_eq_true, if_false, if_neg (Nat.not_le.2 hroom)])

section
variable {oid : BitVec 40} {op : BitVec 8} {ws : List W64} (hoid : bits 40 (ws.getD 0 0) 24 = oid)
include hoid

theorem cmdx_refused {st : BitVec 4} (hmgr : s.managerRefuses oid = some st) :
    exec (.cmdx src op ws) s = .next (s.ackTo src unitEph st oid 0 noHome 0 3) :=
  (guarded_pos heph).trans (by simp only [hoid, hmgr])

theorem cmdx_unknown (hmgr : s.managerRefuses oid = none) (hobj : s.eph.map.obj oid = none) :
    exec (.cmdx src op ws) s = .next (s.ackTo src unitEph fsNoObject oid 0 noHome 0 3) :=
  (guarded_pos heph).trans (by simp only [hoid, hmgr, hobj])

/-- MOVE of one span queues its move (R437, R440). -/
theorem cmdx_move {o : MapObj} {m : SpanMove} (hmgr : s.managerRefuses oid = none) (hobj : s.eph.map.obj oid = some o) (hop : op = 6)
    (hone : fld (ws.getD 1 0) 63 40 = 1)
    (hmove : s.residencyMove src s.nextId 6 oid (ws.getD 1 0) (fld (ws.getD 0 0) 17 0) = some m) :
    exec (.cmdx src op ws) s = .next (((({ s with nextId := s.nextId + 1 } : State)).queueMoves [m]).startJob {
      id := s.nextId, src := src, opcode := 6, oid := oid, left := 1 }) := by
  have hspans : (if (1 : Nat) = 0 then List.range (spanCount (ObjRec.ofWords o.obj))
      else (List.range 1).map fun i => fld (ws.getD 0 0) 17 0 + i) = [fld (ws.getD 0 0) 17 0] := rfl
  have hsix : (6 : BitVec 8).toNat = 6 := rfl
  subst hop
  refine (guarded_pos heph).trans (congrArg _ ?_)
  simp only [hoid, hmgr, hobj, hone, hspans, hsix, State.newId]
  refine (if_neg (by simp)).trans ?_
  simp only [List.filterMap_cons, hmove, List.filterMap_nil, List.length_singleton]

end
end

/-- Settles O52, by the manager's answers. -/
theorem managersAnswer : Obligations.ManagersAnswer := by
  refine ⟨?lookups, ?held, ?new, ?cmdx⟩
  case lookups =>
    exact fun src oid span s heph hmgr => ⟨fun o hobj => ⟨lookup_held heph hmgr hobj, objReq_held heph hmgr hobj⟩,
      fun hobj => ⟨lookup_unknown heph hmgr hobj, objReq_unknown heph hmgr hobj⟩⟩
  case held => exact fun src rec s o heph hmgr hsrc hcreator hobj => register_held heph hmgr hsrc hcreator hobj
  case new => exact fun src rec s heph hmgr hsrc hcreator hobj hroom => register_new heph hmgr hsrc hcreator hobj hroom rfl
  case cmdx =>
    exact fun src oid op ws s heph hoid => ⟨fun st hmgr => cmdx_refused heph hoid hmgr, fun hmgr hobj => cmdx_unknown heph hoid hmgr hobj,
      fun o hmgr hobj hop hone => ⟨_, rfl, cmdx_move heph hoid hmgr hobj hop hone rfl⟩⟩

end Sys2Proof.Machine
end

section
/-! PROOFS. Answers that end requests (R201, R345, R420, R428) and the rows of a span move (R437, R438). -/

namespace Sys2Proof.Machine

/-! Answers. -/

theorem lookupRsp_fills {tid : BitVec 16} (ob ov : List W64) {s : State} {r : FabReq} {a : HomeAt} (heph : s.ephLive = true)
    (hfind : s.findReq unitEph tid = some r) (hwhy : r.why = .lookup)
    (hhome : ((s.dropReq r.unit r.tid).onEph fun h => h.fillCache (mapObjOf ob) (mapOvrOf ov)).eph.cache.home r.oid r.idx.toNat = some a)
    (hgood : a.block ≠ s.block ∨ (s.eph.serves r.oid r.idx.toNat).slice?.isSome = true ∨ (s.eph.movedTo r.oid r.idx.toNat).isSome = true) :
    exec (.lookupRsp tid fsOk ob ov) s = .next ((s.dropReq r.unit r.tid).onEph fun h => h.fillCache (mapObjOf ob) (mapOvrOf ov)) := by
  have hfresh : (((some a : Option HomeAt).map (·.block) == some s.block) && ((s.dropReq r.unit r.tid).eph.serves r.oid r.idx.toNat).slice?.isNone &&
      ((s.dropReq r.unit r.tid).eph.movedTo r.oid r.idx.toNat).isNone) = false := by
    change ((some a.block == some s.block) && (s.eph.serves r.oid r.idx.toNat).slice?.isNone && (s.eph.movedTo r.oid r.idx.toNat).isNone) = false
    rcases hgood with h | h | h
    · simp [h]
    · simp [Option.isNone_eq_false_iff.2 h]
    · simp [Option.isNone_eq_false_iff.2 h]
  change execLookupRsp tid fsOk ob ov s = _
  unfold execLookupRsp
  simp only [hfind, hwhy, hhome, hfresh, bne_self_eq_false, Bool.false_eq_true, if_false, Option.isNone_some, Bool.false_and, Bool.or_self]
  exact guarded_pos heph

theorem objRsp_ok {tid : BitVec 16} (w : RecWords) {s : State} {r : FabReq} {n : Nat} (heph : s.ephLive = true)
    (hfind : s.findReq unitEph tid = some r) (hwhy : r.why = .object n) :
    exec (.objRsp tid fsOk w) s = .next ((s.dropReq r.unit r.tid).onEph fun h => { h with
      queried := (h.queried.filter fun w => (ObjRec.ofWords w).oid != r.oid) ++ [w] }) := by
  change execObjRsp tid fsOk w s = _
  unfold execObjRsp
  simp only [hfind, hwhy, if_true]
  exact guarded_pos heph

theorem cmdxResult_ok {tid : BitVec 16} (n : BitVec 24) {s : State} {r : FabReq} {run : Nat} (hawake : s.awake cmdIsl = true)
    (hfind : s.findReq unitCmd tid = some r) (hwhy : r.why = .cmdx run) :
    exec (.cmdxResult tid fsOk n) s = .next ((s.dropReq r.unit r.tid).onRun run fun c =>
      { c with plates := c.plates + n.toNat, waiting := false }) := by
  change execCmdxResult tid fsOk n s = _
  unfold execCmdxResult
  simp only [hfind, hwhy, if_true]
  exact guarded_pos hawake

theorem fabricAck_answers {unit : BitVec 6} {tid : BitVec 16} {st : BitVec 4} (h : HomeWord) (n : BitVec 24) {s : State} {r : FabReq}
    {k : IslandNo} (hunit : unitIsl unit = some k) (hawake : s.awake k = true) (hfind : s.findReq unit tid = some r) (hst : st ≠ fsNotHome) :
    exec (.fabricAck unit tid st h n) s = .next (if st = fsOk then (s.dropReq r.unit r.tid).reqDone r n.toNat
      else (s.dropReq r.unit r.tid).reqFails r st) := by
  change execFabricAck unit tid st h n s = _
  unfold execFabricAck
  simp only [hunit, hfind, hst, decide_false, Bool.false_and, Bool.false_eq_true, if_false]
  exact guarded_pos hawake

theorem fabricAck_late {unit : BitVec 6} {tid : BitVec 16} {s : State} {k : IslandNo} (hunit : unitIsl unit = some k)
    (hawake : s.awake k = true) (hnone : s.findReq unit tid = none) (st : BitVec 4) (h : HomeWord) (n : BitVec 24) :
    exec (.fabricAck unit tid st h n) s = .next (s.bump ephIsl ephLate) := by
  change execFabricAck unit tid st h n s = _
  unfold execFabricAck
  simp only [hunit, hnone]
  exact guarded_pos hawake

/-- Settles O53, by the request that an answer names. -/
theorem answersAreTaken : Obligations.AnswersAreTaken := by
  refine ⟨?lookup, ?object, ?cmdx, ?ack, ?late⟩
  case lookup =>
    intro tid ob ov s r a heph hfind hwhy u hhome hgood
    exact lookupRsp_fills ob ov heph hfind hwhy hhome hgood
  case object => exact fun tid w s r n heph hfind hwhy => objRsp_ok w heph hfind hwhy
  case cmdx => exact fun tid n s r run hawake hfind hwhy => cmdxResult_ok n hawake hfind hwhy
  case ack => exact fun unit tid st h n s r k hunit hawake hfind hst => fabricAck_answers h n hunit hawake hfind hst
  case late =>
    intro unit tid s k hunit hawake hnone
    refine ⟨fabricAck_late hunit hawake hnone, ?eph, ?cmd, ?slice⟩
    case eph =>
      intro hu heph st a b w
      subst hu
      exact ⟨(guarded_pos heph).trans (by simp only [hnone]; rfl), (guarded_pos heph).trans (by simp only [hnone]; rfl)⟩
    case cmd =>
      intro hu st n
      subst hu
      obtain rfl : cmdIsl = k := Option.some.inj hunit
      exact (guarded_pos hawake).trans (by simp only [hnone]; rfl)
    case slice =>
      intro p hu hk st h d
      subst hu hk
      exact (guarded_pos hawake).trans (by simp only [hnone]; rfl)

/-! Span moves. -/

theorem spanMoveStart_next {n : Nat} {s : State} {m : SpanMove} {e : MapObj} {home toHome : HomeAt} (heph : s.ephLive = true)
    (hwait : s.eph.movesWait[n]? = some m) (hacts : s.actsFor (domainOf m.oid) = true) (hmay : s.eph.mayMove n m = true)
    (hobj : s.eph.map.obj m.oid = some e) (hhome : s.eph.map.home m.oid m.span.toNat = some home)
    (htarget : s.moveTarget m (ObjRec.ofWords e.obj) home.block = some toHome) (hne : toHome ≠ home)
    (hpin : (s.eph.map.slot m.oid m.span.toNat).pinned = false) :
    exec (.spanMoveStart n) s = .next ((s.onEph fun h => { h with
      movesWait := h.movesWait.eraseIdx n, moves := h.moves ++ [{ m with toHome := toHome, source := home, st := .asked }] }).request {
        unit := unitEph, tid := 0, ptype := ptMvStart, dest := home.block, dunit := unitEph, oid := m.oid
        idx := BitVec.ofNat 24 m.span.toNat, arg := m.no, rest := [homeWord toHome.word], why := .mvStart m.no }) := by
  change execSpanMoveStart n s = _
  unfold execSpanMoveStart
  simp only [hwait, hobj, hhome, htarget, if_neg hne, hpin, Bool.and_false, Bool.false_eq_true, if_false]
  exact guarded_pos (by rw [heph, hacts, hmay]; rfl)

theorem mvStart_next {src : Requester} {oid : BitVec 40} {span : BitVec 18} (nh : HomeWord) (no : BitVec 32) {s : State} {p : SliceNo}
    {base : Nat} {e : DirEnt} (heph : s.ephLive = true) (hhalt : s.isHalted (domainOf oid) = false)
    (hnew : ∀ m ∈ s.eph.srcs, ¬ (m.oid = oid ∧ m.span = span)) (hserves : s.eph.serves oid span.toNat = .at p base e)
    (hlost : e.lost = false) :
    exec (.mvStart src oid span nh no) s = .next ((s.onEph (fun h => { h with
      srcs := h.srcs ++ [{ oid := oid, span := span, no := no, toHome := { block := nh.block, slice := Fin.ofNat 32 nh.slice.toNat } }]
      dir := markMotion h.dir oid span.toNat true })).mirDir.ackTo src unitEph fsOk oid (BitVec.ofNat 24 span.toNat)) := by
  have hnone : (s.eph.srcs.any fun m => m.oid == oid && m.span == span) = false := by simpa [not_and] using hnew
  change execMvStart src oid span nh no s = _
  unfold execMvStart
  simp only [hhalt, hnone, hserves, hlost, Bool.false_eq_true, if_false]
  exact guarded_pos heph

theorem mvData_part {p : SliceNo} (src : Requester) {oid : BitVec 40} {plate : BitVec 24} (seg : BitVec 4) (line : BitVec 16)
    (data : PlateWords) {s : State} {d : MvDst} (hhome : s.homeLive p = true) (heph : s.ephLive = true)
    (hdst : s.eph.dsts.find? (fun d => d.obj.oid == oid && d.span.toNat == spanOf plate.toNat) = some d) :
    exec (.mvData p src oid plate seg line data) s = .next (s.takePart d src plate seg.toNat line.toNat data) := by
  change execMvData p src oid plate seg line data s = _
  unfold execMvData
  simp only [hdst]
  exact guarded_pos (by rw [hhome, heph]; rfl)

theorem copyDone_commits {src : Requester} {oid : BitVec 40} {span : BitVec 18} {nh : HomeWord} {s : State} {m : MvSrc}
    (heph : s.ephLive = true)
    (hfind : s.eph.srcs.find? (fun m => m.oid == oid && m.span == span && m.toHome.block == src.block && !m.committed) = some m)
    (hrec : m.record = true) (hvalid : nh.valid = true) :
    exec (.copyDone src oid span fsOk nh) s = .next ((s.dropMoveReqs oid span.toNat).sendCommit m nh none) := by
  change execCopyDone src oid span fsOk nh s = _
  unfold execCopyDone
  simp only [hfind, hrec, hvalid, bne_self_eq_false, Bool.not_true, Bool.false_eq_true, if_false, if_true]
  exact guarded_pos heph

theorem commit_applies {src : Requester} {oid : BitVec 40} {span : BitVec 18} {nh : HomeWord} {s : State} {m : SpanMove}
    (heph : s.ephLive = true) (hmgr : s.managerRefuses oid = none)
    (hfind : s.eph.moves.find? (fun m => m.oid == oid && m.span == span) = some m) (hst : m.st ≠ .applied) {h : HomeAt} {u : State}
    (hh : h = { block := nh.block, slice := Fin.ofNat 32 nh.slice.toNat })
    (hu : u = s.onEph fun e => { e with
      moves := mapIf (fun k => k.no == m.no) (fun _ => { m with st := .applied, toHome := h, commitBy := some src }) e.moves })
    (hfits : s.eph.map.slotFits oid span.toNat h = true) :
    exec (.commit src oid span nh false 0) s = .next ((u.setMapHome oid span.toNat h).mirrorOut ((u.setMapHome oid span.toNat h).homeEntries oid
      span.toNat) [m.no] [] oid (BitVec.ofNat 24 span.toNat)) := by
  subst hh hu
  change execCommit src oid span nh false 0 s = _
  unfold execCommit
  simp only [hmgr, hfind, if_neg hst, hfits, Bool.not_true, Bool.false_eq_true, if_false]
  exact guarded_pos heph

theorem commitAck_source {oid : BitVec 40} {span : BitVec 18} {nh : HomeWord} {s : State} {m : MvSrc} (heph : s.ephLive = true)
    (hreqs : ∀ r ∈ s.reqs, r.ptype ≠ ptCommit) (hfind : s.eph.srcs.find? (fun m => m.oid == oid && m.span == span) = some m)
    (hdsts : ∀ d ∈ s.eph.dsts, ¬ (d.obj.oid = oid ∧ d.span = span)) (hfits : s.ackFits oid span.toNat nh = true) :
    exec (.commitAck oid span nh) s = .next (s.moveLeft m nh) := by
  have hreq : (s.reqs.find? fun r => r.why == .place oid span.toNat && r.ptype == ptCommit) = none :=
    List.find?_eq_none.2 fun r hr => by simp [hreqs r hr]
  have hdst : (s.eph.dsts.find? fun d => d.obj.oid == oid && d.span == span) = none :=
    List.find?_eq_none.2 fun d hd => by simpa [not_and] using hdsts d hd
  change execCommitAck oid span nh s = _
  unfold execCommitAck
  simp only [hreq, hfind, hdst, Option.isNone_some, Option.isNone_none, Bool.false_and, Bool.false_eq_true, if_false, if_true]
  exact guarded_pos (by rw [heph, hfits]; rfl)

/-- Settles O54, a row after the other. -/
theorem spansMove : Obligations.SpansMove := by
  refine ⟨?start, ?source, ?part, ?copied, ?commit, ?ack⟩
  case start =>
    exact fun n s m e home toHome heph hwait hacts hmay hobj hhome htarget hne hpin =>
      spanMoveStart_next heph hwait hacts hmay hobj hhome htarget hne hpin
  case source =>
    exact fun src oid span nh no s p base e heph hhalt hnew hserves hlost => ⟨_, rfl, mvStart_next nh no heph hhalt hnew hserves hlost⟩
  case part => exact fun p src oid plate seg line data s d hhome heph hdst => mvData_part src seg line data hhome heph hdst
  case copied => exact fun src oid span nh s m heph hfind hrec hvalid => copyDone_commits heph hfind hrec hvalid
  case commit =>
    intro src oid span nh s m heph hmgr hfind hst h u hfits
    exact commit_applies heph hmgr hfind hst rfl rfl hfits
  case ack => exact fun oid span nh s m heph hreqs hfind hdsts hfits => commitAck_source heph hreqs hfind hdsts hfits

end Sys2Proof.Machine
end

section
/-! PROOFS. What a manager takes of its mirror, of homes and of members (R350, R423, R437 to R441, R461, R477). -/

namespace Sys2Proof.Machine

/-! Managers. -/

theorem mirror_next (src : Requester) (es : List (List W64)) {s : State} (hawake : s.awake mirIsl = true) :
    exec (.mirror src es) s = .next (((s.onEph fun h => { h with
      mirMap := (es.filter fun ws => ws.any fun w => w != 0).foldl PMap.apply h.mirMap, beatSeen := true, beatAt := s.now mirIsl }).endStep7
      (s.eph.step7At.isSome && s.ephConf.role == 2)).ackTo src unitMir fsOk 0 0) := guarded_pos hawake

/-- The state once a span that stands here has left the directory (R440). -/
def State.spanFreed (s : State) (oid : BitVec 40) (span : Nat) (p : SliceNo) (base : Nat) (e : DirEnt) : State :=
  { s with
    eph := ({ s.eph with dir := dirRemove s.eph.dir oid span, freeing := s.eph.freeing ++ [(p, base / 16, e.extents, oid, span)] } : EphS).forgetSpan
      oid span
    slices := s.slices.map fun x => x.dropIndex oid span }

theorem spanFreed_slice (s : State) (oid : BitVec 40) (span : Nat) (p : SliceNo) (base : Nat) (e : DirEnt) (q : SliceNo) :
    (s.spanFreed oid span p base e).slice q = (s.slice q).dropIndex oid span := Vector.getElem_map ..

theorem free_span {src : Requester} {oid : BitVec 40} {span : BitVec 18} {s : State} {p : SliceNo} {base : Nat} {e : DirEnt}
    (heph : s.ephLive = true) (hhalt : s.isHalted (domainOf oid) = false) (hobj : s.eph.objectEnt oid = none)
    (hserves : s.eph.serves oid span.toNat = .at p base e) (hframe : e.noFrame = false) (hfits : s.eph.leaveFits oid span.toNat 0 = true) :
    exec (.free src oid span) s = .next ((s.spanFreed oid span.toNat p base e).mirDir.ackTo src unitEph fsOk oid
      (BitVec.ofNat 24 span.toNat)) := by
  have hok : ¬ fsOk = fsNotHome := by decide
  change execFree src oid span s = _
  unfold execFree
  simp only [hhalt, hobj, hserves, hframe, hok, Bool.false_eq_true, if_false]
  exact guarded_pos (by rw [heph, hfits]; rfl)

theorem pinSet_next {src : Requester} {oid : BitVec 40} {span : BitVec 18} (b : Bool) {s : State} {p : SliceNo} {base : Nat} {e : DirEnt}
    (heph : s.ephLive = true) (hhalt : s.isHalted (domainOf oid) = false) (hserves : s.eph.serves oid span.toNat = .at p base e) :
    exec (.pinSet src oid span b) s = .next ((s.onEph (fun h => { h with
      dir := mapIf (fun e => e.obj.oid == oid && (e.frameOf span.toNat).isSome) (fun e => { e with pinned := b }) h.dir })).mirDir.ackTo src
        unitEph fsOk oid (BitVec.ofNat 24 span.toNat)) := by
  change execPinSet src oid span b s = _
  unfold execPinSet
  simp only [hhalt, hserves, Bool.false_eq_true, if_false]
  exact guarded_pos heph

theorem evictReq_queues {src : Requester} {oid : BitVec 40} {span : BitVec 18} (tier : BitVec 2) {s : State} {h : HomeAt}
    (heph : s.ephLive = true) (hmgr : s.managerRefuses oid = none) (hhome : s.eph.map.home oid span.toNat = some h)
    (hblock : h.block = src.block) :
    exec (.evictReq src oid span tier) s = .next (s.queueMoves [{
      no := 0, oid := oid, span := span, why := .capacity src, toHome := h, anySlice := true, tier := if tier = 2 then 3 else 1 }]) := by
  change execEvictReq src oid span tier s = _
  unfold execEvictReq
  simp only [hmgr, hhome, hblock, bne_self_eq_false, Bool.false_eq_true, if_false]
  exact guarded_pos heph

theorem mirrorBeat_empty {s : State} (heph : s.ephLive = true) (hmirror : s.hasMirror = true)
    (hel : 2 ^ 15 ≤ elapsed (s.now ephIsl) s.eph.mirrorAt) (hnone : s.mirrorsOut.filter (·.again) = []) :
    exec .mirrorBeat s = .next ((s.onEph fun h => { h with mirrorAt := s.now ephIsl }).request {
      unit := unitEph, tid := 0, ptype := ptMirror, dest := s.ephConf.mirrorBlock, dunit := unitMir, rest := List.replicate 16 0
      why := .mirror [] [] }) := by
  change execMirrorBeat s = _
  unfold execMirrorBeat
  simp only [hnone, List.isEmpty_nil, if_true]
  exact guarded_pos (by rw [heph, hmirror, decide_eq_true hel]; rfl)

/-- Settles O55, a row after the other. -/
theorem managersServe : Obligations.ManagersServe := by
  refine ⟨?mirror, ?free, ?pin, ?evict, ?beat⟩
  case mirror => exact fun src es s hawake => ⟨_, mirror_next src es hawake, rfl⟩
  case free =>
    exact fun src oid span s p base e heph hhalt hobj hserves hframe hfits =>
      ⟨_, free_span heph hhalt hobj hserves hframe hfits, rfl, rfl, rfl, rfl, spanFreed_slice s oid span.toNat p base e⟩
  case pin => exact fun src oid span b s p base e heph hhalt hserves => ⟨_, rfl, pinSet_next b heph hhalt hserves⟩
  case evict =>
    exact fun src oid span tier s h heph hmgr hhome hblock =>
      ⟨_, evictReq_queues tier heph hmgr hhome hblock, rfl, rfl, _, rfl, rfl, rfl, rfl, rfl, rfl⟩
  case beat => exact fun s heph hmirror hel hnone => mirrorBeat_empty heph hmirror hel hnone

/-! Members. -/

/-- What a manager holds of a member before a report of it. -/
def State.occOf (s : State) (b : BitVec 12) : Occ := (s.eph.occ.find? fun o => o.block == b).getD { block := b }

theorem occOf_block (s : State) (b : BitVec 12) : (s.occOf b).block = b := by
  unfold State.occOf
  cases hfind : s.eph.occ.find? fun o => o.block == b with
  | none => rfl
  | some o => exact beq_iff_eq.1 (List.find?_some (p := fun o : Occ => o.block == b) hfind)

/-- A member's report stands in the table, where it has a place there (R423). -/
theorem putOcc_mem {h : EphS} {o : Occ} (hroom : h.occ.length < 256 ∨ ∃ q ∈ h.occ, q.block = o.block) : o ∈ (h.putOcc o).occ := by
  unfold EphS.putOcc
  by_cases hany : (h.occ.any fun q => q.block == o.block) = true
  · rw [if_pos hany]
    obtain ⟨q, hq, hblock⟩ := List.any_eq_true.1 hany
    exact List.mem_map.2 ⟨q, hq, if_pos hblock⟩
  · rw [if_neg hany, if_pos (hroom.resolve_right fun ⟨q, hq, hblock⟩ => hany (List.any_eq_true.2 ⟨q, hq, beq_iff_eq.2 hblock⟩))]
    exact List.mem_append_right _ (List.mem_singleton.2 rfl)

theorem putOcc_only (s : State) (o : Occ) : OnlyEph s (s.onEph fun h => h.putOcc o) ∧ (s.onEph fun h => h.putOcc o).eph.map = s.eph.map ∧
    (s.onEph fun h => h.putOcc o).eph.dir = s.eph.dir := by
  refine ⟨rfl, ?_, ?_⟩ <;> (simp only [State.onEph, EphS.putOcc]; split_ifs <;> rfl)

theorem join_next {src : Requester} {role : BitVec 4} {ic : BitVec 8} {il : List Byte} {fx : BitVec 64} {s : State} (heph : s.ephLive = true)
    {o : Occ} (ho : o = { s.occOf src.block with
      role := role, icount := min 32 ic.toNat, islice := (il.take (min 32 ic.toNat)).map (·.toNat), free := [fx]
      freeEntries := if (s.occOf src.block).free.isEmpty then 1 else (s.occOf src.block).freeEntries }) :
    exec (.join src role ic il fx) s = .next (if s.ephConf.role = 1 || s.ephConf.role = 2 then
      (s.onEph fun h => h.putOcc o).ackTo src unitEph fsOk 0 0 else s.ackTo src unitEph fsUnreachable 0 0) := by
  subst ho
  exact guarded_pos heph

theorem occ_next {src : Requester} {fx : List (BitVec 64)} {n : BitVec 64} {s : State} (heph : s.ephLive = true) :
    exec (.occ src fx n) s = .next (s.onEph fun h => h.putOcc { s.occOf src.block with free := fx.take 32, freeEntries := n }) :=
  guarded_pos heph

theorem occSend_next {s : State} {m : BitVec 12} (heph : s.ephLive = true) (hjoined : s.eph.joinAck ≠ [])
    (hel : 2 ^ 20 ≤ elapsed (s.now ephIsl) s.eph.occAt) (hmgr : s.managerOf s.ephConf.domain.toNat = some m) :
    exec .occSend s = .next ((s.onEph fun h => { h with occAt := s.now ephIsl }).post unitEph ptOcc (fabWords ptOcc m s.block
      (transWord 0 unitEph unitEph 0 0) (0 :: s.occWords))) := by
  change execOccSend s = _
  unfold execOccSend
  simp only [hmgr]
  exact guarded_pos (by rw [heph, decide_eq_true hel]; simpa using hjoined)

/-- Settles O56, by the place of a report in the table of members (`putOcc_mem`). -/
theorem membersReport : Obligations.MembersReport := by
  refine ⟨?join, ?occ, ?send, ?sig⟩
  case join =>
    intro src role ic il fx s heph
    refine ⟨fun hmgr hroom => ?_, fun h1 h2 => ?_⟩
    · obtain ⟨honly, hmap, hdir⟩ := putOcc_only s { s.occOf src.block with
        role := role, icount := min 32 ic.toNat, islice := (il.take (min 32 ic.toNat)).map (·.toNat), free := [fx]
        freeEntries := if (s.occOf src.block).free.isEmpty then 1 else (s.occOf src.block).freeEntries }
      have hblock := occOf_block s src.block
      refine ⟨_, (join_next heph rfl).trans (congrArg _ (if_pos (by simpa using hmgr))), honly, hmap, hdir, _, putOcc_mem ?_, hblock, rfl, rfl,
        rfl⟩
      simpa only [hblock] using hroom
    · exact (join_next heph rfl).trans (congrArg _ (if_neg (by simp [h1, h2])))
  case occ =>
    intro src fx n s heph hroom
    obtain ⟨honly, hmap, hdir⟩ := putOcc_only s { s.occOf src.block with free := fx.take 32, freeEntries := n }
    have hblock := occOf_block s src.block
    refine ⟨_, occ_next heph, honly, hmap, hdir, _, putOcc_mem ?_, hblock, rfl, rfl⟩
    simpa only [hblock] using hroom
  case send => exact fun s m heph hjoined hel hmgr => occSend_next heph hjoined hel hmgr
  case sig => exact fun src b n v s hawake => ⟨_, guarded_pos hawake, rfl, rfl⟩

end Sys2Proof.Machine
end

section
/-! PROOFS. Detectors (R448 to R450), and the rows of the Survey, the audit, halts and freed runs (R421, R455 to R461, R468). -/

namespace Sys2Proof.Machine

/-! Detectors. -/

/-- The instance of a detector once one more event is counted in its present window. -/
def State.counted (s : State) (k : IslandNo) (e : DetEvent) : Det :=
  (((s.isl k).det e.code e.inst).roll (detWT (s.conf k) e.code.toNat).1 (s.isl k).cycle).count1 (detWT (s.conf k) e.code.toNat).2

/-- Whether the event makes its fault lasting. -/
def State.becomesLasting (s : State) (k : IslandNo) (e : DetEvent) : Bool :=
  (s.counted k e).lasting && !(((s.isl k).det e.code e.inst).roll (detWT (s.conf k) e.code.toNat).1 (s.isl k).cycle).lasting

/-- The state once a waiting event has been counted and recorded (R448, R449). -/
def State.eventNoted (s : State) (k : IslandNo) (e : DetEvent) : State :=
  ((s.onIsl k fun i => { i with detQueue := i.detQueue.erase e }).onIsl k fun i => i.putDet (s.counted k e)).emit k {
    code := e.code, sev := if s.becomesLasting k e then sevLasting else sevTransient, injected := e.injected, inst := e.inst
    oid := e.oid, plate := e.plate, arg := detailOf e }

theorem detectorEvent_found {k : IslandNo} {e : DetEvent} {s : State} (hlive : (s.isl k).live = true) (hdet : s.hasDet k e.code e.inst = true)
    (hfound : (s.isl k).detQueue.contains e = true) {t : State}
    (ht : t = if (s.isl k).state = .shut then s.eventNoted k e else (s.eventNoted k e).eventAct k e true (s.becomesLasting k e)) :
    exec (.detectorEvent k e) s = .next (if s.becomesLasting k e then t.lastingAct k e else t) := by
  subst ht
  change execDetectorEvent k e s = _
  unfold execDetectorEvent
  simp only [hfound, if_true]
  exact guarded_pos (by rw [hlive, hdet]; rfl)

/-- A window that has ended leaves the count at zero (R448). -/
theorem roll_ended {d : Det} {w : Nat} {now : Ctr} (h : 2 ^ w ≤ elapsed now d.winStart) :
    (d.roll w now).count = 0 ∧ (d.roll w now).total = d.total ∧ (d.roll w now).lasting = d.lasting := by
  have hn : ¬ elapsed now d.winStart / 2 ^ w = 0 := Nat.ne_of_gt (Nat.div_pos h (Nat.two_pow_pos w))
  simp only [Det.roll, if_neg hn]
  exact ⟨trivial, trivial, trivial⟩

/-- Settles O57, by what an event that waits leaves (`detectorEvent_found`). -/
theorem detectorsCount : Obligations.DetectorsCount := by
  refine ⟨?event, ?window⟩
  case event =>
    intro k e s hlive hdet hfound wt old new
    have hbecomes : s.becomesLasting k e = (new.lasting && !old.lasting) := rfl
    refine ⟨s.eventNoted k e, rfl, fun hsame hopen => ?_, fun hnew hold hopen => ?_, fun hnew hold hshut => ?_⟩
    · have hno : s.becomesLasting k e = false := by rw [hbecomes, hsame]; exact Bool.and_not_self _
      rw [detectorEvent_found hlive hdet hfound (if_neg hopen).symm, hno]
      rfl
    · have hyes : s.becomesLasting k e = true := by rw [hbecomes, hnew, hold]; rfl
      rw [detectorEvent_found hlive hdet hfound (if_neg hopen).symm, hyes]
      rfl
    · have hyes : s.becomesLasting k e = true := by rw [hbecomes, hnew, hold]; rfl
      rw [detectorEvent_found hlive hdet hfound (if_pos hshut).symm, hyes]
      rfl
  case window =>
    intro k code inst s hlive hdet hel
    exact ⟨_, _, guarded_pos (by rw [hlive, hdet, decide_eq_true hel]; rfl), rfl, roll_ended hel⟩

/-! Heals. -/

theorem live_of_running {s : State} {k : IslandNo} (h : s.running k = true) : (s.isl k).live = true := (Bool.and_eq_true_iff.1 h).1

theorem running_of_begins {s : State} {k : IslandNo} (h : s.begins k = true) : s.running k = true := (Bool.and_eq_true_iff.1 h).1

theorem healStart_steps {s t : State} (hrun : s.running svyIsl = true) (heph : s.ephLive = true)
    (hstep : s.svy.heals.findSome? s.healStep = some t) : exec .healStart s = .next t := by
  change execHealStart s = _
  unfold execHealStart
  simp only [hstep]
  exact guarded_pos (by rw [live_of_running hrun, heph, hrun, Bool.or_true]; rfl)

theorem healStart_begins {s : State} {d : Dark} (hbegins : s.begins svyIsl = true) (heph : s.ephLive = true) (hnone : s.svy.heals = [])
    (hdark : s.nextDark = some d) : exec .healStart s = .next (s.beginHeal d) := by
  have hrun := running_of_begins hbegins
  change execHealStart s = _
  unfold execHealStart
  simp only [hnone, List.findSome?_nil, hdark]
  refine (guarded_pos (by rw [live_of_running hrun, heph, hrun, Bool.or_true]; rfl)).trans (congrArg _ (if_pos ?_))
  rw [hbegins]
  exact Bool.or_true _

/-- The state once a plate has left the dark table and its heal has gone (R458). -/
def State.healGone (s : State) (oid : BitVec 40) (plate : BitVec 24) : State :=
  (s.onEph fun e => { e with
    park := e.park.filter fun q => !(q.oid == oid && q.plate == plate)
    dark := e.dark.filter fun d => !(d.oid == oid && d.plate == plate) }).onSvy fun v =>
      { v with heals := v.heals.filter fun g => !(g.oid == oid && g.plate == plate) }

theorem healEnd_healed {oid : BitVec 40} {plate : BitVec 24} {s : State} {h : Heal} (hlive : (s.isl svyIsl).live = true)
    (heph : s.ephLive = true)
    (hfind : s.svy.heals.find? (fun h => h.oid == oid && h.plate == plate && (h.st == .healed || h.st == .failed)) = some h)
    (hst : h.st = .healed) (hpark : s.eph.park = []) :
    exec (.healEnd oid plate) s = .next ((((s.healGone oid plate).emit svyIsl {
      code := 0x0005, sev := sevInfo, oid := oid, plate := plate, arg := packW [flag true 63, put 0 0] }).bump svyIsl svyReleased 0).bump svyIsl
        svyHealed) := by
  have hok : (h.st == .healed) = true := by rw [hst]; rfl
  change execHealEnd oid plate s = _
  unfold execHealEnd
  simp only [hfind, hok, hpark, List.filter_nil, List.foldl_nil, List.length_nil, if_true]
  exact guarded_pos (by rw [hlive, heph]; rfl)

/-! The patrol, the audit, halts and freed runs. -/

theorem patrolBurst_due {s : State} (hbegins : s.begins svyIsl = true) (heph : s.ephLive = true) (hen : s.svy.patrolEn = true)
    (hel : max 1 s.svy.patrolInterval.toNat ≤ elapsed (s.now svyIsl) s.svy.patrolAt) :
    exec .patrolBurst s = .next ((List.finRange 32).foldl State.patrolSlice (s.scrubAll.onSvy fun v => { v with patrolAt := s.now svyIsl })) :=
  (guarded_pos (by rw [running_of_begins hbegins, heph]; rfl)).trans
    (congrArg _ (if_pos (by rw [hen, hbegins, decide_eq_true hel]; rfl)))

/-- The audit where no injection is armed: an entry that MIR holds as it is passes, any other mends the copy (R461). -/
theorem auditCompare_next {b : Bool} {s : State} {e : DirEnt} (hbegins : s.begins svyIsl = true) (heph : s.ephLive = true)
    (hmir : s.awake mirIsl = true) (harmed : (s.isl svyIsl).armed = none) (hel : 256 ≤ elapsed (s.now svyIsl) s.svy.auditAt)
    (hent : s.eph.dir[s.svy.auditPos % max 1 s.eph.dir.length]? = some e) {u : State}
    (hu : u = (s.bump svyIsl svyAudited).onSvy fun v => { v with
      auditPos := (v.auditPos + 1) % max 1 s.eph.dir.length, auditAt := s.now svyIsl }) :
    exec (.auditCompare b) s = .next (if b || !s.eph.mirDir.contains e then (u.onEph fun h => { h with
      mirDir := (h.mirDir.filter fun d => !d.sameKey e) ++ [e] }).event svyIsl { code := 0x0403, inst := 0, oid := e.obj.oid } else u) := by
  subst hu
  change execAuditCompare b s = _
  unfold execAuditCompare
  simp only [hent, inject_unarmed harmed, Bool.or_false]
  exact guarded_pos (by rw [hbegins, heph, hmir, decide_eq_true hel]; rfl)

/-- A mask of none halts nothing. -/
theorem haltNone (l : List Nat) (s : State) :
    l.foldl (fun (s : State) d => if (0 : BitVec 16).getLsbD d then s.haltDomain d true else s) s = s := by
  induction l with
  | nil => rfl
  | cons d l ih =>
    have hbit : (0 : BitVec 16).getLsbD d = false := BitVec.getLsbD_zero
    rw [List.foldl_cons, hbit, if_neg Bool.false_ne_true]
    exact ih

theorem freeRunOverflowMerge_next {s : State} {p : SliceNo} {r : FreeRun} {rest : List (SliceNo × FreeRun)} (hawake : s.awake ephIsl = true)
    (hfirst : s.eph.overflow = (p, r) :: rest) (hroom : s.eph.runCount < 131072) :
    exec .freeRunOverflowMerge s = .next { s with eph := { s.eph with
      overflow := rest, free := s.eph.free.set p (mergeRun s.eph.free[p] r) } } := by
  change execFreeRunOverflowMerge s = _
  unfold execFreeRunOverflowMerge
  simp only [hfirst]
  exact guarded_pos (by rw [hawake, decide_eq_true hroom, Bool.or_true]; rfl)

/-- Settles O58, a row after the other. -/
theorem surveyRows : Obligations.SurveyRows := by
  refine ⟨⟨?steps, ?begins, ?ends, ?patrol, ?audit⟩, ?halts, ?none, ?merge⟩
  case steps => exact fun s t hrun heph hstep => healStart_steps hrun heph hstep
  case begins => exact fun s d hbegins heph hnone hdark => healStart_begins hbegins heph hnone hdark
  case ends =>
    exact fun oid plate s h hlive heph hfind hst hpark => ⟨_, healEnd_healed hlive heph hfind hst hpark, rfl, rfl, rfl, rfl, rfl⟩
  case patrol => exact fun s hbegins heph hen hel => patrolBurst_due hbegins heph hen hel
  case audit =>
    intro b s e hbegins heph hmir harmed hel hent u
    have hnext := auditCompare_next (b := b) hbegins heph hmir harmed hel hent (u := u) rfl
    refine ⟨fun hb hsame => hnext.trans (congrArg _ (if_neg (by rw [hb, hsame]; decide))),
      fun hbad => hnext.trans (congrArg _ (if_pos ?_))⟩
    rcases hbad with h | h
    · rw [h]; rfl
    · rw [h]; exact Bool.or_true _
  case halts => exact fun m s hlive => guarded_pos hlive
  case none => exact fun s hlive => (guarded_pos hlive).trans (congrArg _ (haltNone _ s))
  case merge => exact fun s p r rest hawake hfirst hroom => freeRunOverflowMerge_next hawake hfirst hroom

end Sys2Proof.Machine
end

section
/-! PROOFS. From a report to the Logbook (R482 to R490), injection and snapshots (R494 to R498). -/

namespace Sys2Proof.Machine

/-! The Logbook. -/

theorem reportSend_next {k : IslandNo} (poisoned : Bool) {s : State} {r : Report} {rest : List Report} (hlive : (s.isl k).live = true)
    (hout : ∀ p ∈ (s.isl k).outbox, p.isReport = false) (hfirst : (s.isl k).reports = r :: rest) :
    exec (.reportSend k poisoned) s = .next (s.onIsl k fun i => { i with
      reports := rest, outbox := i.outbox ++ [reportPkt k poisoned r] }) := by
  have hnone : (s.isl k).outbox.any OutPkt.isReport = false := by simpa using hout
  change execReportSend k poisoned s = _
  unfold execReportSend
  simp only [hfirst]
  exact guarded_pos (by rw [hlive, hnone]; rfl)

/-- The next report that LOG takes has left those that arrive. -/
def State.reportOff (s : State) (rest : List Report) : State := { s with log := { s.log with arriving := rest } }

section
variable {s : State} {r : Report} {rest : List Report} (hawake : s.awake logIsl = true) (hfirst : s.log.arriving = r :: rest)
include hawake hfirst

theorem logReportTake_fatal (hsev : r.sev = sevFatal) :
    exec .logReportTake s = .next (((s.reportOff rest).flushStaged.noteTaken r).takeFatal r) := by
  change execLogReportTake s = _
  unfold execLogReportTake
  simp only [hfirst, hsev, if_true]
  exact guarded_pos hawake

variable (hsev : r.sev ≠ sevFatal)
include hsev

theorem logReportTake_stage (hstaged : s.log.staged = none) : exec .logReportTake s = .next { (s.reportOff rest).noteTaken r with
    log := { ((s.reportOff rest).noteTaken r).log with staged := some (r, s.now logIsl) } } := by
  change execLogReportTake s = _
  unfold execLogReportTake
  simp only [hfirst, if_neg hsev]
  refine (guarded_pos hawake).trans (congrArg _ ?_)
  split
  next h => exact absurd (h.symm.trans hstaged) nofun
  next => rfl

variable {b : Report} {t : Ctr} (hstaged : s.log.staged = some (b, t))
include hstaged

theorem logReportTake_fold (hfold : b.foldsWith r = true) : exec .logReportTake s = .next (({ (s.reportOff rest).noteTaken r with
    log := { ((s.reportOff rest).noteTaken r).log with staged := some (b.fold r, t) } } : State).bump logIsl logFolded) := by
  change execLogReportTake s = _
  unfold execLogReportTake
  simp only [hfirst, if_neg hsev]
  refine (guarded_pos hawake).trans (congrArg _ ?_)
  split
  next c u h =>
    obtain ⟨rfl, rfl⟩ := Prod.mk.inj (Option.some.inj (h.symm.trans hstaged))
    exact if_pos hfold
  next h => exact absurd (h.symm.trans hstaged) nofun

theorem logReportTake_flush (hfold : b.foldsWith r = false) : exec .logReportTake s = .next { (s.reportOff rest).flushStaged.noteTaken r with
    log := { ((s.reportOff rest).flushStaged.noteTaken r).log with staged := some (r, s.now logIsl) } } := by
  change execLogReportTake s = _
  unfold execLogReportTake
  simp only [hfirst, if_neg hsev]
  refine (guarded_pos hawake).trans (congrArg _ ?_)
  split
  next c u h =>
    obtain ⟨rfl, rfl⟩ := Prod.mk.inj (Option.some.inj (h.symm.trans hstaged))
    exact if_neg (by rw [hfold]; decide)
  next h => exact absurd (h.symm.trans hstaged) nofun

end

theorem flushStaged_some {s : State} {r : Report} {t : Ctr} (h : s.log.staged = some (r, t)) :
    s.flushStaged = { s.appendRecord r with log := { (s.appendRecord r).log with staged := none } } := by
  unfold State.flushStaged
  split
  next h' => exact absurd (h'.symm.trans h) nofun
  next r' t' h' => obtain ⟨rfl, -⟩ := Prod.mk.inj (Option.some.inj (h'.symm.trans h)); rfl

theorem stagedAppend_next {s : State} {r : Report} {t : Ctr} (hawake : s.awake logIsl = true) (hstaged : s.log.staged = some (r, t))
    (hel : 256 ≤ elapsed (s.now logIsl) t) :
    exec .stagedAppend s = .next { s.appendRecord r with log := { (s.appendRecord r).log with staged := none } } := by
  rw [← flushStaged_some hstaged]
  change execStagedAppend s = _
  unfold execStagedAppend
  simp only [hstaged]
  exact guarded_pos (by rw [hawake, decide_eq_true hel]; rfl)

/-- The selected code once its SEEN bit is cleared (R490). -/
theorem clearCode_code (l : LogS) : ((l.clearCode true false false).code l.codeSel.toNat).seen = false ∧
    ((l.clearCode true false false).code l.codeSel.toNat).first = [] ∧ ((l.clearCode true false false).code l.codeSel.toNat).last = [] ∧
    ((l.clearCode true false false).code l.codeSel.toNat).reports = (l.code l.codeSel.toNat).reports := by
  simp [LogS.clearCode, LogS.code]

/-- Settles O59, by the cases of a report that LOG takes. -/
theorem logbookRows : Obligations.LogbookRows := by
  refine ⟨?send, ?take, ?append, ?clear⟩
  case send => exact fun k poisoned s r rest hlive hout hfirst => reportSend_next poisoned hlive hout hfirst
  case take =>
    intro s r rest hawake hfirst w u v
    exact ⟨fun hsev => logReportTake_fatal hawake hfirst hsev, fun hsev hstaged => logReportTake_stage hawake hfirst hsev hstaged,
      fun b t hsev hstaged => ⟨fun hfold => logReportTake_fold hawake hfirst hsev hstaged hfold,
        fun hfold => logReportTake_flush hawake hfirst hsev hstaged hfold⟩⟩
  case append => exact fun s r t hawake hstaged hel => ⟨_, stagedAppend_next hawake hstaged hel, rfl⟩
  case clear =>
    intro s hlive
    obtain ⟨hseen, hfirst, hlast, hreports⟩ := clearCode_code s.log
    exact ⟨_, guarded_pos hlive, rfl, hseen, hfirst, hlast, hreports, rfl⟩

/-! Injection and snapshots. -/

/-- INJ_ARM that no crossing poisons is answered with what the arming says (R494). -/
theorem injArm_answered (tag : BitVec 4) (n : BitVec 16) (sp : BitVec 32) {s : State} (hup : s.chanUp = true)
    (hans : s.answers injIsl = true) : exec (.injArm tag n sp .clean) s = .next ((s.arm n sp).2.answer tag (s.arm n sp).1) :=
  (guarded_pos hup).trans (congrArg _ (if_neg (by rw [hans]; decide)))

theorem arm_refused {s : State} (n : BitVec 16) (sp : BitVec 32) (h : s.armRefused s.inj.target = true) :
    s.arm n sp = (ansDenied, ({ s with inj := { s.inj with refusedSeen := true } } : State).emit injIsl {
      code := 0x000B, sev := sevInfo, arg := s.inj.target }) := if_pos h

theorem arm_shut {s : State} (n : BitVec 16) (sp : BitVec 32) (h : s.armRefused s.inj.target = false) (hst : (s.isl injIsl).state = .shut) :
    s.arm n sp = (ansOk, s) := (if_neg (by rw [h]; decide)).trans (if_pos (by rw [hst]; rfl))

theorem arm_allowed {s : State} (n : BitVec 16) (sp : BitVec 32) (h : s.armRefused s.inj.target = false)
    (hst : (s.isl injIsl).state ≠ .shut) {k : IslandNo} (hk : k = Fin.ofNat 60 (injIsland s.inj.target)) :
    s.arm n sp = (ansOk, ({ s with inj := { s.inj with armedAt := some k } } : State).onIsl k fun i => { i with armed := some {
      code := BitVec.ofNat 16 (injCode s.inj.target), inst := BitVec.ofNat 16 (injInst s.inj.target)
      remaining := if n = 0 then 1 else n, spacing := sp } }) := by
  subst hk
  exact (if_neg (by rw [h]; decide)).trans (if_neg (by simpa using hst))

theorem injCancel_armed {s : State} {k : IslandNo} (hlive : (s.isl injIsl).live = true) (harmed : s.inj.armedAt = some k) :
    exec .injCancel s = .next (({ s with inj := { s.inj with armedAt := none, cancelSeen := true } } : State).onIsl k fun i =>
      { i with armed := none }) := by
  refine (guarded_pos hlive).trans (congrArg _ ?_)
  unfold State.cancelArm
  split
  next h => exact absurd (h.symm.trans harmed) nofun
  next j h => obtain rfl := Option.some.inj (h.symm.trans harmed); rfl

theorem onIslands_isl (s : State) (f : Nat → Island → Island) (k : IslandNo) : (s.onIslands f).isl k = f k.val (s.isl k) :=
  Vector.getElem_mapIdx ..

/-- Settles O60, by the cases of an arming. -/
theorem injectionAndSnapshots : Obligations.InjectionAndSnapshots := by
  refine ⟨?allowed, ?shut, ?refused, ?cancel, ?snap, ?all⟩
  case allowed =>
    intro tag n sp s hup hans hok hst k
    rw [injArm_answered tag n sp hup hans, arm_allowed n sp hok hst rfl]
  case shut =>
    intro tag n sp s hup hans hok hst
    rw [injArm_answered tag n sp hup hans, arm_shut n sp hok hst]
  case refused =>
    intro tag n sp s hup hans hno
    rw [injArm_answered tag n sp hup hans, arm_refused n sp hno]
  case cancel => exact fun s k hlive harmed => injCancel_armed hlive harmed
  case snap => exact fun k s hlive => ⟨guarded_pos hlive, guarded_pos hlive⟩
  case all =>
    intro b s hup
    refine ⟨_, guarded_pos hup, rfl, rfl, fun k => ?_⟩
    refine (onIslands_isl ..).trans ?_
    cases b <;> rfl

end Sys2Proof.Machine
end

section
/-! PROOFS. The loss of a quadrant leaves the islands of all quadrants as they are: its work is on slices, commands, the tables of the
Ephemeris and the Survey, and the packets that the islands of slices and units send (R16, R474). -/

namespace Sys2Proof.Machine

/-- The islands of the four quadrants. -/
def State.quadIsls (s : State) (x : QuadNo) : Island := s.isl (xqIsl x)

theorem psIsl_ne_xqIsl (p : SliceNo) (x : QuadNo) : xqIsl x ≠ psIsl p := by
  intro h
  have : 48 + x.val = p.val := congrArg Fin.val h
  omega

theorem ephIsl_ne_xqIsl (x : QuadNo) : xqIsl x ≠ ephIsl := by revert x; decide

theorem unitIsl_ne_xqIsl {u : BitVec 6} {k : IslandNo} (h : unitIsl u = some k) (x : QuadNo) : xqIsl x ≠ k := by
  rw [unitIsl] at h
  split at h
  next hps =>
    cases h
    exact psIsl_ne_xqIsl ⟨u.toNat, hps⟩ x
  next => split at h <;> cases h <;> revert x <;> decide

/-! The operations of the state. -/

theorem onIsl_quadIsls {s : State} {k : IslandNo} {f : Island → Island} (h : ∀ x, xqIsl x ≠ k) : (s.onIsl k f).quadIsls = s.quadIsls := by
  funext x
  rw [State.quadIsls, State.onIsl_isl, if_neg (h x).symm]
  rfl

theorem foldl_quadIsls {β : Type} {g : State → β → State} (h : ∀ s b, (g s b).quadIsls = s.quadIsls) (l : List β) (s : State) :
    (l.foldl g s).quadIsls = s.quadIsls := by
  induction l generalizing s with
  | nil => rfl
  | cons b l ih => exact (ih _).trans (h s b)

@[simp] theorem onSlice_quadIsls (s : State) (p : SliceNo) (f : Slice → Slice) : (s.onSlice p f).quadIsls = s.quadIsls := rfl
@[simp] theorem onMp_quadIsls (s : State) (p : SliceNo) (f : Mp → Mp) : (s.onMp p f).quadIsls = s.quadIsls := rfl
@[simp] theorem onHeal_quadIsls (s : State) (oid : BitVec 40) (k : BitVec 24) (f : Heal → Heal) :
    (s.onHeal oid k f).quadIsls = s.quadIsls := rfl
@[simp] theorem newId_quadIsls (s : State) : s.newId.2.quadIsls = s.quadIsls := rfl
@[simp] theorem parkReq_quadIsls (s : State) (oid : BitVec 40) (k : BitVec 24) (who : Parked) :
    (s.parkReq oid k who).quadIsls = s.quadIsls := rfl
@[simp] theorem portReq_quadIsls (s : State) (p : SliceNo) (r : MemReq) : (s.portReq p r).quadIsls = s.quadIsls := rfl
@[simp] theorem putJob_quadIsls (s : State) (p : SliceNo) (j : RJob) : (s.putJob p j).quadIsls = s.quadIsls := rfl
@[simp] theorem dropJob_quadIsls (s : State) (p : SliceNo) (id : Nat) : (s.dropJob p id).quadIsls = s.quadIsls := rfl
@[simp] theorem moveFails_quadIsls (s : State) (no : Nat) : (s.moveFails no).quadIsls = s.quadIsls := rfl
@[simp] theorem arrive_quadIsls (s : State) (q : SliceNo) (a : Arrived) : (s.arrive q a).quadIsls = s.quadIsls := rfl
@[simp] theorem takeAlmanac_quadIsls (s : State) (p : SliceNo) (isA : Bool) (k : BitVec 24) (bad : Bool) (line : List Byte) :
    (s.takeAlmanac p isA k bad line).quadIsls = s.quadIsls := rfl
@[simp] theorem healStored_quadIsls (s : State) (oid : BitVec 40) (k : BitVec 24) (ok : Bool) :
    (s.healStored oid k ok).quadIsls = s.quadIsls := rfl
@[simp] theorem healHeader_quadIsls (s : State) (oid : BitVec 40) (k : BitVec 24) (q : Nat) (hdr : Option (List Byte)) :
    (s.healHeader oid k q hdr).quadIsls = s.quadIsls := rfl
@[simp] theorem healLine_quadIsls (s : State) (oid : BitVec 40) (k : BitVec 24) (ix : Nat) (cipher : Option (List Byte)) :
    (s.healLine oid k ix cipher).quadIsls = s.quadIsls := rfl

@[simp] theorem failRun_quadIsls (s : State) (run : Option Nat) (st : BitVec 8) : (s.failRun run st).quadIsls = s.quadIsls := by
  cases run <;> rfl

@[simp] theorem send_quadIsls_slice (s : State) (p : SliceNo) (pkt : OutPkt) : (s.send (psIsl p) pkt).quadIsls = s.quadIsls :=
  onIsl_quadIsls (psIsl_ne_xqIsl p)
@[simp] theorem bump_quadIsls_slice (s : State) (p : SliceNo) (off n : Nat) : (s.bump (psIsl p) off n).quadIsls = s.quadIsls :=
  onIsl_quadIsls (psIsl_ne_xqIsl p)
@[simp] theorem emit_quadIsls_slice (s : State) (p : SliceNo) (n : Note) : (s.emit (psIsl p) n).quadIsls = s.quadIsls :=
  onIsl_quadIsls (psIsl_ne_xqIsl p)
@[simp] theorem emit_quadIsls_eph (s : State) (n : Note) : (s.emit ephIsl n).quadIsls = s.quadIsls :=
  onIsl_quadIsls ephIsl_ne_xqIsl

@[simp] theorem post_quadIsls (s : State) (u : BitVec 6) (pt : Nat) (words : List W64) (poison : Bool) :
    (s.post u pt words poison).quadIsls = s.quadIsls := by
  unfold State.post
  split
  next k hk =>
    unfold State.sendFabric
    dsimp only
    split
    · exact onIsl_quadIsls (unitIsl_ne_xqIsl hk)
    · rfl
  next => rfl

@[simp] theorem postData_quadIsls (s : State) (dest : BitVec 12) (u : BitVec 6) (pt : Nat) (trans : W64) (rest : List W64)
    (d : PlateWords) : (s.postData dest u pt trans rest d).quadIsls = s.quadIsls := by
  unfold State.postData
  split <;> simp

@[simp] theorem memReq_quadIsls (s : State) (p : SliceNo) (r : MemReq) : (s.memReq p r).quadIsls = s.quadIsls := by
  unfold State.memReq
  dsimp only
  split <;> simp

/-! Dark plates. -/

@[simp] theorem haltDomain_quadIsls (s : State) (d : Nat) (byHand : Bool) : (s.haltDomain d byHand).quadIsls = s.quadIsls := by
  unfold State.haltDomain
  split
  · rfl
  · exact emit_quadIsls_eph ..

@[simp] theorem darken_quadIsls (s : State) (oid : BitVec 40) (k : BitVec 24) (p : SliceNo) (index : Bool) :
    (s.darken oid k p index).quadIsls = s.quadIsls := by
  unfold State.darken
  split
  · rfl
  · split
    · rfl
    · split <;> simp

@[simp] theorem darkenSpan_quadIsls (s : State) (p : SliceNo) (oid : BitVec 40) (span : Nat) :
    (s.darkenSpan p oid span).quadIsls = s.quadIsls :=
  foldl_quadIsls (fun _ _ => darken_quadIsls ..) _ s

@[simp] theorem darkenLine_quadIsls (s : State) (p : SliceNo) (id : LineId) (wr : Bool) :
    (s.darkenLine p id wr).quadIsls = s.quadIsls := by
  unfold State.darkenLine
  split
  case h_4 => exact foldl_quadIsls (fun s q => by split <;> simp) _ s
  case h_5 => rfl
  case h_6 => exact darkenSpan_quadIsls ..
  all_goals split <;> simp

@[simp] theorem parkFor_quadIsls (s : State) (oid : BitVec 40) (k : BitVec 24) (dest : RDest) :
    (s.parkFor oid k dest).quadIsls = s.quadIsls := by
  cases dest <;> rfl

/-! Reads at home. -/

@[simp] theorem moveData_quadIsls (s : State) (p : SliceNo) (no : Nat) (o : ObjRec) (k : BitVec 24) (seg line : Nat) (d : PlateWords) :
    (s.moveData p no o k seg line d).quadIsls = s.quadIsls := by
  unfold State.moveData
  split
  · rfl
  · exact postData_quadIsls ..

@[simp] theorem sendPlate_quadIsls (s : State) (p q : SliceNo) (d : PlateWords) (id : Nat) (c : Cargo) :
    (s.sendPlate p q d id c).quadIsls = s.quadIsls := by
  unfold State.sendPlate
  split <;> simp

@[simp] theorem giveEye_quadIsls (s : State) (p q : SliceNo) (o : ObjRec) (k : BitVec 24) (id : Nat) (c : Content) :
    (s.giveEye p q o k id c).quadIsls = s.quadIsls := by
  unfold State.giveEye
  dsimp only
  split <;> simp

@[simp] theorem deliver_quadIsls (s : State) (p : SliceNo) (o : ObjRec) (k : BitVec 24) (dest : RDest) (c : Content) :
    (s.deliver p o k dest c).quadIsls = s.quadIsls := by
  cases dest <;> dsimp only [State.deliver] <;> repeat' split
  all_goals simp only [failRun_quadIsls, giveEye_quadIsls, healStored_quadIsls, moveData_quadIsls, moveFails_quadIsls,
    parkReq_quadIsls, post_quadIsls, postData_quadIsls, sendPlate_quadIsls, takeAlmanac_quadIsls, onSlice_quadIsls]

@[simp] theorem askLines_quadIsls (s : State) (p : SliceNo) (j : RJob) : (s.askLines p j).quadIsls = s.quadIsls :=
  foldl_quadIsls (fun _ _ => memReq_quadIsls ..) _ s

@[simp] theorem readPacked_quadIsls (s : State) (p : SliceNo) (j : RJob) (es : List IdxEntry) :
    (s.readPacked p j es).quadIsls = s.quadIsls := by
  unfold State.readPacked
  dsimp only
  split
  · simp
  · split <;> simp

@[simp] theorem indexFail_quadIsls (s : State) (p : SliceNo) (j : RJob) : (s.indexFail p j).quadIsls = s.quadIsls := by
  simp [State.indexFail]

@[simp] theorem jobDone_quadIsls (s : State) (p : SliceNo) (j : RJob) : (s.jobDone p j).quadIsls = s.quadIsls := by
  unfold State.jobDone
  dsimp only
  repeat' split
  all_goals simp

/-! Writes at home. -/

@[simp] theorem askWrite_quadIsls (s : State) (p : SliceNo) (job : Nat) (l : WLine) (data : List Byte) :
    (s.askWrite p job l data).quadIsls = s.quadIsls := memReq_quadIsls ..

@[simp] theorem mergeOne_quadIsls (s : State) (p : SliceNo) (job addr : Nat) (g : GotLine) :
    (s.mergeOne p job addr g).quadIsls = s.quadIsls := by
  unfold State.mergeOne
  split
  · rfl
  · split
    · rfl
    · dsimp only
      rw [askWrite_quadIsls]
      split
      · exact foldl_quadIsls (fun s q => by split <;> simp) _ _
      · rfl

@[simp] theorem mergeDone_quadIsls (s : State) (p : SliceNo) (addr : Nat) (g : GotLine) :
    (s.mergeDone p addr g).quadIsls = s.quadIsls :=
  foldl_quadIsls (fun _ _ => mergeOne_quadIsls ..) _ s

/-! The loss of a quadrant. -/

@[simp] theorem lineCame_quadIsls (s : State) (r : MemReq) (data : List Byte) (failed : Bool) :
    (s.lineCame r data failed).quadIsls = s.quadIsls := by
  have hdark (c : Bool) : (if c then s.darkenLine r.home r.id false else s).quadIsls = s.quadIsls := by split <;> simp
  unfold State.lineCame
  split
  case h_1 =>
    dsimp only
    split
    · exact hdark failed
    · split <;> simp [hdark]
  case h_2 => exact mergeDone_quadIsls ..
  case h_3 => exact healLine_quadIsls ..
  case h_4 => exact hdark failed
  case h_5 => rfl

@[simp] theorem bridgeCut_quadIsls (s : State) (p : SliceNo) : (s.bridgeCut p).quadIsls = s.quadIsls :=
  foldl_quadIsls (fun _ _ => lineCame_quadIsls ..) _ _

theorem quadLost_quadIsls (s : State) : s.quadLost.quadIsls = s.quadIsls :=
  (foldl_quadIsls (fun _ _ => failRun_quadIsls ..) _ _).trans (foldl_quadIsls bridgeCut_quadIsls _ s)

end Sys2Proof.Machine
end

section
/-! PROOFS. The reset and the release of an island, and its clock (R19, R21, R98 to R102, R140). -/

namespace Sys2Proof.Machine

/-! ISLAND_RESET_ASSERT. -/

/-- The loss of a quadrant, at the quadrant's own reset, leaves its island as it is. -/
theorem quadLost_isl_quadrant {k : IslandNo} (hk : (48 ≤ k.val && k.val < 52) = true) (s : State) : s.quadLost.isl k = s.isl k := by
  rw [Bool.and_eq_true, decide_eq_true_eq, decide_eq_true_eq] at hk
  have hquad : k = xqIsl ⟨k.val - 48, by omega⟩ := Fin.ext (show k.val = 48 + (k.val - 48) by omega)
  rw [hquad]
  exact congrFun (quadLost_quadIsls s) _

/-- The island that is reset holds what a reset leaves of it. -/
theorem islandResetAssert_cleared {k : IslandNo} {s t : State} (hrun : (s.isl k).inReset = false)
    (h : execIslandResetAssert k s = .next t) : ∃ i : Island, t.isl k = i.cleared := by
  rw [execIslandResetAssert, guarded_pos (by rw [hrun]; rfl)] at h
  injection h with h
  rw [← h]
  split
  next hk => exact ⟨_, (quadLost_isl_quadrant hk _).trans (State.onIsl_isl_self ..)⟩
  next => exact ⟨_, State.onIsl_isl_self ..⟩

/-- What the reset keeps of the islands: of the one that is reset RESETS and its clock, of the others all that `Island.kept` names. -/
theorem islandResetAssert_kept {k : IslandNo} {s t : State} (hrun : (s.isl k).inReset = false)
    (h : execIslandResetAssert k s = .next t) :
    (t.isl k).resets = (s.isl k).resets ∧ (t.isl k).clkRun = (s.isl k).clkRun ∧ ∀ j, j ≠ k → (t.isl j).kept = (s.isl j).kept := by
  rcases islandResetAssert_next h with rfl | ⟨-, u, ⟨hu, -⟩, ht, -⟩
  · exact ⟨rfl, rfl, fun _ _ => rfl⟩
  · have hself := kept_isl_at ht k
    rw [State.onIsl_isl_self] at hself
    obtain ⟨-, hclk, hresets, -⟩ := kept_fields hself
    obtain ⟨-, huclk, huresets, -⟩ := kept_fields (keptR_isl hu k)
    refine ⟨hresets.trans huresets, hclk.trans huclk, fun j hj => ?_⟩
    have hother := kept_isl_at ht j
    rw [State.onIsl_isl, if_neg hj.symm] at hother
    exact hother.trans (keptR_isl hu j)

/-! ISLAND_RESET_RELEASE. -/

/-- The copy of the keys is held in slices and link groups: the islands and the units stay. -/
theorem copyKeys_frame (s : State) (k : IslandNo) :
    (∀ j, (s.copyKeys k).isl j = s.isl j) ∧ (s.copyKeys k).cfg = s.cfg ∧ (s.copyKeys k).eph = s.eph ∧ (s.copyKeys k).cmd = s.cmd ∧
      (s.copyKeys k).log = s.log := by
  unfold State.copyKeys
  split
  · exact ⟨fun _ => rfl, rfl, rfl, rfl, rfl⟩
  · dsimp only
    split
    · exact ⟨fun _ => rfl, rfl, rfl, rfl, rfl⟩
    · split <;> exact ⟨fun _ => rfl, rfl, rfl, rfl, rfl⟩

theorem islandResetRelease_eq {k : IslandNo} {s : State} (hpor : s.por = false) (hreset : (s.isl k).inReset = true)
    (hclk : (s.isl k).clkRun = true) : exec (.islandResetRelease k) s =
      .next ((s.onIsl k fun i => i.leaves (if k = cfgIsl then none else s.cfg.store)).copyKeys k) :=
  guarded_pos (by rw [hpor, hreset, hclk]; rfl)

/-- Settles O13: the island that is reset holds what `Island.cleared` leaves (`islandResetAssert_cleared`), the others keep what the
frame library speaks of (`islandResetAssert_kept`), a release is `Island.leaves`, and a clock row is its guarded effect. -/
theorem islandResetsAndClocks : Obligations.IslandResetsAndClocks := by
  unfold Obligations.IslandResetsAndClocks
  refine ⟨fun k s hrun => ?_, fun k s hpor hreset hclk => ?_, fun k s hclk => ?_, fun k s hclk => ?_⟩
  · have hexec : execIslandResetAssert k s = .next _ := rfl
    obtain ⟨i, hi⟩ := islandResetAssert_cleared hrun hexec
    obtain ⟨hresets, hclk, hothers⟩ := islandResetAssert_kept hrun hexec
    refine ⟨_, hexec, congrArg Island.inReset hi, congrArg Island.state hi, congrArg Island.conf hi, congrArg Island.reports hi,
      congrArg Island.ctr hi, congrArg Island.armed hi, hresets, hclk, fun j hj => ?_⟩
    obtain ⟨hin, -, hcount, hcycle⟩ := kept_fields (hothers j hj)
    exact ⟨hin, hcount, hcycle⟩
  · obtain ⟨hisl, hcfg, heph, hcmd, hlog⟩ := copyKeys_frame (s.onIsl k fun i => i.leaves (if k = cfgIsl then none else s.cfg.store)) k
    have hself := (hisl k).trans (State.onIsl_isl_self ..)
    refine ⟨_, islandResetRelease_eq hpor hreset hclk, congrArg Island.inReset hself, congrArg Island.state hself,
      congrArg Island.cycle hself, congrArg Island.seq hself, congrArg Island.resets hself, congrArg Island.conf hself,
      fun j hj => ?_, hcfg, heph, hcmd, hlog⟩
    rw [hisl j, State.onIsl_isl, if_neg hj.symm]
  · exact guarded_pos (by rw [hclk]; rfl)
  · exact guarded_pos hclk

end Sys2Proof.Machine
end
